-- ==== Sys2Proof/Word.lean ====
section
/-! DEFINITION. The word types of the BT4 model and sparse maps as plain data. R2 to R4 fix numbers, bits and bytes. -/

namespace Sys2Proof

/-- One byte. -/
abbrev Byte := BitVec 8
/-- A 16-bit field. -/
abbrev W16 := BitVec 16
/-- A 32-bit field. -/
abbrev W32 := BitVec 32
/-- A 64-bit register, field or address. -/
abbrev W64 := BitVec 64
/-- A 128-bit descriptor (R76, R108, R126, R227, R234). -/
abbrev W128 := BitVec 128

/-- A sparse table: pairs of a key and an entry, keys strictly rising, no entry equal to the default its reader
names. `Machine/Maps.lean` holds its reading and writing. -/
abbrev NMap (α : Type) := List (Nat × α)

/-- Bits `[lo + n - 1 : lo]` of a natural number (R3). -/
def bits (x lo n : Nat) : Nat := x / 2 ^ lo % 2 ^ n

/-- Bit `i` of a natural number. -/
def bit (x i : Nat) : Bool := x.testBit i

end Sys2Proof
end

