-- ==== Sys2Proof/Machine/Types.lean ====
section
/-! DEFINITION. The data types of the machine's parts: status codes, operand records of the commands, and the
records State holds. Plain data only. Each docstring names the rule of spec/ that gives the record. -/

namespace Sys2Proof

/-- The status codes of R292. -/
inductive Status where
  | ok | deferred | rejected | formatFault | translationFault | targetReset | targetOff | poisoned | cancelled
  | stale | streamBusy | prefixGone | noResource | permission | badCommand | timeout
  deriving DecidableEq, Repr, Inhabited

/-- The 8-bit code of a status (R292); the same code stands in replies, tickets and registers. -/
def Status.code : Status → Nat
  | .ok => 0x01 | .deferred => 0x02 | .rejected => 0x03 | .formatFault => 0x10 | .translationFault => 0x11
  | .targetReset => 0x12 | .targetOff => 0x13 | .poisoned => 0x14 | .cancelled => 0x15 | .stale => 0x16
  | .streamBusy => 0x17 | .prefixGone => 0x18 | .noResource => 0x19 | .permission => 0x1A | .badCommand => 0x1B
  | .timeout => 0x1C

/-- The status an 8-bit code names, if it names one (R292). -/
def Status.ofCode (c : Nat) : Option Status :=
  [Status.ok, .deferred, .rejected, .formatFault, .translationFault, .targetReset, .targetOff, .poisoned, .cancelled,
    .stale, .streamBusy, .prefixGone, .noResource, .permission, .badCommand, .timeout].find? (fun s => s.code == c)

/-- The header of a host command packet (R290) and the queue pair that carries it. `rsvSet`: a reserved bit of byte 1
or byte 3 is 1, or the opcode is unlisted. `stray`: an operand byte that the command does not use is not 0 (R293 check 4).
`readFails`, `replyFails`: the CXL transaction that reads the packet from a ring in host memory, or writes the reply there, fails
(R288). -/
structure Pkt where
  qp : BitVec 12
  rsvSet : Bool
  irq : Bool
  sharedStream : Bool
  fence : Bool
  ctx : BitVec 8
  cmdId : W32
  streamClaim : W64
  stray : Bool
  readFails : Bool
  replyFails : Bool
  deriving DecidableEq, Repr, Inhabited

/-- A physical upset that strikes a cell just before an access (R187, R331, R389): the byte offset of a scratchpad cell or, in the
HBM, of a byte of the symbol struck; `double` when one cell or unit is struck beyond what its code corrects. In the HBM a `path` of
4 or 5 is instead a fault in one of the two copies of the codec or the cipher at the unit's next access (R389, R397). -/
structure Upset where
  off : Nat
  double : Bool
  path : Nat := 0
  deriving DecidableEq, Repr, Inhabited

/-- What host memory answers to the reads a command makes of it: bytes by host physical address (0 where none is
listed), and the addresses whose reads came back poisoned. A far-tier read without completion (R339) is listed with them, at
`hostBase` plus its device physical address, above every host address. -/
structure Ext where
  cells : List (Nat × Byte)
  poison : List Nat
  deriving DecidableEq, Repr, Inhabited

/-- The steward's time model at a SEQ_OPEN (R306): the model's predicted per-step time with this slot alone, whether
every non-zero target is met with the new slot, and the retry hint. -/
structure Admission where
  aloneUs : Nat
  feasible : Bool
  hint : W64
  deriving DecidableEq, Repr, Inhabited

/-- What an ADAPTER_LOAD finds: whether the record's layer exists in the placed model with its dimensions (R238, assumption log entry
103), and what host memory answers. -/
structure LayerExt where
  fits : Bool
  ext : Ext
  deriving DecidableEq, Repr, Inhabited

/-- One record of the flash as the boot ROM reads and checks it (R435, R436, R458, R459): whether it is there, whether its
signature verifies under the key of its signer, whether that is the owner, and its bytes, header included. -/
structure FlashRec where
  present : Bool
  sigOk : Bool
  owner : Bool
  body : List Byte
  deriving DecidableEq, Repr, Inhabited

/-- The memory behind a far-tier port (R337): its volatile capacity in units of 256 MiB, the link's width as R340 writes it. -/
structure FarMem where
  units : Nat
  width : Nat
  deriving DecidableEq, Repr, Inhabited

/-- What the enumeration of a far-tier port finds there (R337): `kind` 0 nothing, 1 a single logical Type 3 device, 2 a switch, 3 a
multi-logical device, 4 a device of another type; its memory. -/
structure FarDev where
  kind : Nat
  mem : FarMem
  deriving DecidableEq, Repr, Inhabited

/-- What a boot reads and measures (R455 to R459): flash, `imageRoot` the SHA-256 of the root key in the image header, `sealed` the
steward's own sealed records (R440),  PUF, certificate, self-test, HBM training, far-tier ports. `badLanes` are
(tile, physical lane), `badGlens` (glen, cause, tile, row), `trims` (quad, item, sensor, code, measured value), `farCap` the devices
by port. -/
structure BootInputs where
  dirOk : Bool
  image : FlashRec
  imageSecVer : Nat
  imageFwVer : Nat
  imageTest : Bool
  imageSupported : Bool
  imageRoot : BitVec 256
  repair : FlashRec
  identity : Bool
  pufOk : Bool
  certOk : Bool
  install : FlashRec
  policy : FlashRec
  sealed : List (List Byte)
  colSelfTest : Bool
  badLanes : List (Nat × Nat)
  badGlens : List (Nat × Nat × Nat × Nat)
  badQuads : List Nat
  trims : List (Nat × Nat × Nat × Nat × Nat)
  stacksTrained : List Nat
  farCap : List (Nat × FarDev)
  deriving DecidableEq, Repr, Inhabited

/-- The header of an Ohmist packet (R373) with its payload; `authOk` is whether its GCM tag verifies under the key its
key_id names (R382, R447), `poison` the payload bytes (offset, length) of the elements that carry the poison indication (R214). -/
structure Packet where
  ptype : BitVec 4
  xdir : Bool
  ydir : Bool
  dstNode : BitVec 14
  srcNode : BitVec 14
  srcTile : Byte
  tgen : Byte
  job : W16
  xtag : W16
  serial : W16
  keyId : Byte
  opened : Bool
  resent : Bool
  dstVa : W64
  birth : W32
  payload : List Byte
  authOk : Bool
  poison : List (Nat × Nat)
  deriving DecidableEq, Repr, Inhabited

/-- How a management packet arrived (R371, R382, R448): the port, the source node, whether its tag verifies under the management
key (without a key: whether it is untagged). -/
structure MgmtHdr where
  via : BitVec 4
  node : BitVec 14
  tagOk : Bool
  deriving DecidableEq, Repr, Inhabited

/-- The resets of R401 to R404. -/
inductive RLevel where
  | context | engine | partition | chip | power
  deriving DecidableEq, Repr, Inhabited

/-- The 553 timing domains (R24), one of which stalls in a HANG (R399, R400, R396). -/
inductive Domain where
  | engine (t : Byte) | core (t : Byte) | hbm (s : BitVec 4) | cxl | far (p : BitVec 1) | ohmist (p : Fin 12)
  | saddle (s : BitVec 3) | colCore | steward
  deriving DecidableEq, Repr, Inhabited

/-- A register of a core that a later instruction can wait for (R168). -/
inductive Dst where
  | g (i : Nat) | f (i : Nat) | p (i : Nat)
  deriving DecidableEq, Repr, Inhabited

namespace Machine

/-! ### The tile core (08) -/

/-- A value on its way to a register, and the registers it waits for when it is computed from pending ones (R168). -/
structure Pend where
  dst : Dst
  val : Nat
  deps : List Dst
  deriving DecidableEq, Repr, Inhabited

/-- What an operation issued to the array, vector or DMA engine carries: the slot value and the descriptors or register
operands in force at issue (R154, R157); `ord` orders the issues of one tile across its engines (R60). -/
structure Issue where
  word : Nat
  d0 : Nat
  d1 : Nat
  d2 : Nat
  chain : List Nat
  vdesc : NMap Nat
  ord : Nat
  deriving DecidableEq, Repr, Inhabited

/-- A provisional effect, held until its branch resolves (R170). -/
inductive Prov where
  | store (off size : Nat) (val : Nat)
  | read (off size : Nat)
  | array (i : Issue)
  | vector (i : Issue)
  | dma (i : Issue)
  | sticky (fl : Nat)
  | exc (cause pc detail : Nat)
  | flow (target : Nat)
  | commit
  deriving DecidableEq, Repr, Inhabited

/-- An unresolved branch (R168 to R171): the registers, the path not taken and the provisional work before it. -/
structure Ckpt where
  g : NMap Nat
  f : NMap Nat
  p : Nat
  pend : List Pend
  commits : Nat
  pred : Nat
  neg : Bool
  predicted : Bool
  callee : Bool
  pc : Nat
  otherPc : Nat
  link : Nat
  target : Nat
  provLen : Nat
  deriving DecidableEq, Repr, Inhabited

/-- What a core is doing (R143 to R145, R157, R161, R165, R167). A wait keeps the phase its arrival was counted in, none while
an epoch holds the arrival (R281, R319), and the outcome for pd once that is decided (R320). -/
inductive CoreRun where
  | idle
  | running
  | syncWait (bundle since : Nat) (phase pd : Option Nat)
  | svc (num : Nat)
  | halting
  | ending (st : Status) (cause pc detail : Nat)
  deriving DecidableEq, Repr, Inhabited

/-- The tile core: the architectural registers of R140, the CSRs of R141 that hold state, and its run-ahead state. -/
structure Core where
  run : CoreRun
  frozen : Bool
  pc : Nat
  g : NMap Nat
  f : NMap Nat
  p : Nat
  sticky : Nat
  runahead : Bool
  pend : List Pend
  ckpts : List Ckpt
  prov : List Prov
  work : Option Nat
  commits : Nat
  flow : List Nat
  poisonSeen : Bool
  epoch : Nat
  slotBound : Option Nat
  appRange : Nat × Nat
  istore : NMap Byte
  ipoison : List Nat
  ilatent : NMap Bool
  deriving DecidableEq, Repr, Inhabited

/-- The status kept for a ticket (R163, R164). -/
inductive Tk where
  | pending
  | done (st : Status) (flags : Nat)
  deriving DecidableEq, Repr, Inhabited

/-- Tickets of one engine: the last number issued, the words of the latest 64 and those still pending (R162, R164). -/
structure Tickets where
  issued : Nat
  kept : NMap Tk
  deriving DecidableEq, Repr, Inhabited

/-! ### The array (04, 05, 06) -/

/-- The plane block a slot belongs to (R84 to R86). -/
structure Plane where
  first : Nat
  b : Nat
  eRef : Nat
  intact : Bool
  exps : NMap Nat
  deriving DecidableEq, Repr, Inhabited

/-- One slot of the lane weight store (R64): lane l's byte k at key 8l + k, 121 where none is listed; the column sums of
each eighth of the lanes from which the check rows are formed (R80, R90, R98), C of eighth h and input i at key 40h + i. -/
structure Slot where
  bytes : NMap Nat
  sums : NMap Int
  poison : Bool
  zero : Bool
  failed : Bool
  plane : Option Plane
  deriving DecidableEq, Repr, Inhabited

/-- One accumulator row (R51, R101): acc20 and acc32 of the 1,024 lanes, the metadata and the promotion counter. -/
structure Row where
  acc20 : NMap Int
  acc32 : NMap Int
  tag : Nat
  planeN : Nat
  poison : Bool
  sat : Bool
  ctr : Nat
  deriving DecidableEq, Repr, Inhabited

/-- A step whose check comparison has not been made yet (R81, R90, R98): the row, and K and L of each group. -/
structure Check where
  set : Nat
  entry : Nat
  slot : Nat
  ticket : Nat
  kl : List (Int × Int)
  deriving DecidableEq, Repr, Inhabited

/-- An issued array operation: step, load or drain (R72, R75, R77, R107). `next` is the next token or row; a drain holds
the weight scales it has read and the draws left of its current random word (R60, R108). -/
structure AOp where
  ticket : Nat
  i : Issue
  begun : Bool
  next : Nat
  sub : Nat
  skip : Bool
  res : Status
  flags : Nat
  poisonRows : List Nat
  scales : NMap Nat
  scaleBad : Bool
  word : Nat
  left : Nat
  deriving DecidableEq, Repr, Inhabited

/-- A row of the finished-tile queue (R113): where it goes and what it carries. -/
structure QRow where
  ticket : Nat
  dest : Bool
  last : Bool
  form : Nat
  vals : NMap Nat
  tag : Nat
  planeN : Nat
  sat : Bool
  poison : Bool
  addr : Nat
  deriving DecidableEq, Repr, Inhabited

/-! ### The vector engine (07) -/

/-- A look-up slot (R131). -/
structure Lut where
  v : NMap Nat
  hdr : Nat
  poison : Bool
  deriving DecidableEq, Repr, Inhabited

/-- An issued vector operation and its progress: the next beat, the queue row in hand, what its reductions have gathered
(by stage), flags, poison, the stride-0 inputs and the SPLIT list read at the start, and the draws left of the current
random word (R119 to R139). -/
structure VOp where
  ticket : Nat
  i : Issue
  begun : Bool
  beat : Nat
  qrow : Option QRow
  qdone : Nat
  acc : NMap (List (Nat × Bool))
  flags : Nat
  poison : Bool
  reject : Bool
  once : NMap (Nat × Bool)
  split : List Nat
  word : Nat
  left : Nat
  deriving DecidableEq, Repr, Inhabited

/-! ### DMA (10) -/

/-- The states of R217. -/
inductive XState where
  | queued | running | stopping | suspended | ending | done
  deriving DecidableEq, Repr, Inhabited

/-- A write issued and not yet acknowledged: its unit, the address it was given and the physical destination, key, data, poison.
`kind` 0 plain bytes, 1 integer add, 2 fp32 operand, 3 another package (`serial` the packet that carries it), 4 part of the
compressed group `grp` at `off` (R211, R213). -/
structure OutW where
  idx : Nat
  kind : Nat
  va : Nat
  pa : Nat
  key : Nat
  data : List Byte
  poison : Bool
  grp : Nat
  off : Nat
  serial : Option Nat
  deriving DecidableEq, Repr, Inhabited

/-- A DMA transfer (R203, R215 to R217): its descriptor after the register add, progress, what is staged and issued, and the
fields of its progress record. `staged` holds source data by unit, none for a compressed group that does not decode; `dir` the
place and the length of each block record that a compress-on-store has issued; `partly` the pieces (unit, place) at or above
next_elem that are already acknowledged; `endAt` the unit of the ending condition `ended`. -/
structure Xfer where
  ticket : Nat
  queue : Nat
  i : Issue
  st : XState
  hdr : Nat
  src : Nat
  dst : Nat
  cnt : Nat
  s : List Int
  d : List Int
  opx : Nat
  form : Nat
  nextIssue : Nat
  staged : NMap (Option (List Byte) × Bool)
  dir : NMap (Nat × Nat)
  outst : List OutW
  partly : List (Nat × Nat)
  outOff : Nat
  reason : Nat
  ended : Option Status
  endAt : Nat
  faultVa : Nat
  access : Bool
  anyPoison : Bool
  deriving DecidableEq, Repr, Inhabited

/-- A cached translation (R200): context, virtual page base and size, physical base, leaf bits, and the generation of
the target tile that R406 tags it with. -/
structure Tlb where
  ctx : Nat
  va : Nat
  size : Nat
  pa : Nat
  leaf : Nat
  gen : Nat
  deriving DecidableEq, Repr, Inhabited

/-- One tile (R12, R15): core, tickets, array, vector engine, DMA engine, translation unit and scratchpad. `turn` is the DMA queue
served last (R210), `upper` the cached table entries of L4 to L2, whose `pa` is the next table (R200). `sp` holds the
18 MiB by byte offset; `poison` the marked cells, `latent` the cells an upset has struck (true: not correctable). -/
structure Tile where
  ctx : Option Nat
  core : Core
  tkA : Tickets
  tkV : Tickets
  tkD : Tickets
  act : NMap Nat
  drain : NMap Nat
  vdesc : NMap Nat
  chain : NMap Nat
  patch : NMap Nat
  sparse : NMap Nat
  slots : NMap Slot
  accA : NMap Row
  accB : NMap Row
  checks : List Check
  aops : List AOp
  ftq : List QRow
  luts : NMap Lut
  vops : List VOp
  xfers : List Xfer
  turn : Nat
  tlb : List Tlb
  upper : List Tlb
  kvb : List Tlb
  sp : List (Nat × Byte)
  poison : List Nat
  latent : NMap Bool
  resid : List Nat
  reload : List Nat
  lostGold : List Nat
  disabled : Bool
  gen : Nat
  inReset : Bool
  deriving DecidableEq, Repr, Inhabited

/-! ### Quads and power (02, 20) -/

/-- One quad: QUAD_RATE (R30) with the number of the 1,024 ns window it was read in, QUAD_POWER and its set points (R418 to R420).
Voltages are codes of 5 mV above 0.55 V. -/
structure Quad where
  junction : Nat
  voltage : Nat
  rate : Nat
  valid : Bool
  window : Nat
  gov : Nat
  ceilP : Nat
  ceilT : Nat
  off : Bool
  offCause : Nat
  retLost : Bool
  scrubPass : Bool
  power : Nat
  thermAt : Nat
  deriving DecidableEq, Repr, Inhabited

/-! ### Configuration sets (22) -/

/-- A voltage policy record (R421). -/
structure Policy where
  mode : Nat
  vMin : Nat
  vMax : Nat
  vFixed : Nat
  cap : Nat
  margin : Nat
  deriving DecidableEq, Repr, Inhabited

/-- A partition of a set: glen mask and policy (R460). -/
structure PartCfg where
  glens : Nat
  present : Bool
  pol : Policy
  deriving DecidableEq, Repr, Inhabited

/-- A region entry (R460). -/
structure Region where
  base : Nat
  units : Nat
  kind : Nat
  owner : Nat
  compressed : Bool
  writable : Bool
  tset : Nat
  deriving DecidableEq, Repr, Inhabited

/-- A job key entry after unwrapping (R445). -/
structure JobKey where
  job : Nat
  ctx : Nat
  sendId : Nat
  idA : Option Nat
  idB : Option Nat
  dump : Bool
  keyA : List Byte
  keyB : List Byte
  dumpKey : List Byte
  deriving DecidableEq, Repr, Inhabited

/-- A configuration set (R460). `tsets` holds sets 1 to 15 by byte, `modes` byte t of tile t, `rings` by ring index. -/
structure CfgSet where
  serial : Nat
  parts : NMap PartCfg
  pkgCap : Nat
  regions : List Region
  tsets : NMap Nat
  modes : NMap Nat
  rings : NMap Nat
  thr : NMap Nat
  wlim : NMap Nat
  jobs : List JobKey
  image : List Byte
  deriving DecidableEq, Repr, Inhabited

/-! ### Contexts, models, sequences, work (12 to 14) -/

/-- An adapter installed in a context (R238, R239, R300): its model and identifier, where its image lies, the fields of its record, and
the e_ref of each block of the image in order. -/
structure Adapter where
  model : Nat
  id : Nat
  va : Nat
  len : Nat
  layer : Nat
  scale : Nat
  rank : Nat
  dIn : Nat
  dOut : Nat
  eRefs : List Nat
  deriving DecidableEq, Repr, Inhabited

/-- A context (R296) with its suspension (R218), generation counter (R253), swap map and kernel image. `susp` holds the
unresolved faults: (tile, ticket, reason). `sticky` keeps the sticky status of tiles now bound to another context. `tables` are the pages of its page tables (R197, R199);
`swapped` holds (backing, entry, size) of the pages swapped out, `vault` what the sealed frames in host memory open to, by
host physical address (R298, R444). -/
structure Ctx where
  seed : Nat
  part : Nat
  refMode : Bool
  swapBase : Nat
  swapSize : Nat
  stickyCol : Bool
  sticky : NMap Nat
  suspended : Bool
  susp : List (Nat × Nat × Nat)
  root : Nat
  gen : Nat
  key : Nat
  tables : List Nat
  image : List Byte
  tiles : List Nat
  closed : List (Nat × Nat)
  swapped : NMap (Nat × Nat × Nat)
  vault : List (Nat × Byte)
  vaultPoison : List Nat
  variants : List (Nat × Nat × Nat × Nat)
  adapters : List Adapter
  deriving DecidableEq, Repr, Inhabited

/-- An attention layer of a model (R264, R299). -/
structure Attn where
  layer : Nat
  h : Nat
  d : Nat
  k4 : Bool
  deriving DecidableEq, Repr, Inhabited

/-- A placed model (R299): its resident blocks with their golden copies, expert layers, attention layers, store images and
package list. -/
structure Model where
  part : Nat
  verify : Nat
  blocks : List (Nat × Nat × Nat)
  experts : List (Nat × Nat)
  attn : List Attn
  stores : List (Nat × Nat × Nat)
  pkgs : List Nat
  key : Nat
  kernel : List Byte
  deriving DecidableEq, Repr, Inhabited

/-- A KV run (R264): its physical address, or none while swapped out; whether it is shared (R274); whether its KV map entry is
marked poisoned (R201). -/
structure Run where
  pa : Option Nat
  shared : Bool
  swap : Nat
  bad : Bool
  deriving DecidableEq, Repr, Inhabited

/-- A sequence slot (R272, R302, R303). Runs are keyed by layer * 2^26 + run. `state` is the code of R302. `victim`: the steward
has chosen the slot for pre-emption (R277); `fresh`: no step of it has begun (R306); `inh`: whole runs shared from
the prefix it was opened with (R275, R306); `tokenHeld`: a token has come from the epoch's home and is not yet acknowledged (R283); `opened` and `preempted` order the opens and
the pre-emptions. -/
structure Seq where
  state : Nat
  serial : Nat
  ctx : Nat
  model : Nat
  variant : Nat
  ads : List Nat
  cls : Nat
  target : Nat
  maxLen : Nat
  c : Nat
  a : Nat
  epoch : Nat
  action : Option (Bool × Nat)
  acks : List Nat
  tokenAt : Nat
  tokenHeld : Bool
  opened : Nat
  preempted : Nat
  inh : Nat
  reserved : Nat
  victim : Bool
  fresh : Bool
  runs : NMap Run
  deriving DecidableEq, Repr, Inhabited

/-- A prefix (R274, R276). -/
structure Prefix where
  ctx : Nat
  handle : Nat
  len : Nat
  model : Nat
  used : Nat
  runs : NMap Run
  deriving DecidableEq, Repr, Inhabited

/-- The state of a work item (R143, R144, R295). -/
inductive Item where
  | ready
  | running
  | ended (st : Status) (result : Nat)
  deriving DecidableEq, Repr, Inhabited

/-- One work item: the tile, the entry address, g1 to g8 and its state. -/
structure WItem where
  tile : Nat
  entry : Nat
  args : List Nat
  st : Item
  deriving DecidableEq, Repr, Inhabited

/-- What kind of command waits in the steward: work (R294), or a close, a prefix save or a cancel of a slot (R308, R309). -/
inductive WKind where
  | step | frame | launch | close | save | cancel
  deriving DecidableEq, Repr, Inhabited

/-- A command taken and not answered (R295, R307 to R310, R312, R415). `slot` is 1,024 for a command of no slot; `pos` and
`drafts` are the positions and drafts of a step, the length and handle of a prefix save, the scope of a cancel; `j` is the
committed count of a step's epoch; `toks` are the token identifiers it carries (R248), `tokSt` the first status other than ST_OK that
COMBINE has given one of its tokens (R262). -/
structure Work where
  h : Pkt
  kind : WKind
  ctx : Nat
  items : List WItem
  started : Bool
  slot : Nat
  handle : Nat
  pos : Nat
  drafts : Nat
  j : Nat
  epoch : Nat
  aOld : Nat
  aNew : Nat
  model : Nat
  verify : Nat
  resVa : Nat
  frame : Nat
  deadline : Nat
  runLate : Bool
  late : Bool
  cls : Nat
  answer : Option Status
  dirty : Bool
  rerun : Bool
  rngSave : NMap Nat
  taken : Nat
  toks : List Nat
  tokSt : Option Status
  deriving DecidableEq, Repr, Inhabited

/-- A return window (R254, R257, R280). `epoch` is the speculation epoch it was opened under (0 for none), `status` the offset
of the window status byte on its tile, if it has one, `closing` the status code it closes with. -/
structure Window where
  ctx : Nat
  tag : Nat
  tile : Nat
  off : Nat
  len : Nat
  expect : Nat
  count : Nat
  sig : Nat
  deadline : Nat
  epoch : Nat
  status : Option Nat
  closing : Option Nat
  deriving DecidableEq, Repr, Inhabited

/-! ### Queue pairs, replies, events (14, 19) -/

/-- A reply (R291). -/
structure Reply where
  cmdId : Nat
  status : Status
  late : Bool
  phase : Bool
  sqHead : Nat
  result0 : Nat
  result1 : Nat
  doneNs : Nat
  deriving DecidableEq, Repr, Inhabited

/-- A queue pair (R285 to R289). `cq` holds the replies in the completion ring that host software has not freed; `ringHbm` is
cq_hbm as it was when the pair became active, `ringLost` a ring in host memory lost to a port reset (R353). -/
structure Qp where
  enable : Bool
  sqHbm : Bool
  cqHbm : Bool
  devQueue : Bool
  ctx : Nat
  msix : Nat
  coalesce : Nat
  sqBase : Nat
  cqBase : Nat
  sqLog : Nat
  cqLog : Nat
  active : Bool
  error : Bool
  fnDis : Bool
  errCode : Nat
  sqHead : Nat
  sqTail : Nat
  cqTail : Nat
  cqHead : Nat
  phase : Bool
  taken : Nat
  cq : List Reply
  since : Nat
  oldest : Option Nat
  ringHbm : Bool
  ringLost : Bool
  deriving DecidableEq, Repr, Inhabited

/-- An event record (R396, R397). `detail` lists (byte offset, bytes, value). -/
structure Event where
  seq : Nat
  type : Nat
  kind : Nat
  ctx : Option Nat
  time : Nat
  unit : Nat
  index : Nat
  gen : Nat
  detail : List (Nat × Nat × Nat)
  deriving DecidableEq, Repr, Inhabited

/-- A signal object (R317, R318). -/
structure Signal where
  count : Nat
  commitBound : Bool
  deriving DecidableEq, Repr, Inhabited

/-- A barrier object (R317, R319, R322, R323). `home` is the node of its home package when it has job scope. -/
structure Barrier where
  p : Nat
  arrived : Nat
  phase : Nat
  broken : Bool
  commitBound : Bool
  home : Option Nat
  lastSent : Option Nat
  deriving DecidableEq, Repr, Inhabited

/-- A pending SIGNAL_WAIT (R325). -/
structure SigWait where
  h : Pkt
  ctx : Nat
  ident : Nat
  target : Nat
  deadline : Nat
  deriving DecidableEq, Repr, Inhabited

/-- Actions an epoch holds on one object (R281). -/
structure Held where
  slot : Nat
  ctx : Nat
  barrier : Bool
  ident : Nat
  amount : Nat
  deriving DecidableEq, Repr, Inhabited

/-- An open fixed tree of a stack (R347, R348). -/
structure Tree where
  ctx : Nat
  dst : Nat
  n : Nat
  leaves : NMap (Nat × Bool)
  deriving DecidableEq, Repr, Inhabited

/-! ### Links (18) -/

/-- A flit kept for resending, or seen (R368, R369). -/
structure Flit where
  seq : Nat
  vc : Nat
  units : Nat
  deriving DecidableEq, Repr, Inhabited

/-- An Ohmist port (R366 to R371, R385); `waiting` holds the packets, with whether they are this package's own, that no credit or no
room in the replay buffer lets go yet. -/
structure Port where
  cabled : Bool
  up : Bool
  degraded : Bool
  disabled : Bool
  lanes : Nat
  retrains : Nat
  nextTry : Nat
  txSeq : Nat
  rxSeq : Nat
  replay : List Flit
  awaiting : Bool
  nakSeq : Nat
  nakCount : Nat
  lastValid : Nat
  credits : NMap Nat
  waiting : List (Packet × Bool)
  deriving DecidableEq, Repr, Inhabited

/-- A receiver's flow entry (R378): the next expected serial and the statuses of the last 32. -/
structure Flow where
  node : Nat
  tile : Nat
  cls : Nat
  expected : Nat
  statuses : List (Nat × Status)
  last : Nat
  deriving DecidableEq, Repr, Inhabited

/-- A sender's flow (R376, R378, R379): its plane, next serial, unsettled packets, when the oldest was sent. -/
structure SFlow where
  tile : Nat
  node : Nat
  cls : Nat
  port : Option Nat
  nextSerial : Nat
  opened : Bool
  unsettled : List Packet
  sentAt : Nat
  lastAck : Nat
  laterAt : Option Nat
  deriving DecidableEq, Repr, Inhabited

/-- The installation record (R459). -/
structure Install where
  nx : Nat
  ny : Nat
  node : Nat
  slots : Nat
  cabled : Nat
  planeSeed : Nat
  master : Nat
  parent : Nat
  alternate : Nat
  checkPeer : Nat
  asymmetry : List Int
  deriving DecidableEq, Repr, Inhabited

/-- An HBM stack (R333 to R335, R347); `patrolAt` is the unit that its patrol reads next. -/
structure Stack where
  temp : Nat
  srepairs : Nat
  hot : Bool
  patrolAt : Nat
  patrolDone : Bool
  trained : Bool
  available : Bool
  discarded : Nat
  trees : List Tree
  deriving DecidableEq, Repr, Inhabited

/-- A far-tier port (R337 to R340): the enumerated capacity in units of 256 MiB, the link's width, its state. -/
structure Far where
  units : Nat
  width : Nat
  failed : Bool
  enabled : Bool
  present : Bool
  deriving DecidableEq, Repr, Inhabited

/-- A function disable that waits for its last completion, with the enables that wait for it and the transfers, by tile and
ticket, that were in flight (R314, R315). -/
structure Disable where
  hs : List Pkt
  keep : List (Nat × Nat)
  enables : List (Pkt × FarDev)
  kind : Nat
  index : Nat
  abort : Bool
  deriving DecidableEq, Repr, Inhabited

/-- A reset in progress (R401 to R404): the level, the level first asked for, what it names, the commands that reply when it
completes, the contexts it resets as well, those of them it destroys, whether it has begun (R409 may hold it), its tiles.
`since` is wall time. -/
structure Reset where
  level : RLevel
  asked : RLevel
  target : Nat
  hs : List Pkt
  ctxs : List Nat
  kill : List Nat
  begun : Bool
  tiles : List Nat
  since : Nat
  deriving DecidableEq, Repr, Inhabited

/-- A hang dump (R474, R475): its handle, its context and its bytes as they were sealed. -/
structure Dump where
  handle : Nat
  ctx : Nat
  bytes : List Byte
  deriving DecidableEq, Repr, Inhabited

end Machine
end Sys2Proof
end

