-- ==== Sys2Proof/Syntax.lean ====
section
/-! DEFINITION. The commands of the BT4: one constructor per row of spec/opcode_table.json, with the row's operands. A
scalar-instruction row carries the tile and the fields of its format (R146); a host command row carries its packet header
(R290) and operands; an event row carries what the outside brings: measured values, data read from host memory, physical
upsets (assumption log entries 3, 4). -/

namespace Sys2Proof

/-- The commands. Each docstring is the row of the table with its rule. -/
inductive Instr where
  /-- DEVICE_QUERY (R294): Returns the counts of free contexts and free sequence slots, and the free KV pool bytes. -/
  | deviceQuery (h : Pkt)
  /-- DEVICE_NOP (R294): Replies ST_OK and does nothing else. -/
  | deviceNop (h : Pkt)
  /-- CTX_CREATE (R296): Creates a context with its seed, partition, reference-mode flag and host swap area, and generates its keys. -/
  | ctxCreate (h : Pkt) (seed : W64) (part : Byte) (refMode : Bool) (swapBase swapSize : W64)
  /-- CTX_DESTROY (R401): Destroys a context: ends its work, zeroises its scratchpad and keys, and frees its slots, prefixes and objects. -/
  | ctxDestroy (h : Pkt)
  /-- CTX_RESET (R401): Resets one context on every tile it uses, with the effects that R402 lists. -/
  | ctxReset (h : Pkt)
  /-- CTX_QUERY (R297): Returns the context's sticky status and state, and clears the sticky status if the command asks for it. -/
  | ctxQuery (h : Pkt) (clear : Bool)
  /-- CTX_RESUME (R297): Resumes a context that a not-present fault has suspended. -/
  | ctxResume (h : Pkt)
  /-- CTX_FAULT_ABORT (R297): Ends the transfers suspended on a not-present fault with ST_TRANSLATION_FAULT and resumes the context. -/
  | ctxFaultAbort (h : Pkt)
  /-- MEM_MAP (R298): Writes page table entries for a virtual range of a context. -/
  | memMap (h : Pkt) (va pa len : W64) (pageSize leaf : Byte)
  /-- MEM_UNMAP (R298): Invalidates the mappings of a range and replies when the invalidation is complete. -/
  | memUnmap (h : Pkt) (va len : W64)
  /-- MEM_SWAP_OUT (R298): Invalidates a range, copies it to a backing address and marks its entries swapped. -/
  | memSwapOut (h : Pkt) (va len backing : W64)
  /-- MODEL_PLACE (R299): Places a model from its placement record: writes golden copies and resident blocks, sets masks and maps store images. -/
  | modelPlace (h : Pkt) (recPa recLen : W64) (part : Byte) (model : W16) (ext : Ext)
  /-- MODEL_REMOVE (R299): Removes a placed model, unless a slot or frame still uses it. -/
  | modelRemove (h : Pkt) (model : W16)
  /-- VARIANT_LOAD (R300): Registers a trit-patch variant from a patch image in the context's memory. -/
  | variantLoad (h : Pkt) (model variant : W16) (va len : W64) (ext : Ext)
  /-- VARIANT_REMOVE (R300): Removes a variant, unless an open slot names it. -/
  | variantRemove (h : Pkt) (model variant : W16)
  /-- ADAPTER_LOAD (R300): Checks a BN2 adapter record and writes its B16 adapter image into an output area. -/
  | adapterLoad (h : Pkt) (model adapter : W16) (va len outVa : W64) (ext : LayerExt)
  /-- ADAPTER_REMOVE (R300): Removes an adapter, unless an open slot names it. -/
  | adapterRemove (h : Pkt) (model adapter : W16)
  /-- SEQ_OPEN (R306): Admits a sequence slot, reserving KV pages and evicting or pre-empting as needed, or answers deferred, rejected or no resource. -/
  | seqOpen (h : Pkt) (model variant : W16) (maxLen : W32) (cls nAds : Byte) (ads : List W16) (target : W32) (pfx : W64) (adm : Admission)
  /-- SEQ_STEP (R307): Advances the appended length and issues the work items of one step, opening a speculation epoch if the step carries drafts. -/
  | seqStep (h : Pkt) (handle : W32) (posM1 drafts : BitVec 6) (tokVa outVa argVa : W64) (plan : List Byte) (ext : Ext)
  /-- SEQ_CANCEL_EPOCH (R308): SEQ_CANCEL with scope 0: cancels the slot's open epoch, or does nothing if none is open. -/
  | seqCancelEpoch (h : Pkt) (handle : W32)
  /-- SEQ_CANCEL_SEQUENCE (R308): SEQ_CANCEL with scope 1: cancels any epoch, ends the step in flight and the queued steps, and frees the slot. -/
  | seqCancelSequence (h : Pkt) (handle : W32)
  /-- SEQ_CLOSE (R308): Waits for the steps taken earlier, then frees the slot's unshared runs and its reservation. -/
  | seqClose (h : Pkt) (handle : W32)
  /-- PREFIX_SAVE (R274): Saves the committed cache up to length L as a prefix, sharing whole runs and copying a partial last run. -/
  | prefixSave (h : Pkt) (handle len : W32) (pfx : W64)
  /-- PREFIX_REMOVE (R309): Removes a prefix's references, or answers ST_PREFIX_GONE. -/
  | prefixRemove (h : Pkt) (pfx : W64)
  /-- SEQ_QUERY (R302): Returns a slot's state, deadline class, committed length and appended length. -/
  | seqQuery (h : Pkt) (handle : W32)
  /-- FRAME_SUBMIT (R310): Takes a frame with its deadline, or rejects it at take when its deadline cannot be met. -/
  | frameSubmit (h : Pkt) (model : W16) (cls : Byte) (runLate : Bool) (frame : W32) (deadline inVa outVa argVa predicted : W64) (plan : List Byte)
  /-- FRAME_CANCEL (R311): Cancels a pending or running frame. -/
  | frameCancel (h : Pkt) (frame : W32)
  /-- KERNEL_LOAD (R301): Replaces the context's kernel image. -/
  | kernelLoad (h : Pkt) (va len : W64) (ext : Ext)
  /-- KERNEL_LAUNCH (R301): Starts invocations on the masked glens and tiles and writes their HALT results. -/
  | kernelLaunch (h : Pkt) (glens tiles : W16) (entry : W32) (argsVa resVa : W64) (ext : Ext)
  /-- SYNC_CREATE (R325): Creates a signal or barrier object under a context-local identifier. -/
  | syncCreate (h : Pkt) (kind flags : Byte) (ident : W16) (count : W32) (initial : W64) (home model : W16)
  /-- SYNC_DESTROY (R325): Destroys a signal or barrier object, unless a wait is pending on it or an epoch holds actions on it. -/
  | syncDestroy (h : Pkt) (kind : Byte) (ident : W16)
  /-- SIGNAL_ADD (R318): Host command that adds an amount to a signal's count, saturating. -/
  | signalAdd (h : Pkt) (ident : W16) (amount : W64)
  /-- SIGNAL_WAIT (R325): Host command that waits until a signal reaches a target, for at most a limit. -/
  | signalWait (h : Pkt) (ident : W16) (target : W64) (limitUs : W32)
  /-- SIGNAL_WAIT_LIMIT (R325): A pending SIGNAL_WAIT's limit passes and it answers ST_TIMEOUT. -/
  | signalWaitLimit (qp : BitVec 12) (cmdId : W32)
  /-- CONFIG_STAGE (R461): Validates a configuration set from the staging window or HBM and makes it the shadow set. -/
  | configStage (h : Pkt) (source : Byte) (addr : W64) (len : W32)
  /-- CONFIG_SWAP (R463): Checks the shadow set, fences every unit and flips the active-set selector in one handshake. -/
  | configSwap (h : Pkt) (fenceOk : Bool)
  /-- CONFIG_FENCE_TIMEOUT (R463): A fence not complete within 40 µs makes every unit resume under the old set, and the swap answers ST_TIMEOUT. -/
  | configFenceTimeout
  /-- FUNCTION_DISABLE (R314): Disables a glen, Ohmist port, far-tier port or queue pair, draining or aborting its work. -/
  | functionDisable (h : Pkt) (kind mode : Byte) (index : W16)
  /-- FUNCTION_ENABLE (R314): Returns a disabled target to service. -/
  | functionEnable (h : Pkt) (kind : Byte) (index : W16) (device : Byte) (mem : FarMem)
  /-- FW_STAGE (R465): Checks a firmware image and holds it in col-die memory. -/
  | fwStage (h : Pkt) (pa : W64) (len : W32)
  /-- FW_ACTIVATE (R466): Pauses command interpretation, switches to the staged firmware and changes the alias and sealing keys. -/
  | fwActivate (h : Pkt)
  /-- ENGINE_RESET (R403): Resets one tile's engines and cores and advances its generation. -/
  | engineReset (h : Pkt) (tile : Byte)
  /-- PARTITION_RESET (R403): Resets the compute of a partition's glens and advances its generations. -/
  | partitionReset (h : Pkt) (part : Byte)
  /-- COUNTER_SNAPSHOT (R469): Schedules a snapshot of all counters at a common-count instant. -/
  | counterSnapshot (h : Pkt) (instant : W64)
  /-- COUNTER_SNAPSHOT_LATCH (R470): At the instant T each unit latches its counters, and the snapshot bank flips when the last unit has written. -/
  | counterSnapshotLatch
  /-- DUMP_READ (R476): Copies a hang dump unchanged into a staging range. -/
  | dumpRead (h : Pkt) (handle dst : W64) (len : W32)
  /-- TRACE_START (R471): TRACE_CONTROL with action 1: starts instruction trace of a context's cores or of the steward into a ring. -/
  | traceStart (h : Pkt) (source ctx : Byte) (base : W64) (size : W32)
  /-- TRACE_STOP (R471): TRACE_CONTROL with action 0: ends trace once every accepted record has been written. -/
  | traceStop (h : Pkt)
  /-- QP_ENABLE (R285): Writing QP_CTL.enable as 1 activates a queue pair, or sets its error bit for a bad size or context. -/
  | qpEnable (qp : BitVec 12) (value : W64)
  /-- QP_DISABLE (R285): Writing QP_CTL.enable as 0 stops taking commands; active falls once the last reply is written. -/
  | qpDisable (qp : BitVec 12) (value : W64)
  /-- SQ_TAIL (R287): A doorbell write that submits ring entries up to the new tail, or sets error for an index beyond the ring. -/
  | sqTail (qp : BitVec 12) (index : W16) (readOk : Bool)
  /-- CQ_HEAD (R286): A doorbell write that frees completion ring entries. -/
  | cqHead (qp : BitVec 12) (index : W16)
  /-- MSIX_COALESCE_TIMER (R289): The queue pair's vector is raised when 4 µs have passed since the oldest reply that has not raised it. -/
  | msixCoalesceTimer (qp : BitVec 12)
  /-- CHIP_RESET_WRITE (R352): Writing the reset key to CHIP_RESET causes a chip reset. -/
  | chipResetWrite (key : W32)
  /-- COMMON_COUNT_LOW_READ (R36): A 32-bit read of the low half of COMMON_COUNT latches the high half for the next read. -/
  | commonCountLowRead
  /-- EVT_HEAD_WRITE (R394): Host software writes the event log head, freeing records it has read. -/
  | evtHeadWrite (head : BitVec 12)
  /-- TRACE_HEAD_WRITE (R473): Host software writes the trace ring head, freeing records it has read. -/
  | traceHeadWrite (head : W32)
  /-- REGISTER_WRITE (R5): A write to any register without a row of its own, including W1C clears and staging-window writes. -/
  | registerWrite (off : BitVec 26) (wide : Bool) (value : W64)
  /-- HDM_DECODER_COMMIT (R357): Commits the HDM decoder base, or sets its error bit for an unsupported interleave. -/
  | hdmDecoderCommit (base : W64) (ways : Byte)
  /-- CONFIG_REQUEST (R354): A configuration request from the host, answered with retry until the firmware is ready. -/
  | configRequest (write : Bool) (reg : BitVec 12) (value : W32)
  /-- CXL_MEM_READ (R359): A host CXL.mem read of HBM, completed within 4 µs, with zero data if refused or poisoned if the data is bad. -/
  | cxlMemRead (addr : W64) (len : BitVec 7) (late : Bool) (upsets : List Upset)
  /-- CXL_MEM_WRITE (R359): A host CXL.mem write through the path of R212, discarded if it is refused. -/
  | cxlMemWrite (addr : W64) (data : List Byte) (poison : Bool) (upsets : List Upset)
  /-- HOST_SNOOP (R360): A host snoop of the device cache, answered within 2 µs. -/
  | hostSnoop (line : W64)
  /-- HOT_RESET (R353): A hot reset, secondary bus reset or link-down resets the host port and the queue pair controls only. -/
  | hotReset
  /-- DOE_ABORT (R363): Discards the DOE request in progress and any response not yet read. -/
  | doeAbort
  /-- GET_VERSION (R362): SPDM request answered through the DOE mailbox. -/
  | getVersion
  /-- GET_CAPABILITIES (R362): SPDM request answered through the DOE mailbox. -/
  | getCapabilities
  /-- NEGOTIATE_ALGORITHMS (R362): SPDM request answered with ECDSA P-256 and SHA-256 only. -/
  | negotiateAlgorithms
  /-- GET_DIGESTS (R362): SPDM request returning the digests of certificate slots 0 and 1. -/
  | getDigests
  /-- GET_CERTIFICATE (R362): SPDM request returning the device identity chain or the alias chain. -/
  | getCertificate (slot : BitVec 3)
  /-- CHALLENGE (R441): SPDM challenge answered with a signature under the alias key. -/
  | challenge (slot : BitVec 3) (nonce : List Byte)
  /-- GET_MEASUREMENTS (R362): SPDM request returning the measurement blocks, signed with the alias key. -/
  | getMeasurements (index : Byte) (nonce : List Byte)
  /-- SPDM_UNSUPPORTED_REQUEST (R362): Any other SPDM request is answered with ERROR and UnsupportedRequest. -/
  | spdmUnsupportedRequest (code : Byte)
  /-- PWR_NOW (R430): SMBus read of package power. -/
  | pwrNow
  /-- TJ_MAX (R430): SMBus read of the hottest quad or col die sensor. -/
  | tjMax (col : Byte)
  /-- HBM_TMAX (R430): SMBus read of the hottest HBM stack. -/
  | hbmTmax
  /-- TRAY_LIMIT_W_READ (R430): SMBus read of the tray power limit. -/
  | trayLimitWRead
  /-- TRAY_LIMIT_W_WRITE (R430): SMBus write of the tray power limit, in effect within 1 ms. -/
  | trayLimitWWrite (watts : W16)
  /-- PWR_STATUS (R430): SMBus read of the limiter, condition, fault and ready bits. -/
  | pwrStatus
  /-- ALERT_MASK_READ (R430): SMBus read of the ALERT_N mask. -/
  | alertMaskRead
  /-- ALERT_MASK_WRITE (R431): SMBus write of the mask of PWR_STATUS bits that assert ALERT_N. -/
  | alertMaskWrite (mask : Byte)
  /-- JTAG_EXTEST (R451): Loading EXTEST causes a chip reset and holds the package in reset while it stays selected. -/
  | jtagExtest
  /-- JTAG_IDCODE (R451): Returns the JEDEC identity, part number and silicon revision. -/
  | jtagIdcode
  /-- JTAG_BYPASS (R451): BYPASS, or any unlisted instruction code, acts as bypass. -/
  | jtagBypass (code : Byte)
  /-- JTAG_SAMPLE_PRELOAD (R451): Samples or preloads the boundary-scan chain. -/
  | jtagSamplePreload (pins preload : List Bool)
  /-- TRAY_RESET_N_RELEASE (R455): Release of TRAY_RESET_N starts boot: TEST_N is sampled and the flash records, keys, self-test and HBM are processed. -/
  | trayResetNRelease (testN : Bool) (b : BootInputs)
  /-- PERST_N_ASSERT (R352): PERST_N asserted while TRAY_RESET_N is high causes a chip reset. -/
  | perstNAssert (widthNs : Nat)
  /-- PWRGOOD_FALL (R454): PWRGOOD falling switches every quad off within 1 µs and puts the package into chip reset. -/
  | pwrgoodFall (widthNs : Nat)
  /-- SUPPLY_REMOVAL (R432): Removing the supplies loses all state in the package. -/
  | supplyRemoval
  /-- RESET_ESCALATION (R404): A reset level that does not complete within its time escalates to the next level. -/
  | resetEscalation
  /-- WORK_ITEM_START (R143): The steward starts a kernel invocation on a tile, binding and clearing the tile first if it served another context. -/
  | workItemStart (work : Nat) (tile : Byte)
  /-- FRAME_START (R311): The steward starts a taken frame, in ascending deadline order. -/
  | frameStart (work : Nat)
  /-- FRAME_DEADLINE (R311): A running frame's deadline passes: it is cancelled and answers ST_TIMEOUT, or it runs on and is marked late. -/
  | frameDeadline (work : Nat)
  /-- WORK_COMMAND_COMPLETE (R295): The last work item of a work command ends and the steward writes the reply. -/
  | workCommandComplete (work : Nat)
  /-- REQUEST_RERUN (R415): The steward re-runs a retry-safe step or frame that failed with ST_POISONED, after the reloads it started. -/
  | requestRerun (work : Nat)
  /-- SLOT_PREEMPT (R278): Between steps, the steward copies a slot's private runs out, marks them swapped and frees its pages. -/
  | slotPreempt (slot : BitVec 10)
  /-- SLOT_RESUME (R279): A pre-empted slot gets its pages back, its runs are copied in and its held steps are released. -/
  | slotResume (slot : BitVec 10) (tagsOk : Bool)
  /-- EPOCH_RESOLVE (R283): The home steward takes the first commit or cancel of an epoch and sends the epoch token. -/
  | epochResolve (slot : BitVec 10)
  /-- EPOCH_TOKEN (R282): Receipt of an epoch token: a cancel closes the epoch's windows at once and tells the epoch's work items to end. -/
  | epochToken (m : MgmtHdr) (ctx : Byte) (epoch : W16) (commit : Bool) (count : BitVec 7)
  /-- EPOCH_TOKEN_APPLY (R282): Once every work item of the epoch has ended, the lengths, held actions and runs are resolved and the token is acknowledged. -/
  | epochTokenApply (slot : BitVec 10)
  /-- EPOCH_ACK_TIMEOUT (R283): A package that has not acknowledged the token within 10 ms ends the step with ST_TIMEOUT and marks the slot failed. -/
  | epochAckTimeout (slot : BitVec 10)
  /-- ALU (R147): Scalar integer operation chosen by fn, modulo 2⁶⁴. -/
  | alu (t : Byte) (late : Bool) (rd ra rb rc fn : BitVec 5)
  /-- ADDI (R147): Adds a sign-extended immediate. -/
  | addi (t : Byte) (late : Bool) (rd ra : BitVec 5) (imm : BitVec 15)
  /-- ANDI (R147): ANDs with a zero-extended immediate. -/
  | andi (t : Byte) (late : Bool) (rd ra : BitVec 5) (imm : BitVec 15)
  /-- ORI (R147): ORs with a zero-extended immediate. -/
  | ori (t : Byte) (late : Bool) (rd ra : BitVec 5) (imm : BitVec 15)
  /-- XORI (R147): XORs with a zero-extended immediate. -/
  | xori (t : Byte) (late : Bool) (rd ra : BitVec 5) (imm : BitVec 15)
  /-- SHI (R147): Shifts by an immediate count. -/
  | shi (t : Byte) (late : Bool) (rd ra : BitVec 5) (imm : BitVec 15)
  /-- LI (R147): Loads a sign-extended 20-bit immediate. -/
  | li (t : Byte) (late : Bool) (rd : BitVec 5) (imm : BitVec 20)
  /-- LIS (R147): Shifts rd left by 20 and ORs in an immediate. -/
  | lis (t : Byte) (late : Bool) (rd : BitVec 5) (imm : BitVec 20)
  /-- LD (R149): Scalar load from the tile's own scratchpad. -/
  | ld (t : Byte) (late : Bool) (rd ra : BitVec 5) (imm : BitVec 12) (sz : BitVec 3) (upsets : List Upset)
  /-- ST (R149): Scalar store to the tile's own scratchpad. -/
  | st (t : Byte) (rd ra : BitVec 5) (imm : BitVec 12) (sz : BitVec 3) (upsets : List Upset)
  /-- LDF (R147): Loads an fp32 or bf16 value into an f register. -/
  | ldf (t : Byte) (late : Bool) (rd ra : BitVec 5) (imm : BitVec 12) (sz : BitVec 3) (upsets : List Upset)
  /-- STF (R147): Stores an f register as fp32, or as bf16 rounded nearest-even. -/
  | stf (t : Byte) (rd ra : BitVec 5) (imm : BitVec 12) (sz : BitVec 3) (upsets : List Upset)
  /-- CMP (R147): Sets a predicate from an integer comparison. -/
  | cmp (t : Byte) (late : Bool) (rd ra rb rc fn : BitVec 5)
  /-- CMPI (R147): Sets a predicate from a comparison with an immediate. -/
  | cmpi (t : Byte) (late : Bool) (rd ra : BitVec 5) (imm : BitVec 15)
  /-- PLOG (R147): Combines predicates. -/
  | plog (t : Byte) (late : Bool) (rd ra rb rc fn : BitVec 5)
  /-- BR (R168): Conditional branch; on a pending predicate it may run ahead on the predicted path. -/
  | br (t : Byte) (pred : BitVec 3) (neg hint : Bool) (disp : BitVec 20)
  /-- CALL (R147): Conditional branch that writes the return address to g31 when taken. -/
  | call (t : Byte) (pred : BitVec 3) (neg hint : Bool) (disp : BitVec 20)
  /-- JR (R147): Jumps to the address in a register. -/
  | jr (t : Byte) (rd ra rb rc fn : BitVec 5)
  /-- FOP (R150): Scalar fp32 arithmetic chosen by fn. -/
  | fop (t : Byte) (late : Bool) (rd ra rb rc fn : BitVec 5)
  /-- FCMP (R150): Sets a predicate from an fp32 comparison. -/
  | fcmp (t : Byte) (late : Bool) (rd ra rb rc fn : BitVec 5)
  /-- FMV (R147): Moves or converts between g and f registers. -/
  | fmv (t : Byte) (late : Bool) (rd ra rb rc fn : BitVec 5)
  /-- HASH (R151): Computes the routing hash. -/
  | hash (t : Byte) (late : Bool) (rd ra rb rc fn : BitVec 5)
  /-- RDRAW (R152): Returns the next word of a random stream and advances its counter. -/
  | rdraw (t : Byte) (late : Bool) (rd ra rb rc : BitVec 5)
  /-- RCTR (R152): Reads a random stream counter. -/
  | rctr (t : Byte) (late : Bool) (rd ra rb rc : BitVec 5)
  /-- RCTW (R152): Writes a random stream counter. -/
  | rctw (t : Byte) (rd ra rb rc : BitVec 5)
  /-- CSRR (R141): Reads a CSR. -/
  | csrr (t : Byte) (late : Bool) (rd ra : BitVec 5) (imm : BitVec 15)
  /-- CSRW (R141): Writes an RW CSR, or clears bits of a W1C CSR. -/
  | csrw (t : Byte) (rd ra : BitVec 5) (imm : BitVec 15)
  /-- CNTR (R152): Reads the tile's copy of the common count. -/
  | cntr (t : Byte) (late : Bool) (rd ra rb rc fn : BitVec 5)
  /-- YIELD (R145): Steward service that may run other invocations before resuming this one. -/
  | yield (t : Byte) (rd ra : BitVec 5)
  /-- WORK_NEXT (R145): Steward service returning the next unstarted work item for the tile. -/
  | workNext (t : Byte) (rd ra : BitVec 5)
  /-- EVENT_POST (R145): Steward service that queues a POSTED event for the host, up to 64 per context. -/
  | eventPost (t : Byte) (rd ra : BitVec 5)
  /-- SVC_UNLISTED (R145): An unlisted service number returns ST_BAD_COMMAND in g1. -/
  | svcUnlisted (t : Byte) (rd ra : BitVec 5) (num : BitVec 15)
  /-- HALT (R144): Waits for the invocation's engine operations, then hands g1 to the steward and stops. -/
  | halt (t : Byte) (rd ra rb rc fn : BitVec 5)
  /-- DESCW (R153): Writes one entry of a descriptor table, after earlier users of the entry have read it. -/
  | descw (t : Byte) (rd ra rb rc fn : BitVec 5)
  /-- TKSTAT (R164): Returns the status word of a ticket. -/
  | tkstat (t : Byte) (late : Bool) (rd ra rb rc fn : BitVec 5)
  /-- BUNDLE (R157): A wide bundle: checks its slots, waits, executes its scalar slot, issues its engine slots and performs its sync action. -/
  | bundle (t : Byte) (late : Bool) (value : BitVec 256) (upsets : List Upset)
  /-- SYNC_WAIT_EXPIRY (R161): A signal wait or arrive-and-wait reaches its tlim and completes with pd 0. -/
  | syncWaitExpiry (t : Byte)
  /-- PENDING_RESULT_ARRIVAL (R168): A pending register's value arrives, and the predicates that depend on it are computed. -/
  | pendingResultArrival (t : Byte) (dst : Dst)
  /-- BRANCH_RESOLVE (R171): A branch's predicate resolves: provisional work commits in order, or is squashed on a misprediction. -/
  | branchResolve (t : Byte)
  /-- CORE_STOP (R167): The steward stops a core between commits for pre-emption, reset or a hang dump, squashing run-ahead first. -/
  | coreStop (t : Byte) (resume : Bool)
  /-- LOCKSTEP_MISMATCH (R174): The two cores of a pair disagree at commit; both stop, and an event and a reset follow. -/
  | lockstepMismatch (steward : Bool) (t : Byte)
  /-- STEP_OPERATION_BEGIN (R105): A step operation begins: tags, plane block, outlier slot and zero mark are checked, and entries are reset or retagged. -/
  | stepOperationBegin (t : Byte)
  /-- TRIT_STEP (R67): One trit step of one token: tables are built, the lanes look up and add into acc20, and the promotion counter advances. -/
  | tritStep (t : Byte) (laneErr : List (Nat × Int)) (upsets : List Upset)
  /-- OUTLIER_DIGIT_STEP (R94): A low-digit or high-digit outlier step of a token, into its outlier-shift entry. -/
  | outlierDigitStep (t : Byte) (laneErr : List (Nat × Int)) (upsets : List Upset)
  /-- PLANE_TOKEN (R87): The b plane steps of one token, shift-added in each lane and promoted into acc32. -/
  | planeToken (t : Byte) (laneErr : List (Nat × Int)) (upsets : List Upset)
  /-- CHECK_COMPARISON (R81): The check unit compares a step's check sum with the lane sum, and poisons the row and raises an event on a mismatch. -/
  | checkComparison (t : Byte)
  /-- BLOCK_LOAD (R70): Loads a trit block into a slot: reads it, expands a sparse form, merges a patch, checks it and forms its check rows. -/
  | blockLoad (t : Byte) (upsets : List Upset)
  /-- SLOT_COPY_LOAD (R236): A load with from_slot set copies another slot and merges a patch into it. -/
  | slotCopyLoad (t : Byte) (upsets : List Upset)
  /-- PLANE_BLOCK_LOAD (R86): Loads a plane block across several slots and checks its exponent record. -/
  | planeBlockLoad (t : Byte) (upsets : List Upset)
  /-- DRAIN_BEGIN (R112): A drain begins, checks its ranges and fold tags, and reads the weight scales. -/
  | drainBegin (t : Byte) (upsets : List Upset)
  /-- DRAIN_ROW (R109): Converts one accumulator row by its tag and places it in the finished-tile queue. -/
  | drainRow (t : Byte) (accErr : List (Nat × Bool)) (residue : Bool) (upsets : List Upset)
  /-- QUEUE_ROW_WRITE (R113): The queue write port writes a dest 1 row to scratchpad. -/
  | queueRowWrite (t : Byte)
  /-- CHAIN_RUN_BEGIN (R130): A chain run begins, reading its descriptors and checking its ranges and SPLIT list. -/
  | chainRunBegin (t : Byte) (upsets : List Upset)
  /-- VECTOR_BEAT (R134): One beat of 128 elements passes through the chain's stages and sinks. -/
  | vectorBeat (t : Byte) (residue : List (Nat × Nat)) (upsets : List Upset)
  /-- QUEUE_ROW_CONSUME (R128): A chain's queue input takes the next row from the finished-tile queue, or rejects it by its tag. -/
  | queueRowConsume (t : Byte)
  /-- LOOKUP_SLOT_LOAD (R131): Loads a look-up slot image and its header whole. -/
  | lookupSlotLoad (t : Byte) (upsets : List Upset)
  /-- TRANSFER_BEGIN (R209): A DMA transfer begins: reads and checks its descriptor and adds the registers to its addresses. -/
  | transferBegin (t : Byte) (queue : BitVec 2) (upsets : List Upset)
  /-- ELEMENT_BATCH (R210): In one step time a queue reads and issues the writes of up to 32 elements and 128 B. -/
  | elementBatch (t : Byte) (queue : BitVec 2) (n : BitVec 6) (checkFault : Bool) (upsets : List Upset)
  /-- TRANSLATION_WALK (R201): A translation miss walks the page tables or the KV map and checks rights, regions and faults. -/
  | translationWalk (t : Byte) (queue : BitVec 2) (checkFault : Bool) (upsets : List Upset)
  /-- WRITE_ACKNOWLEDGED (R211): An element's write is acknowledged; the last one adds the signal and completes the ticket. -/
  | writeAcknowledged (t : Byte) (queue : BitVec 2)
  /-- PAGE_SWAP_IN (R218): The steward swaps a page in and resumes the suspended context. -/
  | pageSwapIn (ctx : Byte) (va : W64) (tagsOk : Bool)
  /-- REMOTE_PORT_REQUEST (R186): The remote port serves a request from another tile or the steward, or refuses it. -/
  | remotePortRequest (t : Byte) (write : Bool) (off : BitVec 25) (data : List Byte) (gen : Byte) (upsets : List Upset)
  /-- SCRUB_ACCESS (R189): The scrubber reads a row, corrects single-bit errors and marks uncorrectable cells. -/
  | scrubAccess (t : Byte) (istore : Bool) (row : W16) (upsets : List Upset)
  /-- QUAD_RETURN_SCRUB_PASS (R191): When a quad returns, a full scrub pass of its tiles completes before other requesters are served. -/
  | quadReturnScrubPass (q : BitVec 6) (upsets : List (Nat × Upset))
  /-- VERIFYING_PASS (R194): After a partition reset the scrubber verifies every resident block before the partition accepts work. -/
  | verifyingPass (part : BitVec 4) (upsets : List (Nat × Upset))
  /-- WEIGHT_RELOAD (R410): The steward reloads a poisoned resident block from its golden copy and reads it back. -/
  | weightReload (t : Byte) (block : BitVec 10)
  /-- ROUTE (R249): Routing kernel entry that hashes the tokens, runs the capacity pass and opens a return window in push mode. -/
  | route (callers : List Byte)
  /-- COMBINE (R261): Routing kernel entry that forms each token's output by the fixed tree and writes its status. -/
  | combine (t : Byte)
  /-- ABANDON (R263): Routing kernel entry that closes a batch's return window with a given status. -/
  | abandon (t : Byte)
  /-- KV_APPEND (R271): KV library entry that quantises keys and values and writes them into the runs. -/
  | kvAppend (t : Byte)
  /-- KV_RECV_OPEN (R280): KV library entry that opens a return window tagged with a speculation epoch. -/
  | kvRecvOpen (t : Byte)
  /-- WINDOW_DEADLINE (R257): A return window's deadline passes and it closes with ST_TIMEOUT. -/
  | windowDeadline (ctx : Byte) (tag : W16)
  /-- WINDOW_CLOSE_COMPLETE (R257): After every accepted write is acknowledged, the window status is written and the signal is added. -/
  | windowCloseComplete (ctx : Byte) (tag : W16)
  /-- INT_ADD_OPERAND (R346): A memory-side integer reduce-on-write is applied as one indivisible act. -/
  | intAddOperand (t : Byte) (queue : BitVec 2) (checkFault : Bool)
  /-- FP32_TREE_OPERAND (R347): A fixed-tree fp32 operand arrives, forms its nodes, and the root closes the tree into the destination. -/
  | fp32TreeOperand (t : Byte) (queue : BitVec 2) (checkFault : Bool)
  /-- UNORDERED_ADD (R349): An fp32 operand with count 0xFFFF_FFFF is added into the destination on arrival. -/
  | unorderedAdd (t : Byte) (queue : BitVec 2) (checkFault : Bool)
  /-- HBM_PATROL (R333): Patrol reads a unit of a stack and handles its errors. -/
  | hbmPatrol (s : BitVec 4) (channel : BitVec 5) (unit : BitVec 24) (upsets : List Upset)
  /-- HBM_STACK_UNAVAILABLE (R334): A persistent interface failure makes a stack unavailable until chip reset. -/
  | hbmStackUnavailable (s : BitVec 4)
  /-- FAR_READ_TIMEOUT (R339): A far-tier read with no completion within 20 µs returns poisoned data. -/
  | farReadTimeout (t : Byte) (queue : BitVec 2)
  /-- FAR_WRITE_FAILURE (R339): A far-tier write timeout or error completion puts the port into the failed state and ends its transfers. -/
  | farWriteFailure (p : BitVec 1) (errorCompletion : Bool) (addr : W64)
  /-- HOST_READ_TIMEOUT (R360): A CXL.io read with no completion within 10 ms returns poisoned data. -/
  | hostReadTimeout (t : Byte) (queue : BitVec 2)
  /-- DATA_FLIT (R369): A data flit is received and checked; a bad flit leads to one retry request. -/
  | dataFlit (port : BitVec 4) (fec : Option Nat) (bytes : List Byte)
  /-- RETRY_REQUEST (R369): A retry flit makes the sender resend from the named flit. -/
  | retryRequest (port : BitVec 4) (fec : Option Nat) (bytes : List Byte)
  /-- IDLE_FLIT (R371): An idle flit returns credits and acknowledgements. -/
  | idleFlit (port : BitVec 4) (fec : Option Nat) (bytes : List Byte)
  /-- TRAINING_CONTROL (R367): A training-control flit is exchanged during port training. -/
  | trainingControl (port : BitVec 4) (fec : Option Nat) (bytes : List Byte)
  /-- LINK_TRAINING (R367): A port trains, comes up full or degraded, or retries after 100 ms. -/
  | linkTraining (port : BitVec 4) (low high : Bool)
  /-- LINK_DOWN (R370): A port goes down after 4 µs without a valid flit or 8 retries of one flit. -/
  | linkDown (port : BitVec 4)
  /-- PACKET_INJECT (R375): The source col die fixes a packet's route and sends it. -/
  | packetInject (t : Byte) (queue : BitVec 2) (n : W16)
  /-- TRANSIT_FORWARD (R377): A transit packet is forwarded cut-through to its next port, or dropped with a refusal. -/
  | transitForward (port : BitVec 4) (pk : Packet)
  /-- WRITE (R380): A write packet is received and checked in order, then applied, refused, dropped or acknowledged stale. -/
  | write (port : BitVec 4) (pk : Packet)
  /-- INT32_ADD (R380): An int32 add packet is received, checked and applied. -/
  | int32Add (port : BitVec 4) (pk : Packet)
  /-- INT64_ADD (R380): An int64 add packet is received, checked and applied. -/
  | int64Add (port : BitVec 4) (pk : Packet)
  /-- FP32_ADD (R380): An fp32 add packet is received, checked and its operands passed to the memory-side tree. -/
  | fp32Add (port : BitVec 4) (pk : Packet)
  /-- ACKNOWLEDGEMENT (R379): An acknowledgement settles a request serial with its status. -/
  | acknowledgement (pk : Packet)
  /-- REFUSAL (R379): A refusal settles a request serial with nothing applied. -/
  | refusal (pk : Packet)
  /-- RETRY_LATER (R378): The receiver had no free flow entry, and the sender will try again after 10 µs. -/
  | retryLater (pk : Packet)
  /-- RETRY_LATER_TIMER (R378): 10 µs after a retry-later answer, the sender sends the packet again. -/
  | retryLaterTimer (t : Byte) (node : BitVec 14)
  /-- RESEND_TIMEOUT (R379): 50 µs without settlement, or the loss of the port, makes the flow resend its unsettled packets. -/
  | resendTimeout (t : Byte) (node : BitVec 14)
  /-- FLOW_FORGET (R378): A flow entry is forgotten 1 ms after its last packet or acknowledgement. -/
  | flowForget (sender : Bool) (t : Byte) (node : BitVec 14) (cls : BitVec 1)
  /-- LINK_STATE_NOTICE (R377): A management notice of a link going down or up updates later routing. -/
  | linkStateNotice (m : MgmtHdr) (port : BitVec 4) (up : Bool)
  /-- GENERATION_NOTICE (R406): A management notice updates a peer partition's generation. -/
  | generationNotice (m : MgmtHdr) (job : W16) (part : BitVec 4) (gen : Byte)
  /-- BARRIER_ARRIVAL_FORWARD (R322): A forwarded arrival is counted at the barrier's home package. -/
  | barrierArrivalForward (m : MgmtHdr) (job ident : W16) (tgen : Byte)
  /-- BARRIER_COMPLETION (R322): A completion from the home releases this package's waiters. -/
  | barrierCompletion (m : MgmtHdr) (job ident : W16) (broken : Bool)
  /-- BARRIER_TIMEOUT (R323): No completion within 10 ms of the last arrival sent breaks the barrier. -/
  | barrierTimeout (ctx : Byte) (ident : W16)
  /-- TIME_EXCHANGE (R387): Every 1 ms a child sends a time exchange to its parent. -/
  | timeExchange
  /-- TIME_EXCHANGE_REPLY (R387): The child computes its offset from the reply and slews, steps forward or sends a time-ahead notice. -/
  | timeExchangeReply (m : MgmtHdr) (t2 t3 t4 : W64)
  /-- TIME_AHEAD_NOTICE (R387): The master steps its count forward to the reported count plus 1 ms. -/
  | timeAheadNotice (m : MgmtHdr) (count : W64)
  /-- CHECK_PEER_EXCHANGE (R388): An exchange with the check peer raises a cross-check event after two offsets above 250 ns. -/
  | checkPeerExchange (offset : Int)
  /-- RATE_MONITOR_WINDOW (R30): Each 1,024 ns window refreshes a quad's QUAD_RATE reading. -/
  | rateMonitorWindow (q : BitVec 6) (rate : BitVec 28) (junction voltage : Byte)
  /-- GOVERNOR_EVALUATION (R424): The steward re-evaluates a partition's set point under its governor mode. -/
  | governorEvaluation (part : BitVec 4) (predicted : Option (BitVec 7))
  /-- EFFICIENCY_MEASUREMENT (R424): Every 10 ms the efficiency governor re-measures each quad's energy per step. -/
  | efficiencyMeasurement (q : BitVec 6) (best : BitVec 7)
  /-- POWER_MEASUREMENT (R426): Every 100 µs the col die measures package power. -/
  | powerMeasurement (w100us w1ms : W16) (quads : List (Nat × Nat))
  /-- POWER_LIMITER_STEP (R427): The power limiter lowers or raises quad ceilings by 5 mV. -/
  | powerLimiterStep
  /-- THERMAL_LIMITER_STEP (R428): A quad's thermal limiter lowers or raises its ceiling by 10 mV. -/
  | thermalLimiterStep (q : BitVec 6) (temp : Byte)
  /-- THERMTRIP (R429): A sensor at 115 °C drives THERMTRIP_N low and switches every quad off. -/
  | thermtrip (sensor : Byte)
  /-- REGULATOR_WINDOW (R418): A regulator output out of window for more than 10 µs switches its quad off. -/
  | regulatorWindow (q : BitVec 6) (retention : Bool) (code : Byte) (forNs : Nat)
  /-- HANG (R400): A progress monitor detects a stall and takes the action for its domain. -/
  | hang (d : Domain) (unit : Byte) (timedNs : Nat)
  /-- SADDLE_FAILED (R389): A persistent saddle failure reroutes ring saddle traffic or causes a chip reset. -/
  | saddleFailed (s : BitVec 3)
  /-- TRAY_RESET_N_ASSERT (R500): TRAY_RESET_N driven low for 10 µs or longer puts the package into reset and releases the QSPI pins to high impedance. -/
  | trayResetNAssert (widthNs : Nat)
  /-- PERST_N_RELEASE (R354): Release of PERST_N starts host link training and sets the start of the 900 ms configuration-retry limit. -/
  | perstNRelease
  /-- PWRGOOD_RISE (R454): PWRGOOD rising ends the hold in chip reset that a low PWRGOOD imposes. -/
  | pwrgoodRise
  /-- SUPPLIES_APPLIED (R486): When VIO first comes into range the SMBus address straps are latched, ALERT_MASK reads 0 and telemetry starts to answer. -/
  | suppliesApplied (strap0 strap1 : Bool)
  /-- STEWARD_FIRMWARE_READY (R354): At the end of boot DEV_STATE becomes 1 and configuration retry ends. -/
  | stewardFirmwareReady
  /-- COMMAND_INTERPRETATION_RESUMES (R466): The new firmware ends the activation pause, writes the FW_ACTIVATE reply and DEV_STATE returns from 2 to 1. -/
  | commandInterpretationResumes
  /-- EPOCH_TOKEN_ACKNOWLEDGEMENT (R283): The home steward receives a package's acknowledgement of an epoch token, and the step completes once every package has acknowledged. -/
  | epochTokenAcknowledgement (m : MgmtHdr) (slot : BitVec 10)
  /-- TIME_EXCHANGE_AT_PARENT (R387): A parent package receives a child's time exchange at t2 and replies at t3, unless it has synced 0. -/
  | timeExchangeAtParent (m : MgmtHdr) (t1 t2 : W64)
  /-- SOURCE_READ_RETURN (R214): Read data for a DMA source element returns from HBM, the far tier, host memory or a remote tile, poisoned or not. -/
  | sourceReadReturn (t : Byte) (queue : BitVec 2) (data : List Byte) (poison : Bool) (upsets : List Upset)
  /-- OUT_OF_CONDITIONS (R494): A monitored rail or sensor leaving the recommended operating conditions sets out_of_conditions. -/
  | outOfConditions (rail : Byte)
  /-- HBM_DOUBLED_REFRESH (R335): A stack whose temperature crosses 95 °C enters or leaves doubled refresh, and its hot bit changes. -/
  | hbmDoubledRefresh (s : BitVec 4) (temp : Byte)
  deriving DecidableEq, Repr

end Sys2Proof
end

