-- ==== Sys2Proof/Decode.lean ====
section
/-! DEFINITION. The decoder the host asks for. The opcode table of the BT4 gives no row any bits: its rows are commands to
a block, and their operands reach the model as fields of the constructors. So no word spells a command. -/

namespace Sys2Proof

/-- The command a table word spells: none, since the table gives no row bits. -/
def decodeTableWord (_nbits _w : Nat) : Option Instr := none

end Sys2Proof
end

