-- ==== Sys2Proof/Config.lean ====
section
/-! DEFINITION. What the model leaves open: free values (assumption log entry 5) and the cryptographic functions, whose
results no statement rests on (assumption log entry 9). None has a body. -/

namespace Sys2Proof.Config

/-- A value the spec leaves undefined: the model applies it to a counter that it advances, and nothing constrains it. -/
opaque freeValue : Nat → Nat

/-- The integer a NaN converts to, by the clamp limit of the format and the bits of the NaN: the spec states none (R57, R127). -/
opaque nanInt : Nat → Nat → Nat

/-- Which of the codes that R344 does not tell apart (codes of one selector that decode to a zero) a weight takes, by the group's base
with the table's offsets and the weight. -/
opaque zeroCode : List Nat → Nat → Nat

/-- SHA-256 of a byte string (R437, R458). -/
opaque sha256 : List Byte → List Byte

/-- A signature under the key with a serial number (R441). -/
opaque sign : Nat → List Byte → List Byte

/-- The certificate chain of slot 0 (device identity) or of an alias key, by the key's serial number (R441). -/
opaque certChain : Nat → List Byte

/-- The SHA-256 hash of the vendor root public key that the mask ROM holds, 32 bytes (R433, R434). -/
opaque vendorRootHash : BitVec 256

/-- Whether an ECDSA P-256 signature verifies, by the public key, the digest and the signature (R435). -/
opaque ecdsaOk : List Byte → List Byte → List Byte → Bool

/-- The device secret DS that the PUF of the part yields (R437). -/
opaque deviceSecret : List Byte

/-- KDF(K, label, ctx, L) of R438, by K, the label, ctx and L in bytes. -/
opaque kdf : List Byte → String → List Byte → Nat → List Byte

/-- AES-256-GCM: the ciphertext with its tag, by key, IV, additional data and plaintext (R440). -/
opaque gcmSeal : List Byte → List Byte → List Byte → List Byte → List Byte

/-- AES-256-GCM: the plaintext, or none where the tag fails, by key, IV, additional data and ciphertext with its tag (R440). -/
opaque gcmOpen : List Byte → List Byte → List Byte → List Byte → Option (List Byte)

/-- What a job key entry of 256 bytes opens to under the alias key with a serial number, or none where its tag fails (R445). -/
opaque unwrap : Nat → List Byte → Option (List Byte)

/-- Bytes as a hang dump or another sealed record holds them under a key (R475). -/
opaque sealBytes : List Byte → List Byte → List Byte

/-- The version of the boot ROM (R362). -/
opaque romVersion : Nat

/-- The JEDEC manufacturer identity that IDCODE carries (R451). -/
opaque jedecId : Nat

/-- Nirorneel's PCI vendor ID (R351). -/
opaque vendorId : BitVec 16

/-- The silicon revision (R356). -/
opaque siliconRev : BitVec 8

/-- Whether the part is an engineering sample (R1, R356). -/
opaque sample : Bool

/-- The soft repairs that a bank of a stack offers (R336): stack, pseudo-channel, bank, stack ID. -/
opaque softRepairs : Nat → Nat → Nat → Nat → Nat

end Sys2Proof.Config
end

