-- ==== Sys2Proof/Machine/Flags.lean ====
section
/-! DEFINITION. The five flags of R135 in the bit order of STICKY_STATUS (R141), TKSTAT (R164) and CTX_QUERY (R297). The
flag of each operation is computed beside it in Formats.lean. -/

namespace Sys2Proof

/-! ### Flags (R135) -/

/-- invalid. -/
def fInvalid : Nat := 1
/-- overflow. -/
def fOverflow : Nat := 2
/-- underflow. -/
def fUnderflow : Nat := 4
/-- divide_by_zero. -/
def fDivZero : Nat := 8
/-- range_clamped. -/
def fClamped : Nat := 16

/-- The flag bits that a register of R141 holds. -/
def flagMask : Nat := 31

/-- Flags cleared by writing ones (R141). -/
def clearFlags (fl w : Nat) : Nat := fl % 32 - (fl % 32 &&& w)

end Sys2Proof
end

