-- ==== Sys2Proof/Machine/Maps.lean ====
section
/-! DEFINITION. Sparse maps and byte memories as plain data: reading, writing, canonical form. R4 fixes the byte order
(little-endian) of every multi-byte value. -/

namespace Sys2Proof

namespace NMap

variable {α : Type}

/-- The entry at a key, if one is listed. -/
def get? : NMap α → Nat → Option α
  | [], _ => none
  | (k, v) :: r, i => if k = i then some v else get? r i

/-- The entry at a key, or the default. -/
def get (d : α) (m : NMap α) (i : Nat) : α := (get? m i).getD d

/-- The map with an entry written at its place. -/
def put : NMap α → Nat → α → NMap α
  | [], i, a => [(i, a)]
  | e :: m, i, a => if e.1 < i then e :: put m i a else (i, a) :: if e.1 = i then m else e :: m

/-- The map without the entries at a key. -/
def del (m : NMap α) (i : Nat) : NMap α := m.filter (fun e => e.1 != i)

/-- Write an entry of a map whose unlisted keys read as `d`: writing `d` removes the entry. -/
def set [DecidableEq α] (d : α) (m : NMap α) (i : Nat) (a : α) : NMap α := if a = d then del m i else put m i a

/-- Change the entry at a key by a function. -/
def mod (d : α) (m : NMap α) (i : Nat) (f : α → α) : NMap α := put m i (f (get d m i))

/-- The table of a function on the keys `lo` to `lo + n - 1`, without its defaults. -/
def tab [DecidableEq α] (d : α) (lo n : Nat) (f : Nat → α) : NMap α :=
  (List.range' lo n).filterMap (fun i => if f i = d then none else some (i, f i))

/-- The map without the keys of a range. -/
def clear (m : NMap α) (lo n : Nat) : NMap α := m.filter (fun e => !(decide (lo ≤ e.1) && decide (e.1 < lo + n)))

/-- The keys of the entries that satisfy a test. -/
def keysOf (m : NMap α) (p : Nat → α → Bool) : List Nat := (m.filter (fun e => p e.1 e.2)).map (·.1)

/-- Every entry changed by a function of its key and value. -/
def mapv (m : NMap α) (f : Nat → α → α) : NMap α := m.map (fun e => (e.1, f e.1 e.2))

/-- The canonical form of a map that reads `d` where nothing is listed: keys strictly rising, no default listed. -/
def wf [DecidableEq α] (d : α) (m : NMap α) : Bool :=
  decide (m.Pairwise (fun x y => x.1 < y.1)) && m.all (fun x => decide (x.2 ≠ d))

end NMap

/-- Bytes by address, 0 where none is listed: the 18 MiB scratchpad, HBM, far tier, host memory. -/
abbrev Bytes := List (Nat × Byte)

namespace Bytes

/-- One byte of a memory. -/
def rd1 (m : Bytes) (a : Nat) : Byte := NMap.get 0 m a

/-- One byte written. -/
def wr1 (m : Bytes) (a : Nat) (b : Byte) : Bytes := NMap.set 0 m a b

/-- `n` bytes from an address on. -/
def rd (m : Bytes) (a n : Nat) : List Byte := (List.range n).map (fun i => rd1 m (a + i))

/-- Bytes written from an address on. -/
def wr (m : Bytes) (a : Nat) : List Byte → Bytes
  | [] => m
  | b :: bs => wr (wr1 m a b) (a + 1) bs

/-- `n` bytes from an address on become 0. -/
def zero (m : Bytes) (a n : Nat) : Bytes := NMap.clear m a n

/-- The canonical form of a memory. -/
def wf (m : Bytes) : Bool := NMap.wf (0 : Byte) m

end Bytes

/-- The value of bytes, least significant first (R4). -/
def leVal : List Byte → Nat
  | [] => 0
  | b :: bs => b.toNat + 256 * leVal bs

/-- `n` bytes of a value, least significant first (R4). -/
def leBytes : Nat → Nat → List Byte
  | 0, _ => []
  | n + 1, v => BitVec.ofNat 8 v :: leBytes n (v / 256)

/-- The little-endian value of `n` bytes of a memory. -/
def Bytes.le (m : Bytes) (a n : Nat) : Nat := leVal (Bytes.rd m a n)

/-- Bytes `[lo : lo + n]` of a list as a value, 0 past its end. -/
def leAt (bs : List Byte) (lo n : Nat) : Nat := leVal ((bs.drop lo).take n)

/-- A value of `w` bits read as two's complement (R3). -/
def sgn (w x : Nat) : Int := if x % 2 ^ w < 2 ^ (w - 1) then (x % 2 ^ w : Nat) else (x % 2 ^ w : Nat) - (2 ^ w : Nat)

/-- The `w` low bits of an integer as a natural number (R3). -/
def wrap (w : Nat) (x : Int) : Nat := (x % (2 ^ w : Nat)).toNat

/-- A marked set (poison marks and the like) with an element added, kept rising without repeats. -/
def insertNat : List Nat → Nat → List Nat
  | [], n => [n]
  | x :: l, n => if x < n then x :: insertNat l n else if x = n then x :: l else n :: x :: l

/-- `x` replaced at index `i` of a list of 0s and values, the list read as 0 past its end. -/
def listSet (l : List Nat) (i v : Nat) : List Nat :=
  (List.range (max l.length (i + 1))).map (fun j => if j = i then v else l.getD j 0)

end Sys2Proof
end

