-- ==== Sys2Proof/Machine/Formats.lean ====
section
/-! DEFINITION. Number formats, rounding and random streams (03): every value is computed exactly as a rational and
rounded once by `roundInt` (R55) or `roundF` (R57). Flags are the five bits of R135. -/

namespace Sys2Proof

/-! ### T5, A4 (R38 to R42) -/

/-- Trit `i` of a T5 code (R38). -/
def trit (p i : Nat) : Int := ((p / 3 ^ i % 3 : Nat) : Int) - 1

/-- The T5 code of five trits (R38). -/
def t5 (t : Nat → Int) : Nat := ((List.range 5).map (fun i => (t i + 1).toNat * 3 ^ i)).sum

/-- Whether a T5 byte is a valid code (R40). -/
def t5Valid (p : Nat) : Bool := decide (p ≤ 242)

/-- Nibble `i` of packed A4 bytes, as a code 0 to 15 (R42). -/
def a4Code (bs : Nat → Nat) (i : Nat) : Nat := if i % 2 = 0 then bs (i / 2) % 16 else bs (i / 2) / 16 % 16

/-! ### Rounding (R55) -/

/-- The three rounding modes. -/
inductive RMode where
  | nearest | stochastic | zero
  deriving DecidableEq, Repr

/-- Whether rounding `x / den` in a mode takes a draw (R55). -/
def drawsOn (x : Int) (den : Nat) (m : RMode) : Bool := decide (m = .stochastic) && decide (x % (den : Int) ≠ 0)

/-- `x / den` rounded to an integer under R55, with the random input `r`. -/
def roundInt (x : Int) (den : Nat) (m : RMode) (r : Nat) : Int :=
  let n := x / (den : Int)
  let f := (x % (den : Int)).toNat
  if f = 0 then n
  else match m with
    | .nearest => if 2 * f > den ∨ (2 * f = den ∧ n % 2 = 1) then n + 1 else n
    | .zero => if x < 0 then n + 1 else n
    | .stochastic => if r < (f * 131072 + den) / (2 * den) then n + 1 else n

/-! ### Random streams (R58 to R60) -/

/-- The four multipliers of R59. -/
def streamM (i : Nat) : Nat :=
  [0xA3B195C72E4DF06B, 0xD7E24A19B63C8F55, 0x8C5F13A7E90BD26D, 0xE4A97B315C08F2D3].getD i 1

/-- Word `n` of stream `sid` = (c << 14) | (t << 6) | j under a seed (R59). -/
def streamWord (seed sid n : Nat) : Nat :=
  let k := seed ^^^ (sid * 0x9B4D21F7C6E3A85F % 2 ^ 64)
  [0, 1, 2, 3].foldl (fun x i =>
    let x := x ^^^ (x >>> 29)
    let x := x * streamM i % 2 ^ 64
    let x := x ^^^ (x >>> 32)
    (x + k) % 2 ^ 64) (n ^^^ k)

/-- A stream in use by one operation: its counter, and the draws left in the current word (R60). -/
structure Rnd where
  seed : Nat
  sid : Nat
  ctr : Nat
  word : Nat
  left : Nat
  deriving DecidableEq, Repr, Inhabited

/-- One 16-bit draw (R60). -/
def Rnd.draw (r : Rnd) : Nat × Rnd :=
  if r.left = 0 then
    let w := streamWord r.seed r.sid r.ctr
    (w % 65536, { r with ctr := (r.ctr + 1) % 2 ^ 64, word := w / 65536, left := 3 })
  else (r.word % 65536, { r with word := r.word / 65536, left := r.left - 1 })

/-- Round with the draw taken only when R55 takes one. -/
def roundR (x : Int) (den : Nat) (m : RMode) (r : Rnd) : Int × Rnd :=
  if drawsOn x den m then
    let d := r.draw
    (roundInt x den m d.1, d.2)
  else (roundInt x den m 0, r)

/-! ### Floating point as exact rationals -/

/-- A floating-point value, exactly: NaN, infinity, or `num / den` with the sign kept for zero. -/
inductive FVal where
  | nan
  | inf (neg : Bool)
  | fin (neg : Bool) (num den : Nat)
  deriving DecidableEq, Repr, Inhabited

/-- The value of fp32 bits. -/
def fp32Val (b : Nat) : FVal :=
  let neg := bit b 31
  let e := bits b 23 8
  let f := bits b 0 23
  if e = 255 then (if f = 0 then .inf neg else .nan)
  else if e = 0 then .fin neg f (2 ^ 149)
  else if e ≥ 150 then .fin neg ((f + 2 ^ 23) * 2 ^ (e - 150)) 1
  else .fin neg (f + 2 ^ 23) (2 ^ (150 - e))

/-- bf16 bits as fp32 bits (R140). -/
def bfTo32 (b : Nat) : Nat := b % 65536 * 65536

/-- The canonical fp32 NaN (R57). -/
def nan32 : Nat := 0x7FC00000

/-- Infinity of a sign in a format of precision `p`. -/
def infBits (p : Nat) (neg : Bool) : Nat := (if neg then 256 * 2 ^ (p - 1) else 0) + 255 * 2 ^ (p - 1)

/-- Zero of a sign. -/
def zeroBits (p : Nat) (neg : Bool) : Nat := if neg then 256 * 2 ^ (p - 1) else 0

/-- A signed integer of a sign and a magnitude. -/
def signedInt (neg : Bool) (n : Nat) : Int := if neg then -(n : Int) else n

/-- The exponent of the leading bit of `num / den`, both positive. -/
def leadExp (num den : Nat) : Int :=
  let e := (Nat.log2 num : Int) - Nat.log2 den
  let low := if 0 ≤ e then decide (num < den * 2 ^ e.toNat) else decide (num * 2 ^ (-e).toNat < den)
  if low then e - 1 else e

/-- Whether a magnitude exceeds the largest finite value of a format of precision `p` (R135). -/
def aboveMax (p num den : Nat) : Bool := decide (den * ((2 ^ p - 1) * 2 ^ (128 - p)) < num)

/-- Round a non-zero exact value to a format of precision `p` (24 fp32, 8 bf16) under R57: bits, flags, stream. Overflow is judged
on the exact value (R135). -/
def roundF (p : Nat) (m : RMode) (neg : Bool) (num den : Nat) (r : Rnd) : Nat × Nat × Rnd :=
  if num = 0 then (zeroBits p neg, 0, r)
  else
    let e := max (leadExp num den) (-126)
    let k := e - ((p : Int) - 1)
    let (xn, xd) := if 0 ≤ k then (num, den * 2 ^ k.toNat) else (num * 2 ^ (-k).toNat, den)
    let (n, r) := roundR (signedInt neg xn) xd m r
    let b := (e + 126).toNat * 2 ^ (p - 1) + n.natAbs
    let top := 255 * 2 ^ (p - 1)
    let mag := min b (if m = .zero then top - 1 else top)
    (zeroBits p neg + mag, (if aboveMax p num den then fOverflow else 0) + (if b < 2 ^ (p - 1) then fUnderflow else 0), r)

/-- The stream handed to roundings that never draw. -/
def noRnd : Rnd := { seed := 0, sid := 0, ctr := 0, word := 0, left := 0 }

/-- rne32 of an exact value: bits and flags (R61). -/
def rne32 (neg : Bool) (num den : Nat) : Nat × Nat :=
  let x := roundF 24 .nearest neg num den noRnd
  (x.1, x.2.1)

/-- rne32 of an integer over a power of two, positive zero for 0. -/
def rneInt (x : Int) (den : Nat) : Nat × Nat := rne32 (decide (x < 0)) x.natAbs den

/-- A floating-point value rounded to fp32 nearest-even: NaN is canonical, infinity stays. -/
def FVal.to32 : FVal → Nat × Nat
  | .nan => (nan32, 0)
  | .inf neg => (infBits 24 neg, 0)
  | .fin neg n d => rne32 neg n d

/-- Whether bits are NaN. -/
def isNan (b : Nat) : Bool := decide (fp32Val b = .nan)

/-- The signed numerator over the denominator of a finite value. -/
def FVal.q : FVal → Int × Nat
  | .fin neg n d => (signedInt neg n, d)
  | _ => (0, 1)

/-- a + b in fp32 (R124, R150). -/
def fAdd (a b : Nat) : Nat × Nat :=
  match fp32Val a, fp32Val b with
  | .nan, _ => (nan32, 0)
  | _, .nan => (nan32, 0)
  | .inf s, .inf t => if s = t then (infBits 24 s, 0) else (nan32, fInvalid)
  | .inf s, _ => (infBits 24 s, 0)
  | _, .inf t => (infBits 24 t, 0)
  | .fin s n d, .fin t m e =>
    let x : Int := signedInt s n * e + signedInt t m * d
    if x = 0 then (zeroBits 24 (s && t), 0) else rneInt x (d * e)

/-- The sign of fp32 bits flipped, NaN made canonical. -/
def fNeg (b : Nat) : Nat := if isNan b then nan32 else if bit b 31 then b - 2 ^ 31 else b + 2 ^ 31

/-- The sign cleared, NaN made canonical. -/
def fAbs (b : Nat) : Nat := if isNan b then nan32 else b % 2 ^ 31

/-- a - b in fp32. -/
def fSub (a b : Nat) : Nat × Nat := fAdd a (fNeg b)

/-- a × b in fp32. -/
def fMul (a b : Nat) : Nat × Nat :=
  match fp32Val a, fp32Val b with
  | .nan, _ => (nan32, 0)
  | _, .nan => (nan32, 0)
  | .inf s, .inf t => (infBits 24 (s != t), 0)
  | .inf s, .fin t m _ => if m = 0 then (nan32, fInvalid) else (infBits 24 (s != t), 0)
  | .fin s n _, .inf t => if n = 0 then (nan32, fInvalid) else (infBits 24 (s != t), 0)
  | .fin s n d, .fin t m e => rne32 (s != t) (n * m) (d * e)

/-- a / b in fp32 (R150): every division by zero raises divide_by_zero (R141, assumption log entry 20). -/
def fDiv (a b : Nat) : Nat × Nat :=
  match fp32Val a, fp32Val b with
  | .nan, _ => (nan32, 0)
  | _, .nan => (nan32, 0)
  | .inf _, .inf _ => (nan32, fInvalid)
  | .inf s, .fin t m _ => (infBits 24 (s != t), if m = 0 then fDivZero else 0)
  | .fin s _ _, .inf t => (zeroBits 24 (s != t), 0)
  | .fin s n d, .fin t m e =>
    if m = 0 then (if n = 0 then (nan32, fInvalid + fDivZero) else (infBits 24 (s != t), fDivZero))
    else rne32 (s != t) (n * e) (d * m)

/-- The integer square root, bit by bit from bit 331. -/
def isqrt (x : Nat) : Nat :=
  ((List.range 332).reverse).foldl (fun r i => if (r + 2 ^ i) * (r + 2 ^ i) ≤ x then r + 2 ^ i else r) 0

/-- The square root in fp32, correctly rounded (R150). -/
def fSqrt (a : Nat) : Nat × Nat :=
  match fp32Val a with
  | .nan => (nan32, 0)
  | .inf false => (infBits 24 false, 0)
  | .inf true => (nan32, fInvalid)
  | .fin s n d =>
    if n = 0 then (zeroBits 24 s, 0)
    else if s then (nan32, fInvalid)
    else
      let x := n * 2 ^ 400 / d
      let r := isqrt x
      let exact := decide (r * r * d = n * 2 ^ 400)
      rne32 false (2 * r + (if exact then 0 else 1)) (2 ^ 201)

/-- Order of two non-NaN values: a < b with the zeros equal. -/
def fLt (a b : Nat) : Bool :=
  match fp32Val a, fp32Val b with
  | .nan, _ => false
  | _, .nan => false
  | .inf s, .inf t => s && !t
  | .inf s, _ => s
  | _, .inf t => !t
  | .fin s n d, .fin t m e => decide (signedInt s n * e < signedInt t m * d)

/-- Equality of two values: NaN equals nothing, the zeros are equal (R124). -/
def fEq (a b : Nat) : Bool := !isNan a && !isNan b && !fLt a b && !fLt b a

/-- MAX of R124: +0.0 is larger than -0.0, NaN if either is NaN. -/
def fMax (a b : Nat) : Nat :=
  if isNan a || isNan b then nan32 else if fLt a b then b else if fLt b a then a else if bit a 31 then b else a

/-- MIN of R124. -/
def fMin (a b : Nat) : Nat :=
  if isNan a || isNan b then nan32 else if fLt a b then a else if fLt b a then b else if bit a 31 then a else b

/-- Multiply by 2ⁿ, rounded once (R124 SHIFT; R109). -/
def fScale (a : Nat) (n : Int) : Nat × Nat :=
  match fp32Val a with
  | .fin s m d => if 0 ≤ n then rne32 s (m * 2 ^ n.toNat) d else rne32 s m (d * 2 ^ (-n).toNat)
  | v => v.to32

/-- fp32 to bf16 bits in a mode (R57). -/
def toBf16 (a : Nat) (m : RMode) (r : Rnd) : Nat × Nat × Rnd :=
  match fp32Val a with
  | .nan => (0x7FC0, 0, r)
  | .inf s => (infBits 8 s, 0, r)
  | .fin s n d => roundF 8 m s n d r

/-- Round to an integer and clamp to ±`q` (R41, R42, R44). A NaN has no stated result: a free value of the operands, the same
whenever these are (R118, assumption log entry 161). -/
def toIntClamp (q : Nat) (a : Nat) (m : RMode) (r : Rnd) : Int × Nat × Rnd :=
  match fp32Val a with
  | .nan => ((Config.nanInt q a % (2 * q + 1) : Nat) - (q : Int), 0, r)
  | .inf s => (signedInt s q, fOverflow, r)
  | .fin s n d =>
    let (x, r) := roundR (signedInt s n) d m r
    if x > q then (q, fOverflow, r) else if x < -(q : Int) then (-(q : Int), fOverflow, r) else (x, 0, r)

/-- Round to an int32 with clamping (R127). -/
def toInt32 (a : Nat) : Int × Nat :=
  match fp32Val a with
  | .nan => (sgn 32 (Config.nanInt (2 ^ 31) a), 0)
  | .inf s => (if s then -(2 ^ 31) else 2 ^ 31 - 1, fOverflow)
  | .fin s n d =>
    let x := roundInt (signedInt s n) d .nearest 0
    if x > 2 ^ 31 - 1 then (2 ^ 31 - 1, fOverflow) else if x < -(2 ^ 31) then (-(2 ^ 31), fOverflow) else (x, 0)

/-- Saturate to int32 (R50). -/
def sat32 (x : Int) : Int := if x > 2 ^ 31 - 1 then 2 ^ 31 - 1 else if x < -(2 ^ 31) then -(2 ^ 31) else x

/-- The fixed tree of R116 with every node's flags, on fuel no smaller than the list's length. -/
def fixedSumF : Nat → List Nat → Nat × Nat
  | 0, _ => (0, 0)
  | _ + 1, [] => (0, 0)
  | _ + 1, [x] => (x, 0)
  | k + 1, xs =>
    let h := 2 ^ Nat.log2 (xs.length - 1)
    let a := fixedSumF k (xs.take h)
    let b := fixedSumF k (xs.drop h)
    let c := fAdd a.1 b.1
    (c.1, a.2 ||| b.2 ||| c.2)

/-- fixed_sum of R116; an empty sum is +0.0. -/
def fixedSum (xs : List Nat) : Nat × Nat := fixedSumF xs.length xs

/-- frexp1 of R132: the exponent k with |x| = m × 2ᵏ, m in [1, 2). -/
def frexpK (n d : Nat) : Int := leadExp n d

/-! ### B16, KV and compressed formats (R45 to R54) -/

/-- B16 conversion of bf16 values (R46): the shared exponent and mantissas, or none at an infinity or NaN. -/
def toB16 (xs : List Nat) : Option (Nat × List Int) :=
  if xs.any (fun x => bits x 7 8 = 255) then none
  else
    let e' := fun x => max (bits x 7 8) 1
    let sg := fun x => bits x 0 7 + (if bits x 7 8 = 0 then 0 else 128)
    let e := (xs.filter (fun x => sg x ≠ 0)).foldl (fun a x => max a (e' x)) 1
    some (e, xs.map (fun x =>
      let v := signedInt (bit x 15) (sg x)
      roundInt (v * 2 ^ 7) (2 ^ (e - e' x)) .nearest 0))

/-- The 88-byte record of a B16 group (R45). -/
def b16Bytes (e : Nat) (ms : List Int) : List Byte :=
  (ms.map (fun m => leBytes 2 (wrap 16 m))).flatten ++ leBytes 8 e

/-- KV quantisation of one head's vector (R52): bf16 scale, elements, whether invalid is raised. -/
def kvQuant (q : Nat) (xs : List Nat) : Nat × List Int × Bool :=
  if xs.any (fun x => bits x 23 8 = 255) then (0x7FC0, xs.map (fun _ => 0), true)
  else
    let mx := xs.foldl (fun a x => if fLt a (fAbs x) then fAbs x else a) 0
    match fp32Val mx with
    | .fin _ n d =>
      if n = 0 then (0, xs.map (fun _ => 0), false)
      else
        let e := max (leadExp n (d * q)) (-126)
        let k := e - 7
        let (xn, xd) := if 0 ≤ k then (n, d * q * 2 ^ k.toNat) else (n * 2 ^ (-k).toNat, d * q)
        let c := (xn + xd - 1) / xd
        let s := (e + 126).toNat * 128 + c
        match fp32Val (bfTo32 s) with
        | .fin _ sn sd => (s, xs.map (fun x =>
            match fp32Val x with
            | .fin neg a b =>
              let v := roundInt (signedInt neg (a * sd)) (b * sn) .nearest 0
              if v > q then (q : Int) else if v < -(q : Int) then -(q : Int) else v
            | _ => 0), false)
        | _ => (s, xs.map (fun _ => 0), false)
    | _ => (0, xs.map (fun _ => 0), false)

/-- decode_weight of R54. -/
def decodeWeight (base : Nat) (off : Nat → Nat) (w : Nat) : Nat :=
  if w = 0x3FF then 0
  else
    let s := w / 512 % 2
    let m := w / 4 % 128
    let e : Int := (base : Int) - off (w % 4)
    if e < 1 then s * 32768 else s * 32768 + e.toNat % 256 * 128 + m

/-- The 96 bf16 weights of a 128-byte compressed group, or none for base 255 (R53, R54). `tab` reads the table set. -/
def decodeGroup (bs : List Byte) (tab : Nat → Nat) : Option (List Nat) :=
  let g := leVal bs
  let base := bits g 0 8
  let ti := bits g 8 6
  if base = 255 then none
  else some ((List.range 96).map (fun i => decodeWeight base (fun j => tab (4 * ti + j)) (bits g (64 + 10 * i) 10)))

/-! ### Hash (R151) -/

/-- HASH of R151. -/
def hash64 (tok layer choice key : Nat) : Nat :=
  let x := (tok ^^^ key) % 2 ^ 64
  let x := (x + (layer * 256 ||| choice) * 0x8F3B6D21A7C45E19) % 2 ^ 64
  let x := x ^^^ (x >>> 31)
  let x := x * 0xE1D74B9A2C68F035 % 2 ^ 64
  let x := x ^^^ (x >>> 29)
  let x := (x + key) % 2 ^ 64
  let x := x * 0xA4C93E875B12D76B % 2 ^ 64
  x ^^^ (x >>> 32)

end Sys2Proof
end

