-- ==== Sys2Proof/Machine/State.lean ====
section
/-! DEFINITION. The state of the BT4 package: every register, store, buffer, queue and object the spec names, as plain
data, with the queue of waiting commands and the machine right after reset. INVENTORY.md lists each piece with its rule. -/

namespace Sys2Proof.Machine

/-- Why a step stops the machine. The model has no such stop: every error the spec describes is an effect on State
(assumption log entry 2). The one constructor is raised by nothing; it is safe. -/
inductive Fault where
  | none_
  deriving DecidableEq, Repr

/-- Why a command is refused. -/
inductive Refusal where
  /-- Raised by an arm of exec whose command has no meaning yet. Safe: it claims nothing. -/
  | notModelled (mnemonic : String)
  deriving DecidableEq, Repr

/-- Pins and the JTAG port (22, 24): the levels of the inputs, the two latched outputs, whether the QSPI lands are in high impedance
(R453), the SMBus straps, the selected JTAG instruction (0 BYPASS, 1 IDCODE, 2 SAMPLE/PRELOAD, 3 EXTEST) and what it last shifted out. -/
structure Pins where
  supplies : Bool
  pwrgood : Bool
  trayResetN : Bool
  perstN : Bool
  faultN : Bool
  thermtripN : Bool
  qspiHighZ : Bool
  straps : Nat
  jtag : Nat
  tdo : List Bool
  bscan : List Bool
  deriving DecidableEq, Repr, Inhabited

/-- Boot and firmware (22, 21): DEV_STATE, BOOT_STATUS, DEV_IDENT, DEV_FW, keys and firmware activation. `inReset` holds
while the package stands in chip reset. Keys are named by serial numbers (assumption log entry 9); `sealTop` and `sealKey`
are T and S(v), `sealed` the steward's flash records, `opened` what it reads of them (R438 to R440). -/
structure Boot where
  inReset : Bool
  devState : Nat
  error : Nat
  testMode : Bool
  owned : Bool
  installed : Bool
  repaired : Bool
  skipped : Nat
  failedGlens : Nat
  secVer : Nat
  fwVer : Nat
  fwOk : Bool
  floor : Nat
  policy : List Byte
  fwImage : List Byte
  repairRec : List Byte
  installRec : List Byte
  secret : Bool
  sealTop : List Byte
  sealKey : List Byte
  sealed : List (List Byte)
  opened : List (List Byte)
  alias_ : Nat
  stagingKey : Nat
  keyNext : Nat
  staged : Option (List Byte × Nat × Nat × Bool)
  pause : Option Pkt
  retry : Bool
  lastHardReset : Option Nat
  deriving DecidableEq, Repr, Inhabited

/-- The common count and its alignment (02, 18): the count, the slew still to be made, the latched high half, the status
bits, the exchange in flight. `wall` is the model's own nanosecond count, which no reset restarts. -/
structure Clock where
  now : Nat
  wall : Nat
  slew : Int
  phase : Nat
  latch : Option Nat
  lastEx : Nat
  stepped : Bool
  master : Bool
  synced : Bool
  t1 : Option Nat
  missed : Nat
  peerBad : Nat
  everAligned : Bool
  deriving DecidableEq, Repr, Inhabited

/-- An SPDM response held in the DOE mailbox (R362, R363). -/
inductive Spdm where
  | version
  | capabilities
  | algorithms
  | digests (d0 d1 : List Byte)
  | certificate (slot : Nat) (chain : List Byte)
  | challengeAuth (slot : Nat) (sig : List Byte)
  | measurements (blocks : List (Nat × List Byte)) (sig : List Byte)
  | error (code : Nat)
  deriving DecidableEq, Repr, Inhabited

/-- The CXL host port (17): configuration space by register (0 where none is listed), the HDM decoder, MSI-X, refusals, the
clean lines of the device cache, the DOE mailbox, and the last answers given to reads. -/
structure Port0 where
  memEnable : Bool
  cfg : NMap Nat
  hdmBase : Nat
  hdmOn : Bool
  hdmErr : Bool
  msixEnable : Bool
  msixTable : NMap Nat
  pba : List Nat
  sent : NMap Nat
  lastRefusal : Option Nat
  firstRefused : Option Nat
  cache : List Nat
  doe : Option Spdm
  answer : List Byte
  answerPoison : Bool
  retryAnswer : Bool
  deriving DecidableEq, Repr, Inhabited

/-- The event log (R394 to R396): records by index, the two positions, the counts. -/
structure Log where
  recs : NMap Event
  head : Nat
  tail : Nat
  seq : Nat
  lost : Nat
  lostSince : Nat
  overflow : Bool
  irq : Bool
  msix : Nat
  deriving DecidableEq, Repr, Inhabited

/-- Instruction trace (R471 to R473). The records stand in the ring's memory. -/
structure Trace where
  running : Bool
  steward : Bool
  ctx : Nat
  base : Nat
  size : Nat
  head : Nat
  tail : Nat
  lost : Nat
  lostSince : Nat
  deriving DecidableEq, Repr, Inhabited

/-- Configuration (22): the staging window, the shadow and active sets, CONFIG_STATUS, a fence not yet complete. -/
structure Cfg where
  window : List (Nat × Byte)
  shadow : Option CfgSet
  active : Option CfgSet
  lastStatus : Nat
  fence : Option (Pkt × Nat)
  deriving DecidableEq, Repr, Inhabited

/-- Package power (20): the measured averages, the tray's limit and mask, the last SMBus answer, whether the limiter is lowering
ceilings and when it last moved them. -/
structure Power where
  w1ms : Nat
  w100us : Nat
  trayLimit : Nat
  alertMask : Nat
  smb : Option Nat
  lowering : Bool
  limAt : Nat
  outOfCond : Bool
  unchecked : Bool
  deriving DecidableEq, Repr, Inhabited

/-- HBM, far tier and what the BT4 has written to host memory (16): bytes by physical address (0 where none is listed), the
key of each 64 B unit (0 clear), the marked units, the symbols of a unit that an upset has struck, the units whose next access finds
the copies of the codec (4) or the cipher (5) apart (R389), the far-tier bytes lost under R339. -/
structure Mem where
  hbm : List (Nat × Byte)
  hbmKey : NMap Nat
  hbmPoison : List Nat
  hbmLatent : NMap (List Nat)
  hbmCopies : NMap Nat
  far : List (Nat × Byte)
  farKey : NMap Nat
  farPoison : List Nat
  farLost : List Nat
  host : List (Nat × Byte)
  hostPoison : List Nat
  deriving DecidableEq, Repr, Inhabited

/-- Messages on the Ohmist management channel (R371, R282, R322, R377, R387, R406). -/
inductive Mgmt where
  | token (node ctx epoch : Nat) (commit : Bool) (count : Nat)
  | tokenAck (epoch : Nat)
  | arrive (home job ident tgen : Nat)
  | complete (job ident : Nat) (broken : Bool)
  | generation (job part gen : Nat)
  | linkState (port : Nat) (up : Bool)
  | timeRequest (port t1 : Nat)
  | timeReply (port t1 t2 t3 : Nat)
  | timeAhead (count : Nat)
  deriving DecidableEq, Repr, Inhabited

/-- What the package has handed to its ports: packets with the port they left by, management messages, retry requests and resends,
and the credits it returns for the buffers of a channel (R369, R371). -/
inductive Out where
  | packet (port : Option Nat) (pk : Packet)
  | mgmt (m : Mgmt)
  | retryReq (port seq : Nat)
  | resend (port seq : Nat)
  | credit (port vc flits : Nat)
  deriving DecidableEq, Repr, Inhabited

/-- The Ohmist side (18): ports, flows, known broken links, peer generations, frame counters. -/
structure Links where
  ports : NMap Port
  flows : List Flow
  sflows : List SFlow
  downLinks : List (Nat × Nat)
  peerGen : NMap Nat
  frames : NMap Nat
  inst : Install
  out : List Out
  deriving DecidableEq, Repr, Inhabited

/-- The state of the package. -/
structure State where
  /-- The commands that wait, first in, first out. -/
  pending : List Instr
  pins : Pins
  boot : Boot
  clk : Clock
  port : Port0
  log : Log
  trace : Trace
  cfg : Cfg
  power : Power
  mem : Mem
  links : Links
  tiles : NMap Tile
  quads : NMap Quad
  hbms : NMap Stack
  fars : NMap Far
  partGen : NMap Nat
  saddleRerouted : List Nat
  qps : NMap Qp
  ctxs : NMap Ctx
  models : NMap Model
  seqs : NMap Seq
  prefixes : List Prefix
  works : NMap Work
  workNext : Nat
  rng : NMap Nat
  signals : NMap Signal
  barriers : NMap Barrier
  waits : List SigWait
  held : List Held
  windows : List Window
  disabled : List (Nat × Nat)
  disabling : List Disable
  resets : List Reset
  advances : List (Nat × Nat)
  ctrs : NMap Nat
  snapBank : NMap Nat
  snapAt : Nat
  snapPending : Option (Pkt × Nat)
  dumps : List Dump
  dumpNext : Nat
  openSeq : Nat
  /-- The last answer of a remote port: status code, bytes, poison mark (R186). -/
  remote : Option (Nat × List Byte × Bool)
  /-- The model's own counter behind free values (assumption log entry 5): no statement rests on its value. -/
  freeCtr : Nat
  deriving DecidableEq, Repr

/-! ### Reset values of the parts -/

/-- A core at reset: no invocation, run-ahead enabled (R141), p0 reads 1 (R140), an instruction store of zero words. -/
def Core.reset : Core :=
  { run := .idle, frozen := false, pc := 0, g := [], f := [], p := 1, sticky := 0, runahead := true, pend := [],
    ckpts := [], prov := [], work := none, commits := 0, flow := [], poisonSeen := false, epoch := 0,
    slotBound := none, appRange := (0, 0), istore := [], ipoison := [], ilatent := [] }

/-- Ticket numbering from 1 (R162). -/
def Tickets.reset : Tickets := { issued := 0, kept := [] }

/-- A slot after chip reset: every byte code 121, check rows zero, zero mark set (R64, R222). -/
def Slot.reset : Slot := { bytes := [], sums := [], poison := false, zero := true, failed := false, plane := none }

/-- An accumulator row after reset (R101). -/
def Row.reset : Row :=
  { acc20 := [], acc32 := [], tag := 0, planeN := 0, poison := false, sat := false, ctr := 0 }

/-- A look-up slot after reset: entries +0.0, header 0 (R131). -/
def Lut.reset : Lut := { v := [], hdr := 0, poison := false }

/-- A tile after chip reset: unbound, generation 1 (R405), scratchpad zero and no mask (R193). -/
def Tile.reset : Tile :=
  { ctx := none, core := Core.reset, tkA := Tickets.reset, tkV := Tickets.reset, tkD := Tickets.reset, act := [],
    drain := [], vdesc := [], chain := [], patch := [], sparse := [], slots := [], accA := [], accB := [],
    checks := [], aops := [], ftq := [], luts := [], vops := [], xfers := [], turn := 3, tlb := [], upper := [], kvb := [], sp := [],
    poison := [], latent := [], resid := [], reload := [], lostGold := [], disabled := false, gen := 1,
    inReset := false }

/-- A quad after chip reset: 0.80 V, code 50 (R419); the measured fields read 0 (R30, R420). The two ceilings bind at nothing: code
80. QUAD_POWER's set_code, whose Reset column is 0, reads 0 in chip reset and the code of R419 from boot on (DESIGN CHOICE, log
entry 154). -/
def Quad.reset : Quad :=
  { junction := 0, voltage := 0, rate := 0, valid := false, window := 0, gov := 50, ceilP := 80, ceilT := 80, off := false,
    offCause := 0, retLost := false, scrubPass := false, power := 0, thermAt := 0 }

/-- A stack before boot has trained it (R335). -/
def Stack.reset : Stack :=
  { temp := 0, srepairs := 0, hot := false, patrolAt := 0, patrolDone := false, trained := false, available := false,
    discarded := 0, trees := [] }

/-- A far-tier port before boot has enumerated it (R340). -/
def Far.reset : Far := { units := 0, width := 0, failed := false, enabled := false, present := false }

/-- An Ohmist port at reset: down, counts zero, every credit of R371 in hand. -/
def Port.reset : Port :=
  { cabled := false, up := false, degraded := false, disabled := false, lanes := 0, retrains := 0, nextTry := 0,
    txSeq := 0, rxSeq := 0, replay := [], awaiting := false, nakSeq := 0, nakCount := 0, lastValid := 0,
    credits := [(0, 96), (1, 64), (2, 128), (3, 16)], waiting := [] }

/-- A queue pair at reset (R285): every register 0. -/
def Qp.reset : Qp :=
  { enable := false, sqHbm := false, cqHbm := false, devQueue := false, ctx := 0, msix := 0, coalesce := 0,
    sqBase := 0, cqBase := 0, sqLog := 0, cqLog := 0, active := false, error := false, fnDis := false, errCode := 0,
    sqHead := 0, sqTail := 0, cqTail := 0, cqHead := 0, phase := true, taken := 0, cq := [], since := 0,
    oldest := none, ringHbm := false, ringLost := false }

/-- A free sequence slot (R302, R303). -/
def Seq.free : Seq :=
  { state := 0, serial := 0, ctx := 0, model := 0, variant := 0, ads := [], cls := 0, target := 0, maxLen := 0,
    c := 0, a := 0, epoch := 0, action := none, acks := [], tokenAt := 0, tokenHeld := false, opened := 0, preempted := 0,
    inh := 0, reserved := 0, victim := false, fresh := false, runs := [] }

/-- The standalone installation of R459: node 0, one rack, no port cabled, its own time master. -/
def Install.standalone : Install :=
  { nx := 1, ny := 1, node := 0, slots := 0, cabled := 0, planeSeed := 0, master := 0, parent := 0xFF,
    alternate := 0xFF, checkPeer := 0, asymmetry := [] }

def Boot.reset : Boot :=
  { inReset := true, devState := 0, error := 0, testMode := false, owned := false, installed := false,
    repaired := false, skipped := 0, failedGlens := 0, secVer := 0, fwVer := 0, fwOk := false, floor := 0,
    policy := [], fwImage := [], repairRec := [], installRec := [],
    secret := false, sealTop := [], sealKey := [], sealed := [], opened := [], alias_ := 0, stagingKey := 0, keyNext := 1, staged := none, pause := none, retry := true,
    lastHardReset := none }

def Clock.reset : Clock :=
  { now := 0, wall := 0, slew := 0, phase := 0, latch := none, lastEx := 0, stepped := false, master := true,
    synced := false, t1 := none, missed := 0, peerBad := 0, everAligned := false }

def Port0.reset : Port0 :=
  { memEnable := false, cfg := [], hdmBase := 0, hdmOn := false, hdmErr := false, msixEnable := false,
    msixTable := [], pba := [], sent := [], lastRefusal := none, firstRefused := none, cache := [], doe := none,
    answer := [], answerPoison := false, retryAnswer := false }

def Log.reset : Log :=
  { recs := [], head := 0, tail := 0, seq := 0, lost := 0, lostSince := 0, overflow := false, irq := false,
    msix := 0 }

def Trace.reset : Trace :=
  { running := false, steward := false, ctx := 0, base := 0, size := 0, head := 0, tail := 0, lost := 0,
    lostSince := 0 }

def Cfg.reset : Cfg := { window := [], shadow := none, active := none, lastStatus := 0, fence := none }

def Power.reset : Power :=
  { w1ms := 0, w100us := 0, trayLimit := 0, alertMask := 0, smb := none, lowering := false, limAt := 0, outOfCond := false,
    unchecked := false }

def Mem.reset : Mem :=
  { hbm := [], hbmKey := [], hbmPoison := [], hbmLatent := [], hbmCopies := [], far := [], farKey := [], farPoison := [],
    farLost := [], host := [], hostPoison := [] }

def Links.reset : Links :=
  { ports := [], flows := [], sflows := [], downLinks := [], peerGen := [], frames := [],
    inst := Install.standalone, out := [] }

def Pins.reset : Pins :=
  { supplies := true, pwrgood := true, trayResetN := false, perstN := false, faultN := true, thermtripN := true,
    qspiHighZ := true, straps := 0, jtag := 1, tdo := [], bscan := [] }

/-- The package right after chip reset: supplies applied, PWRGOOD high, TRAY_RESET_N and PERST_N still low, nothing
booted, the queue of commands empty (assumption log entry 1 says how commands come to run from here). -/
def State.reset : State :=
  { pending := [], pins := Pins.reset, boot := Boot.reset, clk := Clock.reset, port := Port0.reset, log := Log.reset,
    trace := Trace.reset, cfg := Cfg.reset, power := Power.reset, mem := Mem.reset, links := Links.reset, tiles := [],
    quads := [], hbms := [], fars := [], partGen := [], saddleRerouted := [], qps := [], ctxs := [], models := [],
    seqs := [], prefixes := [], works := [], workNext := 1, rng := [], signals := [], barriers := [], waits := [],
    held := [], windows := [], disabled := [], disabling := [], resets := [], advances := [], ctrs := [],
    snapBank := [], snapAt := 0, snapPending := none, dumps := [], dumpNext := 1, openSeq := 0, remote := none, freeCtr := 0 }

end Sys2Proof.Machine
end

