-- ==== Sys2Proof/Machine/Ops.lean ====
section
/-! DEFINITION. The shared operations of the package: parts of the state, free values, the event log (R394 to R397),
MSI-X (R289, R361), scratchpad cells (R184 to R192), tickets (R162 to R164) and the end of an invocation (R144, R166,
R295). -/

namespace Sys2Proof.Machine

/-! ### Parts of the state -/

/-- Tile `t`. -/
def State.tile (s : State) (t : Nat) : Tile := NMap.get Tile.reset s.tiles t

/-- Tile `t` replaced. -/
def State.setTile (s : State) (t : Nat) (x : Tile) : State := { s with tiles := NMap.put s.tiles t x }

/-- Tile `t` changed. -/
def State.modTile (s : State) (t : Nat) (f : Tile → Tile) : State := s.setTile t (f (s.tile t))

/-- The core of tile `t` changed. -/
def State.modCore (s : State) (t : Nat) (f : Core → Core) : State :=
  s.modTile t (fun x => { x with core := f x.core })

/-- Quad `q`. -/
def State.quad (s : State) (q : Nat) : Quad := NMap.get Quad.reset s.quads q

/-- Quad `q` changed. -/
def State.modQuad (s : State) (q : Nat) (f : Quad → Quad) : State :=
  { s with quads := NMap.put s.quads q (f (s.quad q)) }

/-- HBM stack `k`. -/
def State.stack (s : State) (k : Nat) : Stack := NMap.get Stack.reset s.hbms k

/-- HBM stack `k` changed. -/
def State.modStack (s : State) (k : Nat) (f : Stack → Stack) : State :=
  { s with hbms := NMap.put s.hbms k (f (s.stack k)) }

/-- Far-tier port `p`. -/
def State.far (s : State) (p : Nat) : Far := NMap.get Far.reset s.fars p

/-- Far-tier port `p` changed. -/
def State.modFar (s : State) (p : Nat) (f : Far → Far) : State := { s with fars := NMap.put s.fars p (f (s.far p)) }

/-- Ohmist port `p`. -/
def State.ohm (s : State) (p : Nat) : Port := NMap.get Port.reset s.links.ports p

/-- Ohmist port `p` changed. -/
def State.modOhm (s : State) (p : Nat) (f : Port → Port) : State :=
  { s with links := { s.links with ports := NMap.put s.links.ports p (f (s.ohm p)) } }

/-- Queue pair `q`. -/
def State.qp (s : State) (q : Nat) : Qp := NMap.get Qp.reset s.qps q

/-- Queue pair `q` changed. -/
def State.modQp (s : State) (q : Nat) (f : Qp → Qp) : State := { s with qps := NMap.put s.qps q (f (s.qp q)) }

/-- Context `c`, if it exists. -/
def State.ctx? (s : State) (c : Nat) : Option Ctx := NMap.get? s.ctxs c

/-- Context `c` changed, if it exists. -/
def State.modCtx (s : State) (c : Nat) (f : Ctx → Ctx) : State :=
  match s.ctx? c with
  | some x => { s with ctxs := NMap.put s.ctxs c (f x) }
  | none => s

/-- The partition of a context. -/
def State.partOfCtx (s : State) (c : Nat) : Option Nat := (s.ctx? c).map (·.part)

/-- Sequence slot `n`. -/
def State.seq (s : State) (n : Nat) : Seq := NMap.get Seq.free s.seqs n

/-- Sequence slot `n` changed. -/
def State.modSeq (s : State) (n : Nat) (f : Seq → Seq) : State := { s with seqs := NMap.put s.seqs n (f (s.seq n)) }

/-- Work command `w` changed, if it is pending. -/
def State.modWork (s : State) (w : Nat) (f : Work → Work) : State :=
  match NMap.get? s.works w with
  | some x => { s with works := NMap.put s.works w (f x) }
  | none => s

/-- The generation of a partition (R405). -/
def State.gen (s : State) (g : Nat) : Nat := NMap.get 1 s.partGen g

/-- The counter at a BAR0 offset (R467, R468). -/
def State.ctr (s : State) (off : Nat) : Nat := NMap.get 0 s.ctrs off

/-- A 64-bit counter advanced (R467). -/
def State.count (s : State) (off n : Nat) : State :=
  { s with ctrs := NMap.set 0 s.ctrs off ((s.ctr off + n) % 2 ^ 64) }

/-- The partitions of the active configuration set (R460). -/
def State.parts (s : State) : NMap PartCfg :=
  match s.cfg.active with
  | some c => c.parts.filter (fun e => e.2.present)
  | none => []

/-- The partition that holds a glen, if one does. -/
def State.partOfGlen (s : State) (g : Nat) : Option Nat :=
  (s.parts.find? (fun e => bit e.2.glens g)).map (·.1)

/-- The glen of a tile: 16 tiles a glen (R12). -/
def glenOf (t : Nat) : Nat := t / 16

/-- The quad of a tile: 4 tiles a quad (R12). -/
def quadOf (t : Nat) : Nat := t / 4

/-- The partition of a tile, if any. -/
def State.partOf (s : State) (t : Nat) : Option Nat := s.partOfGlen (glenOf t)

/-- The tiles of a partition. -/
def State.tilesOf (s : State) (p : Nat) : List Nat := (List.range 256).filter (fun t => s.partOf t = some p)

/-- Whether a function is disabled: kind and index of R314. -/
def State.isDisabled (s : State) (kind index : Nat) : Bool := s.disabled.contains (kind, index)

/-- Whether a glen failed self-test (R457). -/
def State.glenFailed (s : State) (g : Nat) : Bool := bit s.boot.failedGlens g

/-- Whether a tile is off: its quad off, its glen disabled or failed, or no partition holding it (R407). -/
def State.tileOff (s : State) (t : Nat) : Bool :=
  (s.quad (quadOf t)).off || s.isDisabled 0 (glenOf t) || s.glenFailed (glenOf t) || (s.partOf t).isNone

/-- The n-th free value from here on: what the spec leaves undefined (assumption log entry 5). -/
def State.fv (s : State) (n : Nat) : Nat := Config.freeValue (s.freeCtr + n)

/-- `n` free values used up. -/
def State.used (s : State) (n : Nat) : State := { s with freeCtr := s.freeCtr + n }

/-! ### MSI-X (R289, R361) -/

/-- The register of the MSI-X capability's message control (assumption log entry 60): bit 31 MSI-X Enable, bit 30 Function Mask. -/
def msixReg : Nat := 0xB0

/-- Whether a vector is masked: by its own mask bit or by the function mask. -/
def Port0.masked (p : Port0) (v : Nat) : Bool :=
  bit (NMap.get 1 p.msixTable (4 * v + 3)) 0 || bit (NMap.get 0 p.cfg msixReg) 30

/-- A vector raised: sent, or held pending while it is masked. While MSI-X Enable is 0 nothing happens (R361). -/
def State.raiseMsix (s : State) (v : Nat) : State :=
  if !s.port.msixEnable then s
  else if s.port.masked v then { s with port := { s.port with pba := insertNat s.port.pba v } }
  else { s with port := { s.port with sent := NMap.set 0 s.port.sent v (NMap.get 0 s.port.sent v + 1) } }

/-! ### The event log (R394 to R397) -/

/-- What an event says: type, kind (0 masked, 1 detected, 2 notice), context, unit, index, generation, detail. -/
structure Ev where
  type : Nat
  kind : Nat
  ctx : Option Nat
  unit : Nat
  index : Nat
  gen : Nat
  detail : List (Nat × Nat × Nat)
  deriving DecidableEq, Repr, Inhabited

/-- The ring is full when tail + 1 equals head (R395). -/
def Log.full (l : Log) : Bool := decide ((l.tail + 1) % 4096 = l.head)

/-- One record written at tail (R394, R396). -/
def Log.write (l : Log) (now : Nat) (e : Ev) : Log :=
  { l with
    recs := NMap.put l.recs l.tail
      { seq := l.seq, type := e.type, kind := e.kind, ctx := e.ctx, time := now, unit := e.unit, index := e.index,
        gen := e.gen, detail := e.detail }
    tail := (l.tail + 1) % 4096
    seq := (l.seq + 1) % 2 ^ 32 }

/-- A record lost to a full ring (R395). -/
def Log.lose (l : Log) : Log :=
  { l with lost := min (l.lost + 1) (2 ^ 32 - 1), lostSince := l.lostSince + 1, overflow := true }

/-- The LOG_OVERFLOW record (R395, R397). -/
def evLogOverflow (n : Nat) : Ev :=
  { type := 0x3F, kind := 2, ctx := none, unit := 0, index := 0, gen := 0, detail := [(24, 4, n)] }

/-- A record arrives at the log: after a loss the first record with room is LOG_OVERFLOW (R395). -/
def Log.add (l : Log) (now : Nat) (e : Ev) : Log :=
  if l.full then l.lose
  else if l.lostSince = 0 then l.write now e
  else
    let l := { l.write now (evLogOverflow l.lostSince) with lostSince := 0 }
    if l.full then l.lose else l.write now e

/-- Whether neither FAULT_N nor THERMTRIP_N is asserted: otherwise nothing leaves the package and nothing runs (R413, R429). -/
def State.live (s : State) : Bool := s.pins.faultN && s.pins.thermtripN

/-- An event raised: its record, and the log's vector after each record that was written, two where LOG_OVERFLOW came first (R394,
R395). -/
def State.raise (s : State) (e : Ev) : State :=
  let l := s.log.add s.clk.now e
  let s' := { s with log := l }
  if !s.live then s
  else if !s.log.irq || decide (l.seq = s.log.seq) then s'
  else if l.seq = (s.log.seq + 1) % 2 ^ 32 then s'.raiseMsix s.log.msix
  else (s'.raiseMsix s.log.msix).raiseMsix s.log.msix

/-- Several events in order. -/
def State.raiseAll (s : State) (es : List Ev) : State := es.foldl State.raise s

/-- An event about a tile. -/
def State.evTile (s : State) (t type kind : Nat) (detail : List (Nat × Nat × Nat)) : Ev :=
  { type := type, kind := kind, ctx := (s.tile t).ctx, unit := 1, index := t, gen := (s.tile t).gen, detail := detail }

/-- An event about another unit, without a context. -/
def evUnit (unit index type kind : Nat) (detail : List (Nat × Nat × Nat)) : Ev :=
  { type := type, kind := kind, ctx := none, unit := unit, index := index, gen := 0, detail := detail }

/-! ### Scratchpad cells (R175 to R192) -/

/-- The populated 18 MiB of a tile (R175). -/
def spSize : Nat := 0x1200000

/-- The scratchpad block of an offset (R176). -/
def spBlock (a : Nat) : Nat := a / 32768

/-- Whether a range lies wholly in the populated scratchpad. -/
def inSp (a n : Nat) : Bool := decide (a + n ≤ spSize)

/-- Upsets strike cells: a second one in a cell, or a double one, is not correctable (R187, R390). -/
def Tile.strike (x : Tile) (us : List Upset) : Tile :=
  us.foldl (fun x u =>
    let c := u.off / 8
    if inSp u.off 1 && !x.poison.contains c then
      { x with latent := NMap.put x.latent c (u.double || (NMap.get? x.latent c).isSome) }
    else x) x

/-- What a read of cells finds: the tile after it, cells that read uncorrectable, corrected and newly marked cells. -/
structure CellRead where
  tile : Tile
  bad : List Nat
  fixed : List Nat
  fresh : List Nat
  deriving DecidableEq, Repr

/-- One cell read (R187). -/
def CellRead.cell (r : CellRead) (c : Nat) : CellRead :=
  if r.tile.poison.contains c then { r with bad := r.bad ++ [c] }
  else match NMap.get? r.tile.latent c with
    | none => r
    | some false => { r with tile := { r.tile with latent := NMap.del r.tile.latent c }, fixed := r.fixed ++ [c] }
    | some true =>
      { tile := { r.tile with latent := NMap.del r.tile.latent c, poison := insertNat r.tile.poison c }
        bad := r.bad ++ [c]
        fixed := r.fixed
        fresh := r.fresh ++ [c] }

/-- The cells of a byte range. -/
def cellsOf (a n : Nat) : List Nat := if n = 0 then [] else List.range' (a / 8) ((a + n - 1) / 8 - a / 8 + 1)

/-- A range of cells read. -/
def Tile.readCells (x : Tile) (a n : Nat) : CellRead :=
  (cellsOf a n).foldl CellRead.cell { tile := x, bad := [], fixed := [], fresh := [] }

/-- The model that has a resident block on a tile (R299). -/
def State.modelOfBlock (s : State) (t b : Nat) : Option Nat :=
  (s.models.find? (fun e => e.2.blocks.any (fun k => k.1 = t && k.2.1 = b))).map (·.1)

/-- The contexts that use a model: an open slot, a pending frame or other work (R410). -/
def State.usersOf (s : State) (m : Nat) : List Nat :=
  (List.range 256).filter (fun c =>
    s.seqs.any (fun e => e.2.state != 0 && e.2.ctx = c && e.2.model = m)
      || s.works.any (fun e => e.2.ctx = c && e.2.model = m))

/-- A resident block with a newly uncorrectable cell: it is marked reloading, and every user of the model is told
(R189, R410). -/
def State.markReload (s : State) (t cell : Nat) : State :=
  let b := cell / 4096
  let x := s.tile t
  if !x.resid.contains b || x.reload.contains b || x.lostGold.contains b then s
  else
    let s := s.setTile t { x with reload := insertNat x.reload b }
    match s.modelOfBlock t b with
    | none => s
    | some m => s.raiseAll ((s.usersOf m).map (fun c =>
        { type := 0x20, kind := 1, ctx := some c, unit := 1, index := t, gen := x.gen,
          detail := [(24, 2, m), (26, 1, t), (28, 2, cell * 8 / 8192)] }))

/-- The events of a read of cells (R187, R397), and the reloads it starts. -/
def State.afterRead (s : State) (t : Nat) (r : CellRead) (scrub : Bool) : State :=
  let s := s.setTile t r.tile
  let s := s.raiseAll (r.fixed.map (fun c => s.evTile t 0x01 0 [(24, 4, c * 8)]))
  r.fresh.foldl (fun s c =>
    let res := (s.tile t).resid.contains (c / 4096)
    (s.raise (s.evTile t 0x02 1 [(24, 4, c * 8), (28, 1, (if res then 1 else 0) + (if scrub then 2 else 0))])).markReload
      t c) s

/-- The byte counters of a tile's scratchpad, read or written: a range that spans both regions counts in each (R178, R467, R468). -/
def State.countSp (s : State) (t a n : Nat) (write : Bool) : State :=
  let near := min n (0x600000 - a)
  let d := 0x300000 + 64 * t + (if write then 8 else 0)
  let s := if near = 0 then s else s.count d near
  if n ≤ near then s else s.count (d + 16) (n - near)

/-- Bytes of a tile read, uncounted, with the cells that read uncorrectable. -/
def State.spReadQuiet (s : State) (t a n : Nat) : List Byte × List Nat × State :=
  let r := (s.tile t).readCells a n
  (Bytes.rd (s.tile t).sp a n, r.bad, s.afterRead t r false)

/-- Bytes of a tile read by a requester, with the cells that read uncorrectable. -/
def State.spRead (s : State) (t a n : Nat) : List Byte × List Nat × State :=
  let r := s.spReadQuiet t a n
  (r.1, r.2.1, r.2.2.countSp t a n false)

/-- The bytes of a partial write of a cell range (R184, R188): cells that read uncorrectable keep their mark. -/
def Tile.storeBytes (x : Tile) (a : Nat) (bs : List Byte) (poison : Bool) : Tile :=
  let cs := cellsOf a bs.length
  let full := fun c => decide (a ≤ c * 8) && decide (c * 8 + 8 ≤ a + bs.length)
  let sp := Bytes.wr x.sp a bs
  let kept := x.poison.filter (fun c => !(cs.contains c && full c))
  { x with
    sp := sp
    latent := x.latent.filter (fun e => !(cs.contains e.1 && full e.1))
    poison := if poison then cs.foldl insertNat kept else kept }

/-- Bytes written to a tile: a cell written in part is read first (R188); `poison` marks the cells (R112, R137). -/
def State.spWrite (s : State) (t a : Nat) (bs : List Byte) (poison : Bool) : State :=
  let cs := (cellsOf a bs.length).filter (fun c => !(decide (a ≤ c * 8) && decide (c * 8 + 8 ≤ a + bs.length)))
  let r := cs.foldl CellRead.cell { tile := s.tile t, bad := [], fixed := [], fresh := [] }
  ((s.afterRead t r false).modTile t (fun x => x.storeBytes a bs poison)).countSp t a bs.length true

/-- Whether a byte range touches a resident block (R192). -/
def Tile.residentAt (x : Tile) (a n : Nat) : Bool :=
  x.resid.any (fun b => decide (b * 32768 < a + n) && decide (a < (b + 1) * 32768))

/-- Everything but the resident blocks of a tile becomes zero with clear marks (R193); `all` takes these too. -/
def Tile.zeroise (x : Tile) (all : Bool) : Tile :=
  let keep := fun c => !all && x.resid.contains (c / 4096)
  { x with
    sp := x.sp.filter (fun e => keep (e.1 / 8))
    poison := x.poison.filter keep
    latent := x.latent.filter (fun e => keep e.1)
    resid := if all then [] else x.resid
    reload := if all then [] else x.reload
    lostGold := if all then [] else x.lostGold }

/-! ### Tickets (R162 to R164) -/

/-- A ticket issued: the 64 latest are kept, and every pending one (R164). -/
def Tickets.issue (k : Tickets) : Tickets :=
  { issued := (k.issued + 1) % 2 ^ 64
    kept := NMap.put (k.kept.filter (fun e => decide (k.issued < e.1 + 63) || decide (e.2 = .pending))) (k.issued + 1) .pending }

/-- A ticket completed with a status and flags. -/
def Tickets.finish (k : Tickets) (n : Nat) (st : Status) (flags : Nat) : Tickets :=
  if (NMap.get? k.kept n).isSome then { k with kept := NMap.put k.kept n (.done st flags) } else k

/-- The pending tickets. -/
def Tickets.pending (k : Tickets) : List Nat := NMap.keysOf k.kept (fun _ v => decide (v = .pending))

/-- Largest n such that tickets 1 to n have all completed (R141). -/
def Tickets.allDone (k : Tickets) : Nat :=
  match k.pending with
  | [] => k.issued
  | n :: _ => n - 1

/-- The status word of a ticket that has been issued (R164); flags are given for the vector engine only. -/
def Tickets.word (k : Tickets) (n : Nat) (vec : Bool) : Nat :=
  if n = 0 then 0x01
  else match NMap.get? k.kept n with
    | some .pending => 0x8000
    | some (.done st fl) => if n + 64 ≤ k.issued then 0x4000 else st.code + (if vec then fl * 256 else 0)
    | none => 0x4000

/-- Whether a ticket has completed. -/
def Tickets.isDone (k : Tickets) (n : Nat) : Bool := decide (NMap.get? k.kept n ≠ some .pending)

/-- Whether a ticket completed with ST_OK. A ticket older than the 64 kept has an expired status, which is not ST_OK. -/
def Tickets.wasOk (k : Tickets) (n : Nat) : Bool :=
  n = 0 || match NMap.get? k.kept n with
    | some (.done st _) => decide (st = .ok)
    | _ => false

/-- Engines: 0 array, 1 vector, 2 DMA (R164). -/
def Tile.tk (x : Tile) (e : Nat) : Tickets := if e = 0 then x.tkA else if e = 1 then x.tkV else x.tkD

/-- The tickets of an engine replaced. -/
def Tile.setTk (x : Tile) (e : Nat) (k : Tickets) : Tile :=
  if e = 0 then { x with tkA := k } else if e = 1 then { x with tkV := k } else { x with tkD := k }

/-- Whether no engine operation of the tile is pending (R144). -/
def Tile.quiet (x : Tile) : Bool := x.tkA.pending.isEmpty && x.tkV.pending.isEmpty && x.tkD.pending.isEmpty

/-! ### The end of an invocation (R144, R165, R166, R295, R414) -/

/-- A work item's state set. -/
def Work.setItem (w : Work) (t : Nat) (i : Item) : Work :=
  { w with items := w.items.map (fun x => if x.tile = t && x.st = .running then { x with st := i } else x) }

/-- Run-ahead work dropped: back to the oldest unresolved branch (R167, R171). -/
def Core.squash (c : Core) : Core :=
  match c.ckpts with
  | [] => c
  | k :: _ => { c with g := k.g, f := k.f, p := k.p, pend := k.pend, pc := k.pc, commits := k.commits,
                       ckpts := [], prov := [] }

/-- The lowest unit whose write is not acknowledged (R215). -/
def Xfer.nextUnit (q : Xfer) : Nat := (q.outst.map (·.idx)).foldl min q.nextIssue

/-- The group bytes that outstanding parts of a compressed group cover. -/
def groupParts (ws : List OutW) (g : Nat) : List OutW := ws.filter (fun w => w.kind = 4 && w.grp = g)

/-- Whether a group is complete (R213). -/
def groupComplete (ws : List OutW) (g : Nat) : Bool :=
  (List.range 24).all (fun i => (List.range 8).all (fun j =>
    (groupParts ws g).any (fun w => decide (w.off ≤ 8 * i + j) && decide (8 * i + j < w.off + w.data.length))))

/-- Outstanding writes that cannot be acknowledged as the transfer stands: parts of incomplete groups, and elements for another
package that no packet carries yet. -/
def Xfer.loose (q : Xfer) : List OutW :=
  q.outst.filter (fun w => (w.kind = 4 && !groupComplete q.outst w.grp) || (w.kind = 3 && w.serial.isNone))

/-- The output bytes of a compress-on-store's blocks below a unit (R216). -/
def Xfer.offsetAt (q : Xfer) (u : Nat) : Nat := ((q.dir.filter (fun e => decide (e.1 < u))).map (fun e => e.2.1 + e.2.2)).foldl max 0

/-- A transfer that stops at a unit or, where a loose write is lower, at that one (R215). Nothing at or above the unit is written:
what is not on its way to another package, nor part of a complete group that begins below, is withdrawn. -/
def Xfer.cut (q : Xfer) (u : Nat) : Xfer :=
  let m := (q.loose.map (·.idx)).foldl min (min u q.nextIssue)
  { q with
    nextIssue := m
    outst := q.outst.filter (fun w => decide (w.idx < m) || (w.kind = 3 && w.serial.isSome) ||
      (w.kind = 4 && (groupParts q.outst w.grp).any (fun v => decide (v.idx < m))))
    staged := []
    dir := q.dir.filter (fun e => decide (e.1 < m))
    outOff := q.offsetAt m }

/-- A transfer that stops where it is: only loose writes are withdrawn. -/
def Xfer.settled (q : Xfer) : Xfer := q.cut q.nextIssue

/-- The order of two failures at one element (R221, R348). -/
def statusRank (st : Status) : Nat :=
  match st with
  | .badCommand => 1 | .permission => 2 | .translationFault => 3 | .noResource => 4 | .targetReset => 5 | .targetOff => 5
  | .poisoned => 6 | .formatFault => 7 | .cancelled => 8 | _ => 9

/-- Whether an ending condition at a unit comes before the one the transfer has met: the first in element order, at one element the
first in the table of R221. -/
def Xfer.precedes (q : Xfer) (u : Nat) (st : Status) : Bool :=
  match q.ended with
  | none => true
  | some old => decide (u < q.endAt) || (u = q.endAt && decide (statusRank st < statusRank old))

/-- An ending condition taken, with the fields of the progress record (R216, R221). -/
def Xfer.fixed (q : Xfer) (u : Nat) (st : Status) (reason va : Nat) (write : Bool) : Xfer :=
  if q.precedes u st then { q with ended := some st, endAt := u, reason := reason, faultVa := va, access := write } else q

/-- An ending condition met at a unit (R217, R221). A transfer that is stopping for a suspension takes no failure: it stops below
the unit and meets the failure again when it resumes. -/
def Xfer.failAt (q : Xfer) (u : Nat) (st : Status) (va : Nat) (write : Bool) : Xfer :=
  if q.st = .stopping then q.cut u else { (q.fixed u st 5 va write).cut u with st := .ending }

/-- A transfer aborted at its next restartable point (R216, R217, R220). One that is stopping for a suspension, or suspended, ends
from Suspended. -/
def Xfer.abort (q : Xfer) (st : Status) : Xfer :=
  let q := q.settled
  let q := q.fixed q.nextIssue st 4 0 false
  if q.st = .stopping || q.st = .suspended then q else { q with st := .ending }

/-- Transfers of a tile told to end with a status at the next restartable point (R217, R220): those with no write
outstanding end now, the others when their last write is acknowledged. -/
def Tile.stopXfers (x : Tile) (p : Xfer → Bool) (st : Status) : Tile :=
  let go := fun (q : Xfer) => p q && q.st != .done
  let xs := x.xfers.map (fun q => if go q then q.abort st else q)
  let now := fun (q : Xfer) => go q && q.outst.isEmpty
  { x with
    tkD := (xs.filter now).foldl (fun k q => k.finish q.ticket (q.ended.getD st) 0) x.tkD
    xfers := xs.filter (fun q => !now q) }

/-- A core told to end its invocation with a status. -/
def Core.endWith (c : Core) (st : Status) (cause detail : Nat) : Core :=
  match c.run with
  | .idle => c
  | .ending .. => c
  | _ => { c.squash with run := .ending st cause c.squash.pc detail, frozen := false }

/-- The invocation on a tile ends: every work item it has taken holds its status and result: g1 at a HALT (R144),
the status code where the steward ends it (R301). -/
def State.endItem (s : State) (t : Nat) (st : Status) (result : Nat) : State :=
  let s := s.modCore t (fun c => { c with run := .idle, work := none, pend := [], ckpts := [], prov := [] })
  { s with works := NMap.mapv s.works (fun _ w => w.setItem t (.ended st result)) }

/-- A tile's core that only waits for its engines ends its invocation once they are quiet. -/
def State.settleOne (s : State) (t : Nat) : State :=
  let x := s.tile t
  if !x.quiet then s
  else match x.core.run with
    | .halting =>
      if x.core.poisonSeen then s.endItem t .poisoned (NMap.get 0 x.core.g 1) else s.endItem t .ok (NMap.get 0 x.core.g 1)
    | .ending st cause pc detail =>
      let s := if cause = 0 then s else s.raise (s.evTile t 0x30 1 [(24, 1, cause), (25, 1, st.code), (28, 4, pc),
        (32, 8, detail)])
      s.endItem t st st.code
    | _ => s

/-- A work item told to end with ST_CANCELLED at its next restartable point (R295). -/
def State.cancelTile (s : State) (t : Nat) : State :=
  let s := s.modTile t (fun x =>
    { x with core := x.core.endWith .cancelled 0 0 }.stopXfers (fun _ => true) .cancelled)
  s.settleOne t

/-- The other work items of a command end with ST_CANCELLED when one has ended with another status (R295). -/
def State.cancelOthers (s : State) (n : Nat) : State :=
  match NMap.get? s.works n with
  | none => s
  | some w =>
    if w.items.any (fun i => match i.st with | .ended st _ => decide (st ≠ .ok) | _ => false) then
      let run := (w.items.filter (fun i => i.st = .running)).map (·.tile)
      let s := s.modWork n (fun w => { w with items := w.items.map (fun i =>
        if i.st = .ready then { i with st := .ended .cancelled 1 } else i) })
      run.foldl State.cancelTile s
    else s

/-- The work commands with an item on a tile. -/
def State.worksOn (s : State) (t : Nat) : List Nat := NMap.keysOf s.works (fun _ w => w.items.any (fun i => i.tile = t))

/-- A core whose engines may have become quiet: its invocation ends if it was waiting, with the effect on the other work
items of its commands. -/
def State.settle (s : State) (t : Nat) : State := (s.worksOn t).foldl State.cancelOthers (s.settleOne t)

/-- An engine operation completes: its ticket's status, the sticky flags (R136) and what waits for it (R144, R414). -/
def State.complete (s : State) (t e n : Nat) (st : Status) (flags : Nat) : State :=
  let s := s.modTile t (fun x =>
    let x := x.setTk e ((x.tk e).finish n st flags)
    { x with core := { x.core with sticky := x.core.sticky ||| flags,
                                   poisonSeen := x.core.poisonSeen || decide (st = .poisoned) } })
  s.settle t

end Sys2Proof.Machine
end

