-- ==== Sys2Proof/Machine/Mem.lean ====
section
/-! DEFINITION. The physical memories behind the scratchpad (16): the device physical map (R195), the region map (R460), HBM
units with their check code, poison marks and keys (R328 to R334, R341, R442), the far tier (R337 to R339), host memory as
the BT4 has written it, compressed regions (R342 to R345). -/

namespace Sys2Proof.Machine

/-! ### The device physical map (R195) -/

def hbmBase : Nat := 0x10000000000
def hbmSize : Nat := 0x6000000000
/-- Bytes of a stack, 24 GiB (R328). -/
def stackSize : Nat := 0x600000000
def farBase : Nat := 0x20000000000
/-- Bytes of the physical map that a far-tier port serves at most (R338). -/
def farSpan : Nat := 0x20000000000
def hostBase : Nat := 0x100000000000

/-- What a device physical address names. -/
inductive Zone where
  | sp (t off : Nat)
  | hbm (k : Nat)
  | far (p : Nat)
  | host (h : Nat)
  | hole
  deriving DecidableEq, Repr, Inhabited

/-- The bytes that a port serves (R337, R338). -/
def Far.capacity (f : Far) : Nat := f.units * 2 ^ 28

/-- A port that has enumerated what is attached to it: a single logical Type 3 device with volatile capacity on a link of x1, x2, x4 or
x8 is taken, at most 2 TiB of it; anything else is as an empty port (R337, R338). -/
def portWith (d : FarDev) : Far :=
  if d.kind = 1 && decide (0 < d.mem.units) && [1, 2, 4, 8].contains d.mem.width then
    { units := min d.mem.units 8192, width := d.mem.width, failed := false, enabled := true, present := true }
  else { units := 0, width := 0, failed := false, enabled := true, present := false }

/-- The zone of a physical address (R195, R328, R338). -/
def State.zone (s : State) (pa : Nat) : Zone :=
  if pa < 0x200000000 then
    if pa % 0x2000000 < spSize then .sp (pa / 0x2000000) (pa % 0x2000000) else .hole
  else if hbmBase ≤ pa ∧ pa < hbmBase + hbmSize then .hbm ((pa - hbmBase) / stackSize)
  else if farBase ≤ pa ∧ pa < farBase + 2 * farSpan then
    if (pa - farBase) % farSpan < (s.far ((pa - farBase) / farSpan)).capacity then
      .far ((pa - farBase) / farSpan) else .hole
  else if hostBase ≤ pa ∧ pa < 2 * hostBase then .host (pa - hostBase)
  else .hole

/-- Whether an address lies in the HBM or far-tier ranges of the map. -/
def inTiers (pa : Nat) : Bool :=
  (decide (hbmBase ≤ pa) && decide (pa < hbmBase + hbmSize)) ||
  (decide (farBase ≤ pa) && decide (pa < farBase + 2 * farSpan))

/-- The stack of an HBM address. -/
def stackOf (pa : Nat) : Nat := (pa - hbmBase) / stackSize

/-- The pseudo-channel, of a stack's 32, that holds the byte at an HBM address (R328). -/
def pseudoChannel (pa : Nat) : Nat := (pa - hbmBase) % stackSize / 256 % 32

/-- The unit of a stack, in address order, that is unit `u` of its pseudo-channel `c`: four follow one another in each (R328). -/
def channelUnit (c u : Nat) : Nat := (u / 4 * 32 + c) * 4 + u % 4

/-! ### The region map (R460) -/

/-- The region entries of the active set. -/
def State.regions (s : State) : List Region :=
  match s.cfg.active with
  | some c => c.regions
  | none => []

def Region.size (r : Region) : Nat := r.units * 0x200000

def Region.holds (r : Region) (pa : Nat) : Bool := decide (r.base ≤ pa) && decide (pa < r.base + r.size)

/-- The region entry that covers an address. -/
def State.regionAt (s : State) (pa : Nat) : Option Region := s.regions.find? (fun r => r.holds pa)

/-- The stored bytes that a range of a region's view stands for: two thirds of them in a compressed region, each group's 128 shared
among its bytes by their place (R342, R345, R468; assumption log entry 167). -/
def State.stored (s : State) (pa n : Nat) : Nat :=
  match s.regionAt pa with
  | some r => if r.compressed then (pa - r.base + n) * 2 / 3 - (pa - r.base) * 2 / 3 else n
  | none => n

/-- Bytes counted at the HBM stack or far-tier port that an address lies behind (R468). -/
def State.countTier (s : State) (pa n : Nat) (write : Bool) : State :=
  let w := if write then 8 else 0
  match s.zone pa with
  | .hbm k => s.count (0x304100 + 16 * k + w) n
  | .far p => s.count (0x304200 + 16 * p + w) n
  | _ => s

/-- The reduction area of a stack: its kind 3 entry, by default its top 64 MiB (R348, R460). -/
def State.redArea (s : State) (k : Nat) : Nat × Nat :=
  match s.regions.find? (fun r => r.kind = 3 && stackOf r.base = k) with
  | some r => (r.base, r.size)
  | none => (hbmBase + (k + 1) * stackSize - 0x4000000, 0x4000000)

/-- The kind of region an address lies in, default reduction areas included. -/
def State.kindAt (s : State) (pa : Nat) : Option Nat :=
  match s.regionAt pa with
  | some r => some r.kind
  | none =>
    let a := s.redArea (stackOf pa)
    if hbmBase ≤ pa ∧ pa < hbmBase + hbmSize ∧ a.1 ≤ pa ∧ pa < a.1 + a.2 then some 3 else none

/-- The region map gives a context an address: a data region of its partition, or a host-open range bound to it (R201). -/
def State.given (s : State) (c pa : Nat) : Bool :=
  match s.regionAt pa, s.ctx? c with
  | some r, some x => (r.kind = 0 && r.owner = x.part) || (r.kind = 5 && r.owner = c)
  | _, _ => false

/-- Whether an address holds part of a golden copy (R410). -/
def State.isGolden (s : State) (pa : Nat) : Bool :=
  s.models.any (fun e => e.2.blocks.any (fun b => decide (b.2.2 ≤ pa) && decide (pa < b.2.2 + 32768)))

/-- The region kind that an HBM_UNCORRECTABLE record names (R397). -/
def State.evKind (s : State) (pa : Nat) : Nat :=
  if s.isGolden pa then 3
  else match s.kindAt pa with
    | some 1 => 1 | some 2 => 2 | some 3 => 4 | some 4 => 5 | _ => 0

/-! ### KV formats (R264, R265) -/

/-- Lane-rows per key (R264). -/
def Attn.c (a : Attn) : Nat := (a.d + 39) / 40
def Attn.bitsPer (a : Attn) : Nat := if a.k4 then 4 else 8
/-- Slots per lane-row (R84). -/
def Attn.ns (a : Attn) : Nat := (5 * a.bitsPer + 7) / 8
/-- Bytes of the key cells. -/
def Attn.kB (a : Attn) : Nat := 320 * a.h * a.c * a.ns
/-- Bytes of the value cells. -/
def Attn.vB (a : Attn) : Nat := 8 * a.h * a.ns * a.d
def Attn.runBytes (a : Attn) : Nat := 64 * ((a.kB + a.vB + 160 * a.h + 63) / 64)

/-- The page size of a layer: among the powers of two from 4 KiB to 2 MiB that hold a run, the one that wastes least per run,
the smaller among equals (R265). -/
def Attn.page (a : Attn) : Nat :=
  (((List.range 10).map (fun i => 4096 * 2 ^ i)).filter (fun p => decide (a.runBytes ≤ p))).foldl (fun b p =>
    if b = 0 then p
    else if p % a.runBytes * (b / a.runBytes) < b % a.runBytes * (p / a.runBytes) then p else b) 0

/-- Runs a page holds. -/
def Attn.perPage (a : Attn) : Nat := a.page / a.runBytes

/-- The attention layer of a model. -/
def Model.attnOf (m : Model) (layer : Nat) : Option Attn := m.attn.find? (fun a => a.layer = layer)

/-- The key of a run in a map: layer and run number. -/
def runKey (layer r : Nat) : Nat := layer * 2 ^ 26 + r

/-- Whether a run holds a physical address. -/
def Run.holds (r : Run) (bytes pa : Nat) : Bool :=
  match r.pa with
  | some a => decide (a ≤ pa) && decide (pa < a + bytes)
  | none => false

/-- The length of a run of a model's layer, 0 without a KV format. -/
def State.runLen (s : State) (m layer : Nat) : Nat :=
  match (NMap.get? s.models m).bind (fun x => x.attnOf layer) with
  | some a => a.runBytes
  | none => 0

/-- A set of runs of a model that holds an address. -/
def State.runsHold (s : State) (m : Nat) (rs : NMap Run) (pa : Nat) : Bool :=
  rs.any (fun e => e.2.holds (s.runLen m (e.1 / 2 ^ 26)) pa)

/-- An uncorrectable error in the KV pool: prefixes that hold the run are evicted, slots that hold it are poisoned
(R276). -/
def State.kvStruck (s : State) (pa : Nat) : State :=
  if s.kindAt pa ≠ some 2 then s
  else
    let ps := s.prefixes.filter (fun p => !s.runsHold p.model p.runs pa)
    { s with
      prefixes := ps
      seqs := NMap.mapv s.seqs (fun _ q => if q.state != 0 && s.runsHold q.model q.runs pa then { q with state := 6 } else q) }

/-! ### HBM units (R329 to R334) -/

/-- The symbols of its unit that an upset strikes: one of the 32 data symbols or, `double`, a check symbol with it, as many as the
code only detects (R331). An error that the decoder finds in the address counts as such a pair (assumption log entry 170). -/
def symbolsOf (u : Upset) : List Nat := (u.off % 64 / 2) :: (if u.double then [32] else [])

/-- Upsets strike units of the HBM, and the copies of the logic that an access to a unit goes through (R389). -/
def State.strikeHbm (s : State) (us : List Upset) : State :=
  us.foldl (fun s u =>
    let n := (hbmBase + u.off) / 64
    if u.off < hbmSize && (u.path = 4 || u.path = 5) then
      { s with mem := { s.mem with hbmCopies := NMap.put s.mem.hbmCopies n u.path } }
    else if u.off < hbmSize && !s.mem.hbmPoison.contains n then
      let l := NMap.put s.mem.hbmLatent n ((symbolsOf u).foldl insertNat (NMap.get [] s.mem.hbmLatent n))
      { s with mem := { s.mem with hbmLatent := l } }
    else s) s

/-- A unit read by its controller: whether it reads poisoned, with the events of R332. One erroneous symbol is corrected, more are
not (R331). -/
def State.hbmUnit (s : State) (n : Nat) (patrol : Bool) : Bool × State :=
  let pa := n * 64
  let k := stackOf pa
  if !(s.stack k).available then (true, s)
  else if s.mem.hbmPoison.contains n then (true, s.kvStruck pa)
  else match NMap.get? s.mem.hbmLatent n with
    | none => (false, s)
    | some syms =>
      let m := { s.mem with hbmLatent := NMap.del s.mem.hbmLatent n }
      if syms.length ≤ 1 then (false, ({ s with mem := m }).raise (evUnit 3 k 0x03 0 [(24, 8, pa)]))
      else
        let s := { s with mem := { m with hbmPoison := insertNat m.hbmPoison n } }
        (true, (s.raise (evUnit 3 k 0x04 1 [(24, 8, pa), (32, 1, s.evKind pa), (33, 1, if patrol then 1 else 0)])).kvStruck
          pa)

/-- A unit on its way through the two copies of the codec and the cipher: whether they differ, with the event (R389, R397). -/
def State.copiesDiffer (s : State) (n : Nat) : Bool × State :=
  match NMap.get? s.mem.hbmCopies n with
  | none => (false, s)
  | some p =>
    (true, ({ s with mem := { s.mem with hbmCopies := NMap.del s.mem.hbmCopies n } }).raise
      (evUnit 3 (stackOf (n * 64)) 0x26 1 [(24, 1, p), (32, 8, n * 64)]))

/-- The units of a byte range. -/
def unitsOf (pa n : Nat) : List Nat := if n = 0 then [] else List.range' (pa / 64) ((pa + n - 1) / 64 - pa / 64 + 1)

/-- What a read of memory finds: the bytes, whether any of them reads poisoned, whether a compressed group is invalid. -/
structure MemRead where
  bytes : List Byte
  bad : Bool
  fault : Bool
  st : State

/-- Bytes under a key: those of a unit written under another key are unrelated ones, free values (R341), as are the `lost` ones, whose
write failed (R339). -/
def State.decrypt (s : State) (m : List (Nat × Byte)) (keys : NMap Nat) (lost : List Nat) (pa n key : Nat) :
    List Byte × State :=
  let wrong := (unitsOf pa n).filter (fun u => NMap.get 0 keys u ≠ key)
  let gone := lost.filter (fun a => decide (pa ≤ a) && decide (a < pa + n))
  let bs := (List.range n).map (fun i =>
    if wrong.contains ((pa + i) / 64) || gone.contains (pa + i) then BitVec.ofNat 8 (s.fv i) else Bytes.rd1 m (pa + i))
  if wrong.isEmpty && gone.isEmpty then (bs, s) else (bs, s.used n)

/-- Stored bytes of the HBM read under a key (R329, R332); a unit on which the copies differ is delivered poisoned (R389). -/
def State.hbmRead (s : State) (pa n key : Nat) : MemRead :=
  let r := (unitsOf pa n).foldl (fun (r : Bool × State) u =>
    let x := r.2.hbmUnit u false
    let y := x.2.copiesDiffer u
    (r.1 || x.1 || y.1, y.2)) (false, s)
  let d := r.2.decrypt r.2.mem.hbm r.2.mem.hbmKey [] pa n key
  { bytes := d.1, bad := r.1, fault := false, st := d.2 }

/-- Stored bytes of the far tier read under a key; bytes whose write failed are undefined (R339). -/
def State.farRead (s : State) (pa n key : Nat) : MemRead :=
  let d := s.decrypt s.mem.far s.mem.farKey s.mem.farLost pa n key
  { bytes := d.1, bad := (unitsOf pa n).any (fun u => s.mem.farPoison.contains u), fault := false, st := d.2 }

/-- A unit about to be written in part: read, decrypted and encrypted again under the key of the write (R212). -/
def State.hbmMerge (s : State) (u key : Nat) : State :=
  let s := (s.hbmUnit u false).2
  let d := s.decrypt s.mem.hbm s.mem.hbmKey [] (u * 64) 64 key
  { d.2 with mem := { d.2.mem with hbm := Bytes.wr d.2.mem.hbm (u * 64) d.1 } }

/-- The same for a unit of the far tier. -/
def State.farMerge (s : State) (u key : Nat) : State :=
  let d := s.decrypt s.mem.far s.mem.farKey s.mem.farLost (u * 64) 64 key
  { d.2 with mem := { d.2.mem with far := Bytes.wr d.2.mem.far (u * 64) d.1 } }

/-- Whether a write covers a unit. -/
def covers (pa n u : Nat) : Bool := decide (pa ≤ u * 64) && decide (u * 64 + 64 ≤ pa + n)

/-- The marks after a write: a whole unit loses its mark, a unit written in part keeps it, poisoned data marks all. -/
def marksAfter (marks : List Nat) (pa n : Nat) (poison : Bool) : List Nat :=
  let kept := marks.filter (fun u => !(covers pa n u))
  if poison then (unitsOf pa n).foldl insertNat kept else kept

/-- Bytes written to the HBM under a key (R212, R329, R332); a unit on which the copies differ is written poisoned (R389). -/
def State.hbmWrite (s : State) (pa : Nat) (bs : List Byte) (key : Nat) (poison : Bool) : State :=
  let us := unitsOf pa bs.length
  let s := (us.filter (fun u => !covers pa bs.length u)).foldl (fun s u => s.hbmMerge u key) s
  let apart := us.filter (fun u => (s.copiesDiffer u).1)
  let s := us.foldl (fun s u => (s.copiesDiffer u).2) s
  let m := { s.mem with
    hbm := Bytes.wr s.mem.hbm pa bs
    hbmKey := us.foldl (fun m u => NMap.set 0 m u key) s.mem.hbmKey
    hbmLatent := s.mem.hbmLatent.filter (fun e => !covers pa bs.length e.1)
    hbmPoison := apart.foldl insertNat (marksAfter s.mem.hbmPoison pa bs.length poison) }
  { s with mem := m }

/-- Bytes written to the far tier under a key (R339). -/
def State.farWrite (s : State) (pa : Nat) (bs : List Byte) (key : Nat) (poison : Bool) : State :=
  let us := unitsOf pa bs.length
  let s := (us.filter (fun u => !covers pa bs.length u)).foldl (fun s u => s.farMerge u key) s
  let m := { s.mem with
    far := Bytes.wr s.mem.far pa bs
    farKey := us.foldl (fun m u => NMap.set 0 m u key) s.mem.farKey
    farLost := s.mem.farLost.filter (fun a => !us.contains (a / 64))
    farPoison := marksAfter s.mem.farPoison pa bs.length poison }
  { s with mem := m }

/-- Bytes written to host memory, by host physical address; the poison indication goes with them (R214). -/
def State.hostWrite (s : State) (h : Nat) (bs : List Byte) (poison : Bool) : State :=
  let as := List.range' h bs.length
  let kept := s.mem.hostPoison.filter (fun a => !as.contains a)
  let m := { s.mem with
    host := Bytes.wr s.mem.host h bs
    hostPoison := if poison then as.foldl insertNat kept else kept }
  let c := s.port.cache.filter (fun l => !(as.any (fun a => a / 64 = l)))
  { s with mem := m, port := { s.port with cache := c } }

/-- A line of host memory kept clean in the device cache of 32,768 lines; which line makes room is a free value (R360). -/
def State.cacheLine (s : State) (l : Nat) : State :=
  let c := s.port.cache
  if c.contains l then s
  else if c.length < 32768 then { s with port := { s.port with cache := insertNat c l } }
  else { s.used 1 with port := { s.port with cache := insertNat (c.eraseIdx (s.fv 0 % c.length)) l } }

/-- A write to an unavailable stack discarded: it counts in the stack's HBM_STACK_UNAVAILABLE record (R359, R397). -/
def State.hbmDiscard (s : State) (k : Nat) : State :=
  let n := (s.stack k).discarded + 1
  let s := s.modStack k (fun x => { x with discarded := n })
  let recs := NMap.mapv s.log.recs (fun _ e =>
    if e.type = 0x06 && e.index = k then
      { e with detail := e.detail.filter (fun d => d.1 ≠ 28) ++ [(28, 4, n % 2 ^ 32)] } else e)
  { s with log := { s.log with recs := recs } }

/-! ### Compressed regions (R342 to R345) -/

/-- The offsets of a table set: set 0 is built in, an absent set equals it (R54, R343, R460). -/
def State.tset (s : State) (n i : Nat) : Nat :=
  match s.cfg.active with
  | some c => if n = 0 || c.tsets.isEmpty then i % 4 else NMap.get 0 c.tsets ((n - 1) * 256 + i)
  | none => i % 4

/-- A group's 192 bytes as its region shows them, with whether a cell reads poisoned and whether the group is valid. -/
def State.groupRead (s : State) (r : Region) (g key : Nat) : MemRead :=
  let pa := r.base + 128 * g
  let m := if r.base < farBase then s.hbmRead pa 128 key else s.farRead pa 128 key
  match decodeGroup m.bytes (s.tset r.tset) with
  | some ws => { m with bytes := ws.flatMap (fun w => leBytes 2 w) }
  | none => { m with bytes := List.replicate 192 0, fault := true }

/-- Bytes read at a physical address of HBM or the far tier, through its region (R212, R345). -/
def State.tierRead (s : State) (pa n key : Nat) : MemRead :=
  match s.regionAt pa with
  | some r =>
    if r.compressed then
      let g0 := (pa - r.base) / 192
      let gs := List.range' g0 ((pa - r.base + n - 1) / 192 - g0 + 1)
      let m := gs.foldl (fun (m : MemRead) g =>
        let x := m.st.groupRead r g key
        { bytes := m.bytes ++ x.bytes, bad := m.bad || x.bad, fault := m.fault || x.fault, st := x.st })
        { bytes := [], bad := false, fault := false, st := s }
      { m with bytes := (m.bytes.drop ((pa - r.base) % 192)).take n }
    else if pa < farBase then s.hbmRead pa n key else s.farRead pa n key
  | none => if pa < farBase then s.hbmRead pa n key else s.farRead pa n key

/-- Bytes written at a physical address of HBM or the far tier outside compressed regions. -/
def State.tierWrite (s : State) (pa : Nat) (bs : List Byte) (key : Nat) (poison : Bool) : State :=
  if pa < farBase then s.hbmWrite pa bs key poison else s.farWrite pa bs key poison

/-- The codes of a table entry other than the zero code, by value: (value as bf16 bits, code), lowest selector first. -/
def groupCodes (base : Nat) (off : Nat → Nat) : List (Nat × Nat) :=
  (List.range 1023).map (fun w => (decodeWeight base off w, w))

/-- The magnitude of a finite bf16 value in units of 2^-133. -/
def bfMag (x : Nat) : Nat :=
  let e := x / 128 % 256
  let f := x % 128
  if e = 0 then f else (128 + f) * 2 ^ (e - 1)

/-- The value of a finite bf16 in units of 2^-133. -/
def bfVal (x : Nat) : Int := if bit x 15 then -(bfMag x : Int) else bfMag x

/-- Whether code `a` is the better code for a weight than code `b`: nearer, then of smaller magnitude, then of lower
selector (R344 step 5). -/
def betterCode (x : Nat) (a b : Nat × Nat) : Bool :=
  let d := fun (c : Nat × Nat) => (bfVal x - bfVal c.1).natAbs
  if d a ≠ d b then decide (d a < d b)
  else if bfMag a.1 ≠ bfMag b.1 then decide (bfMag a.1 < bfMag b.1)
  else decide (a.2 % 4 < b.2 % 4)

/-- The code of a weight (R344 step 5). Among codes that the rule does not tell apart (flushed ones of one selector) an open function of
the weight and the table decides. -/
def encodeWeight (base : Nat) (off : Nat → Nat) (x : Nat) : Nat :=
  if bfMag x = 0 then 0x3FF
  else
    let cs := groupCodes base off
    let best := cs.foldl (fun b c => if betterCode x c b then c else b) (cs.headD (0, 0x3FF))
    let eq := cs.filter (fun c => !betterCode x best c)
    (eq.getD (Config.zeroCode (base :: (List.range 4).map off) x % eq.length) best).2

/-- A group encoded, or none when a weight has exponent field 255 (R344). -/
def encodeGroup (ws : List Nat) (tab : Nat → Nat) : Option (List Byte) :=
  let ex := fun (x : Nat) => x / 128 % 256
  if ws.any (fun x => ex x = 255) then none
  else
    let base := (ws.map ex).foldl max 0
    let covered := fun (t e : Nat) => (List.range 4).any (fun j =>
      decide (tab (4 * t + j) < base) && decide (base - tab (4 * t + j) ≤ 254) && e = base - tab (4 * t + j))
    let miss := fun (t : Nat) => (ws.filter (fun x => bfMag x ≠ 0 && !covered t (ex x))).length
    let t := (List.range 64).foldl (fun b t => if miss t < miss b then t else b) 0
    let off := fun j => tab (4 * t + j)
    let v := base + 256 * t + 2 ^ 64 * (ws.zipIdx.map (fun e => encodeWeight base off e.1 * 2 ^ (10 * e.2))).sum
    some (leBytes 128 v)

/-- A complete group written: false when it does not encode (R213, R344). -/
def State.groupWrite (s : State) (r : Region) (g : Nat) (bs : List Byte) (key : Nat) (poison : Bool) : Bool × State :=
  match encodeGroup ((List.range 96).map (fun i => leAt bs (2 * i) 2)) (s.tset r.tset) with
  | none => (false, s)
  | some e => (true, s.tierWrite (r.base + 128 * g) e key poison)

end Sys2Proof.Machine
end

