-- ==== Sys2Proof/Machine/Operands.lean ====
section
/-! DEFINITION. Operands of the tile core (08): registers and pending results (R140, R168), the words of the scalar
formats (R146), descriptor tables (R153), CSR numbers (R141), trace records of commits (R472). -/

namespace Sys2Proof.Machine

/-! ### Registers (R140) -/

/-- A g register as it stands; g0 reads 0. -/
def Core.rg (c : Core) (i : Nat) : Nat := if i = 0 then 0 else NMap.get 0 c.g i

/-- An f register as it stands. -/
def Core.rf (c : Core) (i : Nat) : Nat := NMap.get 0 c.f i

/-- A predicate as it stands; p0 reads 1. -/
def Core.rp (c : Core) (i : Nat) : Bool := if i = 0 then true else bit c.p i

/-- A register as it stands, as a number. -/
def Core.rd (c : Core) : Dst → Nat
  | .g i => c.rg i
  | .f i => c.rf i
  | .p i => if c.rp i then 1 else 0

/-- A register written; writes to g0 and p0 are discarded. -/
def Core.wr (c : Core) (d : Dst) (v : Nat) : Core :=
  match d with
  | .g i => if i = 0 then c else { c with g := NMap.set 0 c.g i (v % 2 ^ 64) }
  | .f i => { c with f := NMap.set 0 c.f i (v % 2 ^ 32) }
  | .p i => if i = 0 then c else
      { c with p := (if bit c.p i then c.p - 2 ^ i else c.p) + (if v % 2 = 1 then 2 ^ i else 0) }

/-- Whether a write to a register is discarded (R140). -/
def dstFixed : Dst → Bool
  | .g i => decide (i = 0)
  | .p i => decide (i = 0)
  | .f _ => false

/-- Whether a register is pending (R168). -/
def Core.isPending (c : Core) (d : Dst) : Bool := c.pend.any (fun e => decide (e.dst = d))

/-- The value a register holds or will hold. -/
def Core.peek (c : Core) (d : Dst) : Nat :=
  match c.pend.find? (fun e => decide (e.dst = d)) with
  | some e => e.val
  | none => c.rd d

/-- The registers a late value waits for when the write it waited for of `d`, which waited for `old`, has been overwritten. -/
def waitsThrough (d : Dst) (old ds : List Dst) : List Dst :=
  if ds.contains d then ds.filter (fun x => decide (x ≠ d)) ++ old.filter (fun x => !ds.contains x) else ds

/-- A result on its way or written: `late` leaves it pending, and so do pending operands (R168). What waited for a value of the
same register that was still on its way waits for what that value waited for. -/
def Core.result (c : Core) (late : Bool) (deps : List Dst) (d : Dst) (v : Nat) : Core :=
  let old := ((c.pend.find? (fun e => decide (e.dst = d))).map (·.deps)).getD []
  let c := { c with pend := (c.pend.filter (fun e => decide (e.dst ≠ d))).map (fun e =>
    { e with deps := waitsThrough d old e.deps }) }
  if dstFixed d then c
  else if late || !deps.isEmpty then { c with pend := c.pend ++ [{ dst := d, val := v, deps := waitsThrough d old deps }] }
  else c.wr d v

/-- Values arrive, first those listed; a result that waited only for them is then computed (R168). `w` writes a value. On
fuel for the chain of waiting results. -/
def deliverF : Nat → List Dst → List Pend → Core → List Pend × Core
  | 0, _, ps, c => (ps, c)
  | _ + 1, [], ps, c => (ps, c)
  | n + 1, d :: ds, ps, c =>
    match ps.find? (fun e => decide (e.dst = d) && e.deps.isEmpty) with
    | none => deliverF n ds ps c
    | some e =>
      let ps := ps.filter (fun x => decide (x.dst ≠ d))
      let woken := (ps.filter (fun x => decide (x.deps = [d]))).map (·.dst)
      deliverF n (ds ++ woken) (ps.map (fun x => { x with deps := x.deps.filter (fun y => decide (y ≠ d)) })) (c.wr d e.val)

/-- Delivery into a core: its registers and the registers its unresolved branches hold. -/
def Core.deliver (c : Core) (d : Dst) : Core :=
  let r := deliverF 64 [d] c.pend c
  let cks := c.ckpts.map (fun k =>
    let r := deliverF 64 [d] k.pend { c with g := k.g, f := k.f, p := k.p }
    { k with g := r.2.g, f := r.2.f, p := r.2.p, pend := r.1 })
  { r.2 with pend := r.1, ckpts := cks }

/-! ### Scalar words (R146) -/

/-- A word of format RR. -/
def wordRR (major : Nat) (rd ra rb rc fn : BitVec 5) : Nat :=
  ((((rd.toNat * 32 + ra.toNat) * 32 + rb.toNat) * 32 + rc.toNat) * 32 + fn.toNat) * 128 + major

/-- A word of format RI. -/
def wordRI (major : Nat) (rd ra : BitVec 5) (imm : BitVec 15) : Nat :=
  ((rd.toNat * 32 + ra.toNat) * 32768 + imm.toNat) * 128 + major

/-- A word of format LI. -/
def wordLI (major : Nat) (rd : BitVec 5) (imm : BitVec 20) : Nat := (rd.toNat * 2 ^ 20 + imm.toNat) * 128 + major

/-- A word of format M. -/
def wordM (major : Nat) (rd ra : BitVec 5) (imm : BitVec 12) (sz : BitVec 3) : Nat :=
  (((rd.toNat * 32 + ra.toNat) * 4096 + imm.toNat) * 8 + sz.toNat) * 128 + major

/-- A word of format B. -/
def wordB (major : Nat) (pred : BitVec 3) (neg hint : Bool) (disp : BitVec 20) : Nat :=
  (((pred.toNat * 2 + neg.toNat) * 2 + hint.toNat) * 2 ^ 20 + disp.toNat) * 128 + major

/-- The 32-bit word of the instruction store at a pc (R172). -/
def Core.iword (c : Core) (pc : Nat) : Nat := Bytes.le c.istore pc 4

/-! ### Slots of a bundle (R155, R160) -/

def bnHeader (v : Nat) : Nat := bits v 0 16
def bnArray (v : Nat) : Nat := bits v 16 64
def bnVector (v : Nat) : Nat := bits v 80 64
def bnDma (v : Nat) : Nat := bits v 144 48
def bnSync (v : Nat) : Nat := bits v 192 32
def bnScalar (v : Nat) : Nat := bits v 224 32
def hasArray (v : Nat) : Bool := bit v 8
def hasVector (v : Nat) : Bool := bit v 9
def hasDma (v : Nat) : Bool := bit v 10
def hasSync (v : Nat) : Bool := bit v 11
def hasScalar (v : Nat) : Bool := bit v 12

def syKind (w : Nat) : Nat := bits w 29 3
def syMask (w : Nat) : Nat := bits w 26 3
def syAll (w : Nat) : Bool := bit w 25
def syGa (w : Nat) : Nat := bits w 20 5
def syGb (w : Nat) : Nat := bits w 15 5
def syPd (w : Nat) : Nat := bits w 12 3
def syPdEn (w : Nat) : Bool := bit w 11
def syLim (w : Nat) : Nat := bits w 5 6

/-- The engine a one-ticket wait names. -/
def syEngine (w : Nat) : Nat := if syMask w = 1 then 0 else if syMask w = 2 then 1 else 2

/-! ### Descriptor tables (R153, R154) -/

/-- The bits a table's layout names rsv, by fn (R76 with R93, R108, R126, R122, R234, R227). -/
def descRsv (fn : Nat) : Nat :=
  let fld := fun (lo n : Nat) => (2 ^ n - 1) * 2 ^ lo
  match fn with
  | 0 => fld 48 16 + fld 25 7 + fld 112 6 + fld 89 7
  | 1 => fld 121 7 + fld 89 7 + fld 25 23
  | 2 => fld 104 24 + fld 48 38 + fld 25 7
  | 3 => fld 32 3
  | 4 => fld 122 6 + fld 0 43
  | 5 => fld 114 14 + fld 25 64
  | _ => 0

/-- A descriptor table of a tile, by fn. -/
def Tile.desc (x : Tile) (fn : Nat) : NMap Nat :=
  match fn with
  | 0 => x.act | 1 => x.drain | 2 => x.vdesc | 3 => x.chain | 4 => x.patch | _ => x.sparse

/-- A descriptor table with an entry written. -/
def Tile.setDesc (x : Tile) (fn i v : Nat) : Tile :=
  match fn with
  | 0 => { x with act := NMap.set 0 x.act i v }
  | 1 => { x with drain := NMap.set 0 x.drain i v }
  | 2 => { x with vdesc := NMap.set 0 x.vdesc i v }
  | 3 => { x with chain := NMap.set 0 x.chain i v }
  | 4 => { x with patch := NMap.set 0 x.patch i v }
  | _ => { x with sparse := NMap.set 0 x.sparse i v }

/-- The stream id of a tile's stream (R58, R59). -/
def State.sid (s : State) (t j : Nat) : Nat := ((s.tile t).ctx.getD 0) * 16384 + t * 64 + j

/-! ### Vector slots, stages and stream descriptors (R120, R122, R126) -/

def vKind (w : Nat) : Nat := bits w 62 2
def vChain (w : Nat) : Nat := bits w 57 5
/-- Elements: count + 1. -/
def vCount (w : Nat) : Nat := bits w 41 16 + 1
/-- Segment length: seg_len + 1. -/
def vSeg (w : Nat) : Nat := bits w 29 12 + 1
/-- Descriptor index of input k. -/
def vIn (w k : Nat) : Nat := bits w (13 + 4 * k) 4
/-- Descriptor index of sink k. -/
def vOut (w k : Nat) : Nat := if k = 0 then bits w 9 4 else bits w 5 4
def vSlot (w : Nat) : Nat := bits w 60 2
def vAddr (w : Nat) : Nat := bits w 35 25
def sgOp (g : Nat) : Nat := bits g 59 5
def sgA (g : Nat) : Nat := bits g 56 3
def sgB (g : Nat) : Nat := bits g 53 3
def sgC (g : Nat) : Nat := bits g 50 3
def sgSub (g : Nat) : Nat := bits g 46 4
def sgRound (g : Nat) : Nat := bits g 44 2
def sgStream (g : Nat) : Nat := bits g 38 6
def sgSave (g : Nat) : Bool := bit g 37
def sgSink (g : Nat) : Nat := bits g 35 2
def sgImm (g : Nat) : Nat := bits g 0 32
def sgListLen (g : Nat) : Nat := bits g 25 7
def sgListAt (g : Nat) : Nat := bits g 0 25
def vdEref (d : Nat) : Nat := bits d 96 8
def vdMask (d : Nat) : Nat := bits d 92 4
def vdSource (d : Nat) : Nat := bits d 90 2
def vdPerSeg (d : Nat) : Bool := bit d 89
def vdFormat (d : Nat) : Nat := bits d 86 3
def vdStride (d : Nat) : Nat := bits d 32 16
def vdBase (d : Nat) : Nat := bits d 0 25

/-- The stages a chain runs: those before its first END (R122). -/
def stagesOf (chain : List Nat) : List Nat := chain.takeWhile (fun g => decide (sgOp g ≠ 0))

/-- The stream the run of a chain draws from, if a stage of it rounds stochastically (R123, R125). -/
def chainStream (st : List Nat) : Option Nat :=
  (st.find? (fun g => decide (sgOp g = 9) && decide (sgRound g = 1))).map sgStream

/-! ### Instruction trace (R471 to R473) -/

/-- The ring is full when tail + 1 equals head, modulo its record count. -/
def Trace.full (t : Trace) : Bool := decide ((t.tail + 1) % (t.size / 32) = t.head % (t.size / 32))

/-- A record of the instruction trace (R472): kind 1 SYNC, 2 FLOW, 3 EXC, 4 LOST. -/
structure TraceRec where
  kind : Nat
  source : Nat
  b3 : Nat
  pc : Nat
  words : List Nat
  deriving DecidableEq, Repr, Inhabited

/-- The 32 bytes of a record. -/
def TraceRec.bytes (r : TraceRec) : List Byte :=
  leBytes 1 r.kind ++ leBytes 2 r.source ++ leBytes 1 r.b3 ++ leBytes 4 r.pc ++
  (if r.kind = 2 then (List.range 6).flatMap (fun i => leBytes 4 (r.words.getD i 0))
   else (List.range 3).flatMap (fun i => leBytes 8 (r.words.getD i 0)))

/-- A record dropped and counted (R473). -/
def Trace.drop (t : Trace) : Trace := { t with lost := min (t.lost + 1) (2 ^ 32 - 1), lostSince := t.lostSince + 1 }

/-- The trace with tail advanced. -/
def Trace.next (t : Trace) : Trace := { t with tail := (t.tail + 1) % (t.size / 32) }

/-- A record arrives: the trace after it and the records written with their positions; after a loss the next accepted record is
preceded by LOST (R473). -/
def Trace.add (t : Trace) (now : Nat) (r : TraceRec) : Trace × List (Nat × TraceRec) :=
  if t.full then (t.drop, [])
  else if t.lostSince = 0 then (t.next, [(t.tail, r)])
  else
    let l := (t.tail, { kind := 4, source := 0, b3 := 0, pc := 0, words := [t.lostSince, now] })
    let t := { t.next with lostSince := 0 }
    if t.full then (t.drop, [l]) else (t.next, [l, (t.tail, r)])

/-- Whether the cores of a tile are traced (R471). -/
def State.traced (s : State) (t : Nat) : Bool :=
  s.trace.running && !s.trace.steward && decide ((s.tile t).ctx = some s.trace.ctx)

/-- The key of the trace ring: the context's memory key, or the staging key for the steward's trace (R471). -/
def State.traceKey (s : State) : Nat :=
  if s.trace.steward then s.boot.stagingKey else ((s.ctx? s.trace.ctx).map (·.key)).getD 0

/-- A trace record. -/
def State.traceAdd (s : State) (r : TraceRec) : State :=
  let a := s.trace.add s.clk.now r
  a.2.foldl (fun s e => s.tierWrite (s.trace.base + 32 * e.1) e.2.bytes s.traceKey false) { s with trace := a.1 }

/-- The part-filled FLOW record of a core flushed (R472). -/
def State.traceFlush (s : State) (t : Nat) : State :=
  let fl := (s.tile t).core.flow
  if fl.isEmpty then s
  else (s.traceAdd { kind := 2, source := t, b3 := fl.length, pc := 0, words := fl }).modCore t
    (fun c => { c with flow := [] })

/-- A SYNC record of a core (R472). -/
def State.traceSync (s : State) (t : Nat) : State :=
  let s := s.traceFlush t
  let c := (s.tile t).core
  s.traceAdd { kind := 1, source := t, b3 := s.trace.ctx, pc := c.pc, words := [s.clk.now, c.commits] }

/-- One commit of a core, with the target of a taken transfer of control (R472). -/
def State.traceCommit (s : State) (t : Nat) (taken : Option Nat) : State :=
  let s := s.modCore t (fun c => { c with commits := c.commits + 1 })
  if !s.traced t then s
  else
    let s := match taken with
      | some a =>
        let s := s.modCore t (fun c => { c with flow := c.flow ++ [a] })
        if (s.tile t).core.flow.length ≥ 6 then s.traceFlush t else s
      | none => s
    if (s.tile t).core.commits % 1024 = 0 then s.traceSync t else s

/-! ### Exceptions (R165, R166) -/

/-- The status a cause ends the invocation with (R166). -/
def excStatus (cause : Nat) : Status :=
  match cause with
  | 2 => .poisoned | 5 => .permission | 7 => .translationFault | 8 => .poisoned | _ => .badCommand

/-- An exception taken: the core stops at the faulting pc, and the steward ends the invocation once its engine operations
have completed (R165, R166); the trace shows it (R472). -/
def State.except (s : State) (t cause pc detail : Nat) : State :=
  let s := if s.traced t then
    (s.traceFlush t).traceAdd { kind := 3, source := t, b3 := cause, pc := pc, words := [detail, s.clk.now] } else s
  (s.modCore t (fun c => { c with run := .ending (excStatus cause) cause pc detail })).settle t

end Sys2Proof.Machine
end

