-- ==== Sys2Proof/Machine/Array.lean ====
section
/-! DEFINITION. Steps of the ternary array (04, 05, 06): fields of a step operation (R75, R76, R93), tables and lanes
(R65, R67, R87, R94), promotion (R50, R103), tags (R105, R106), check lanes (R80, R81, R90, R98), order (R72, R114). -/

namespace Sys2Proof.Machine

/-! ### Fields of a step operation (R75, R76, R93) -/

def stMode (w : Nat) : Nat := bits w 61 1
def stPlaneN (w : Nat) : Nat := bits w 57 4
def stSlot (w : Nat) : Nat := bits w 53 4
def stBase (w : Nat) : Nat := bits w 41 8
/-- Tokens: token_count + 1. -/
def stCount (w : Nat) : Nat := bits w 33 8 + 1
def stSet (w : Nat) : Nat := bits w 32 1
def stOverwrite (w : Nat) : Bool := bit w 31
/-- Promotion interval: prom_interval + 1. -/
def stInterval (w : Nat) : Nat := bits w 25 6 + 1
def stTag (w : Nat) : Nat := bits w 23 2
/-- G = 2^groups. -/
def stG (w : Nat) : Nat := 2 ^ bits w 21 2
def stOutlier (w : Nat) : Bool := bit w 20
def stCheck (w : Nat) : Bool := bit w 19
def stRetag (w : Nat) : Bool := bit w 18
def stEref (w : Nat) : Nat := bits w 10 8
/-- The kind of an array-slot value: 0 step, 1 load, 2 drain. -/
def arKind (w : Nat) : Nat := bits w 62 2
def adBase (d : Nat) : Nat := bits d 0 25
def adStride (d : Nat) : Nat := bits d 32 16
def adOslot (d : Nat) : Nat := bits d 124 4
def adOcount (d : Nat) : Nat := bits d 118 6
def adOstride (d : Nat) : Nat := bits d 96 16
def adObase (d : Nat) : Nat := bits d 64 25

/-- Slots of a plane block of b bits (R84). -/
def planeSlots (b : Nat) : Nat := (5 * b + 7) / 8

/-- The slots a step operation reads (R72, R86, R94). -/
def stSlots (i : Issue) : List Nat :=
  if stMode i.word = 1 then List.range' (stSlot i.word) (planeSlots (stPlaneN i.word + 1))
  else stSlot i.word :: (if stOutlier i.word then [adOslot i.d0] else [])

/-- The entries a step operation touches (R94). -/
def stEntries (w : Nat) : List Nat := List.range' (stBase w) (if stOutlier w then 2 * stCount w else stCount w)

/-- The slots a load writes (R77, R86). -/
def ldSlots (w : Nat) : List Nat :=
  if stMode w = 1 then List.range' (stSlot w) (planeSlots (stPlaneN w + 1)) else [stSlot w]

/-- The rows a drain reads, in order, with its fold rows (R107). -/
def drBase (w : Nat) : Nat := bits w 53 8
def drCount (w : Nat) : Nat := bits w 45 8 + 1
def drSet (w : Nat) : Nat := bits w 61 1
def drFold (w : Nat) : Bool := bit w 32

/-- The entries a drain has still to read (R114). -/
def AOp.unread (o : AOp) : List Nat :=
  let w := o.i.word
  let k := List.range' o.next (drCount w - o.next)
  k.map (fun k => drBase w + k) ++ (if drFold w then k.map (fun k => drBase w + drCount w + k) else [])

/-! ### Slots and rows -/

/-- A slot of the lane weight store. -/
def Tile.slot (x : Tile) (n : Nat) : Slot := NMap.get Slot.reset x.slots n

/-- A slot replaced. -/
def Tile.setSlot (x : Tile) (n : Nat) (v : Slot) : Tile := { x with slots := NMap.set Slot.reset x.slots n v }

/-- Byte `k` of lane `l` of a slot: 121 where none is listed (R64). -/
def Slot.byte (v : Slot) (l k : Nat) : Nat := NMap.get 121 v.bytes (8 * l + k)

/-- A row of a set (0 A, 1 B). -/
def Tile.row (x : Tile) (set e : Nat) : Row := NMap.get Row.reset (if set = 0 then x.accA else x.accB) e

/-- A row replaced. -/
def Tile.setRow (x : Tile) (set e : Nat) (r : Row) : Tile :=
  if set = 0 then { x with accA := NMap.set Row.reset x.accA e r } else { x with accB := NMap.set Row.reset x.accB e r }

/-- A row changed. -/
def Tile.modRow (x : Tile) (set e : Nat) (f : Row → Row) : Tile := x.setRow set e (f (x.row set e))

/-- Lane values as data: lanes of value 0 are not listed. -/
def lanes (f : Nat → Int) : NMap Int := NMap.tab 0 0 1024 f

/-- Add lane values into acc32 with saturation (R50, R51). -/
def Row.addSat (r : Row) (f : Nat → Int) : Row :=
  let v := fun l => NMap.get 0 r.acc32 l + f l
  { r with acc32 := lanes (fun l => sat32 (v l))
           sat := r.sat || (List.range 1024).any (fun l => decide (sat32 (v l) ≠ v l)) }

/-- Promotion (R49, R50, R103, R104). -/
def Row.promote (r : Row) : Row := { r.addSat (fun l => NMap.get 0 r.acc20 l) with acc20 := [], ctr := 0 }

/-- A step result added into acc20, with the counter and the interval (R67, R103). -/
def Row.step (r : Row) (y : Nat → Int) (interval : Nat) : Row :=
  let r := { r with acc20 := lanes (fun l => NMap.get 0 r.acc20 l + y l), ctr := r.ctr + 1 }
  if r.ctr ≥ interval then r.promote else r

/-- An entry made ready for an operation's first step on it: reset (R102) or converted (R106). -/
def Row.prepare (r : Row) (overwrite : Bool) (tag planeN : Nat) : Row :=
  if overwrite then { Row.reset with tag := tag, planeN := planeN }
  else if r.tag ≠ tag ∨ r.planeN ≠ planeN then { r.promote with tag := tag, planeN := planeN }
  else r

/-- The tag and plane_n an operation writes (R51, R75, R88). -/
def stTagOf (w : Nat) : Nat × Nat := if stMode w = 1 then (2, stPlaneN w) else (stTag w, 0)

/-- An issued array operation changed. -/
def Tile.modA (x : Tile) (ticket : Nat) (f : AOp → AOp) : Tile :=
  { x with aops := x.aops.map (fun o => if o.ticket = ticket then f o else o) }

/-! ### Tables and lane results (R65, R67, R87) -/

/-- Entry `idx` of table `k` (R65). -/
def tableEntry (a : Nat → Int) (k idx : Nat) : Int :=
  ((List.range 5).map (fun i => trit (121 + idx) i * a (5 * k + i))).sum

/-- The look-up of a code in table `k` (R65). -/
def lookUp (a : Nat → Int) (k p : Nat) : Int :=
  if p ≥ 121 then tableEntry a k (p - 121) else -tableEntry a k (121 - p)

/-- A lane's trit step result (R67). -/
def tritLane (v : Slot) (a : Nat → Int) (l : Nat) : Int :=
  ((List.range 8).map (fun k => lookUp a k (v.byte l k))).sum

/-- A lane's string of a plane block over its slots (R84). -/
def planeByte (x : Tile) (first l n : Nat) : Nat := (x.slot (first + n / 8)).byte l (n % 8)

/-- Operand `i` of a lane of a plane block of `b` bits: bit `i` of plane `j` is its bit `j` (R84). -/
def planeBit (x : Tile) (first l j i : Nat) : Bool := bit (planeByte x first l (5 * j + i / 8)) (i % 8)

/-- A lane's plane step sum for plane `j` (R87). -/
def planeSum (x : Tile) (first l j : Nat) (a : Nat → Int) : Int :=
  ((List.range 40).map (fun i => if planeBit x first l j i then a i else 0)).sum

/-- A lane's total over the planes, the sign plane subtracted (R87). -/
def planeLane (x : Tile) (first b : Nat) (a : Nat → Int) (l : Nat) : Int :=
  ((List.range b).map (fun j =>
    let y := planeSum x first l j a * (2 ^ j : Nat)
    if j + 1 = b then -y else y)).sum

/-! ### Check lanes (R80, R81, R90, R98) -/

/-- The column sum of a group of lanes, from its eighths (R98). -/
def Slot.colSum (v : Slot) (g gs i : Nat) : Int :=
  ((List.range (8 / gs)).map (fun h => NMap.get 0 v.sums (40 * (g * (8 / gs) + h) + i))).sum

/-- The check value K: bit sums of the column sums as `w`-bit numbers, the top bit negative (R81, R90). -/
def checkK (w : Nat) (c a : Nat → Int) : Int :=
  ((List.range w).map (fun j =>
    let s := ((List.range 40).map (fun i => if bit (wrap w (c i)) j then a i else 0)).sum * (2 ^ j : Nat)
    if j + 1 = w then -s else s)).sum

/-- K and L of every group of a step (R81, R98). -/
def checkKL (w gs : Nat) (v : Slot) (a : Nat → Nat → Int) (y : Nat → Int) : List (Int × Int) :=
  (List.range gs).map (fun g =>
    (checkK w (v.colSum g gs) (a g), ((List.range (1024 / gs)).map (fun l => y (g * (1024 / gs) + l))).sum))

/-- The column sums of a block: C of eighth h and input i at key 40h + i (R80, R98). -/
def colSums (wt : Nat → Nat → Int) : NMap Int :=
  NMap.tab 0 0 320 (fun n => ((List.range 128).map (fun l => wt (128 * (n / 40) + l) (n % 40))).sum)

/-- The weight of a lane and input of a trit slot (R38, R39). -/
def Slot.trit (v : Slot) (l i : Nat) : Int := Sys2Proof.trit (v.byte l (i / 5)) (i % 5)

/-- The physical faults of a step added to lane results (R389, assumption log entry 4). -/
def withErr (errs : List (Nat × Int)) (y : Nat → Int) : Nat → Int :=
  fun l => y l + ((errs.filter (fun e => e.1 = l)).map (·.2)).sum

/-! ### Begin (R63, R72, R73, R89, R94, R100, R105, R114, R223) -/

/-- Whether a step operation must wait: an earlier step operation not done, an earlier load into one of its slots, or an
earlier drain of its set with entries still to read (R72, R114). -/
def stepHeld (before : List AOp) (i : Issue) : Bool :=
  before.any (fun o =>
    match arKind o.i.word with
    | 0 => decide (o.next < stCount o.i.word)
    | 1 => (ldSlots o.i.word).any (fun n => (stSlots i).contains n)
    | _ => decide (drSet o.i.word = stSet i.word) && o.unread.any (fun e => (stEntries i.word).contains e))

/-- The first operation that satisfies a test, with the operations issued before it. -/
def splitOp (p : List AOp → AOp → Bool) : List AOp → List AOp → Option (List AOp × AOp)
  | _, [] => none
  | before, o :: r => if p before o then some (before, o) else splitOp p (before ++ [o]) r

/-- The step operation that may begin. -/
def Tile.nextStep (x : Tile) : Option AOp :=
  (splitOp (fun b o => decide (arKind o.i.word = 0) && !o.begun && !stepHeld b o.i) [] x.aops).map (·.2)

/-- Whether the slots of a plane operation hold its block intact (R89). -/
def Tile.planeOk (x : Tile) (w : Nat) : Bool :=
  let b := stPlaneN w + 1
  (List.range' (stSlot w) (planeSlots b)).all (fun n => match (x.slot n).plane with
    | some p => p.intact && decide (p.first = stSlot w) && decide (p.b = b) && decide (p.eRef = stEref w)
    | none => false)

/-- Whether a step operation fails with ST_FORMAT_FAULT when it begins (R73, R89, R94, R105). -/
def Tile.stepFails (x : Tile) (i : Issue) : Bool :=
  let w := i.word
  let tg := stTagOf w
  (stSlots i).any (fun n => (x.slot n).failed)
    || (if stMode w = 1 then !x.planeOk w
        else (stSlots i).any (fun n => (x.slot n).plane.isSome) || (stOutlier w && decide (adOcount i.d0 > 40)))
    || (!stOverwrite w && !stRetag w &&
        ((List.range (stCount w)).any (fun k =>
            let r := x.row (stSet w) (stBase w + k)
            decide (r.tag ≠ tg.1) || (decide (tg.1 = 2) && decide (r.planeN ≠ tg.2)))
          || (stOutlier w && (List.range (stCount w)).any (fun k =>
            decide ((x.row (stSet w) (stBase w + stCount w + k)).tag ≠ 3)))))

/-- An array operation leaves the array and completes its ticket. -/
def State.endA (s : State) (t ticket : Nat) (st : Status) (flags : Nat) : State :=
  (s.modTile t (fun x => { x with aops := x.aops.filter (fun o => decide (o.ticket ≠ ticket)) })).complete t 0 ticket st
    flags

/-- An operation that has done its steps completes once their comparisons are made (R81, R83). -/
def State.maybeEndStep (s : State) (t : Nat) : State :=
  let x := s.tile t
  match x.aops.find? (fun o => decide (arKind o.i.word = 0) && o.begun && decide (o.next ≥ stCount o.i.word)
      && !x.checks.any (fun c => decide (c.ticket = o.ticket))) with
  | some o => s.endA t o.ticket o.res 0
  | none => s

/-- STEP_OPERATION_BEGIN (R63, R73, R82, R89, R100, R105, R223). -/
def execStepOperationBegin (t : Byte) (s : State) : Host.Outcome State Fault Refusal :=
  let t := t.toNat
  let x := s.tile t
  match x.nextStep with
  | none => .next s
  | some o =>
    let w := o.i.word
    if x.disabled then .next (s.endA t o.ticket .targetOff 0)
    else if x.stepFails o.i then .next (s.endA t o.ticket .formatFault 0)
    else
      let s := if stCheck w then s else { s with power := { s.power with unchecked := true } }
      let skip := decide (stMode w = 0) && (x.slot (stSlot w)).zero
      let tg := stTagOf w
      if skip then
        let x := (List.range (stCount w)).foldl (fun x k =>
          x.modRow (stSet w) (stBase w + k) (fun r => r.prepare (stOverwrite w) tg.1 tg.2)) x
        let x := x.modA o.ticket (fun o =>
          { o with begun := true, skip := true, sub := 1, next := if stOutlier w then 0 else stCount w,
                   poisonRows := List.range' (stBase w) (stCount w) })
        .next ((s.setTile t x).maybeEndStep t)
      else .next (s.setTile t (x.modA o.ticket (fun o => { o with begun := true })))

/-! ### Steps -/

/-- The operation that is stepping. -/
def Tile.stepping (x : Tile) : Option AOp :=
  x.aops.find? (fun o => decide (arKind o.i.word = 0) && o.begun && decide (o.next < stCount o.i.word))

/-- A step operation fails during its steps: the rows it touched are poisoned and no later token is stepped (R79). It completes
once the comparisons of the steps it has done are made (R81). -/
def State.failStep (s : State) (t : Nat) (o : AOp) (st : Status) : State :=
  let set := stSet o.i.word
  (s.modTile t (fun x =>
    let x := o.poisonRows.foldl (fun x e => x.modRow set e (fun r => { r with poison := true })) x
    x.modA o.ticket (fun o => { o with next := stCount o.i.word, sub := 0, res := st }))).maybeEndStep t

/-- Bytes of a vector with the bytes of unreadable cells taken as 0 (R79, R94). -/
def maskBad (a : Nat) (bs : List Byte) (bad : List Nat) : List Byte :=
  (List.range bs.length).map (fun i => if bad.contains ((a + i) / 8) then 0 else bs.getD i 0)

/-- The activations of one vector's bytes: A8, or A4 with whether a code is invalid (R41, R42). -/
def vecVals (a4 : Bool) (bs : List Byte) (i : Nat) : Int :=
  if a4 then sgn 4 (a4Code (fun n => (bs.getD n 0).toNat) i) else sgn 8 ((bs.getD i 0).toNat)

/-- Whether an A4 vector has the invalid code. -/
def a4Bad (bs : List Byte) : Bool := (List.range 40).any (fun i => decide (a4Code (fun n => (bs.getD n 0).toNat) i = 8))

/-- The vectors of one token: bytes of each group, whether a cell reads uncorrectable, or none when a vector leaves the
populated scratchpad (R79, R96). An address that is no multiple of 4 is used as it stands (DESIGN CHOICE, log entry 160). -/
def State.readVectors (s : State) (t base gs size : Nat) : Option (List (List Byte) × Bool × State) :=
  if (List.range gs).all (fun g => inSp (base + g * size) size) then
    some ((List.range gs).foldl (fun (r : List (List Byte) × Bool × State) g =>
      let q := r.2.2.spRead t (base + g * size) size
      (r.1 ++ [maskBad (base + g * size) q.1 q.2.1], r.2.1 || !q.2.1.isEmpty, q.2.2)) ([], false, s))
  else none

/-- A pending comparison of a step with check set. -/
def pendCheck (w ticket entry slot : Nat) (kl : List (Int × Int)) : List Check :=
  if stCheck w then [{ set := stSet w, entry := entry, slot := slot, ticket := ticket, kl := kl }] else []

/-- One step's effect on its row and operation: the row's new value, its comparison, progress, poison (R67, R73, R79). -/
def Tile.applyStep (x : Tile) (o : AOp) (e : Nat) (f : Row → Row) (poison : Bool) (chk : List Check) (next sub : Nat) :
    Tile :=
  let x := x.modRow (stSet o.i.word) e (fun r => let r := f r; { r with poison := r.poison || poison })
  let x := x.modA o.ticket (fun o => { o with next := next, sub := sub, poisonRows := o.poisonRows ++ [e],
                                              res := if poison then .poisoned else o.res })
  { x with checks := x.checks ++ chk }

/-- TRIT_STEP (R67 to R69, R79, R96, R102, R103). -/
def execTritStep (t : Byte) (laneErr : List (Nat × Int)) (upsets : List Upset) (s : State) :
    Host.Outcome State Fault Refusal :=
  let t := t.toNat
  match (s.tile t).stepping with
  | none => .next s
  | some o =>
    let w := o.i.word
    if stMode w = 1 || o.sub ≠ 0 then .next s
    else
      let s := s.modTile t (fun x => x.strike upsets)
      let a4 := decide (stTag w = 1)
      let k := o.next
      let gs := stG w
      match s.readVectors t (adBase o.i.d0 + k * adStride o.i.d0) gs (if a4 then 20 else 40) with
      | none => .next (s.failStep t o .translationFault)
      | some (vs, bad, s) =>
        if a4 && vs.any a4Bad then .next (s.failStep t o .formatFault)
        else
          let x := s.tile t
          let v := x.slot (stSlot w)
          let a := fun g => vecVals a4 (vs.getD g [])
          let y := withErr laneErr (fun l => tritLane v (a (l / (1024 / gs))) l)
          let e := stBase w + k
          let tg := stTagOf w
          let x := x.applyStep o e
            (fun r => (r.prepare (stOverwrite w) tg.1 tg.2).step y (stInterval w)) (bad || v.poison)
            (pendCheck w o.ticket e (stSlot w) (checkKL 12 gs v a y))
            (if stOutlier w then k else k + 1) (if stOutlier w then 1 else 0)
          .next ((s.setTile t x).maybeEndStep t)

/-- The low and high digits of an A16 value (R44). -/
def a16Lo (x : Int) : Int := sgn 8 (wrap 16 x)
def a16Hi (x : Int) : Int := (x - a16Lo x) / 256

/-- OUTLIER_DIGIT_STEP (R44, R51, R94): the low digit through acc20, the high digit times 256 into acc32. The values are read
at each digit step, and with ocount 0 no byte is read and nothing fails (DESIGN CHOICE, log entry 159). -/
def execOutlierDigitStep (t : Byte) (laneErr : List (Nat × Int)) (upsets : List Upset) (s : State) :
    Host.Outcome State Fault Refusal :=
  let t := t.toNat
  match (s.tile t).stepping with
  | none => .next s
  | some o =>
    let w := o.i.word
    if stMode w = 1 || o.sub = 0 then .next s
    else
      let s := s.modTile t (fun x => x.strike upsets)
      let n := adOcount o.i.d0
      let base := adObase o.i.d0 + o.next * adOstride o.i.d0
      if n ≠ 0 && !inSp base (2 * n) then .next (s.failStep t o .translationFault)
      else
        let r := s.spRead t base (2 * n)
        let bs := maskBad base r.1 r.2.1
        let s := r.2.2
        let val := fun i => if i < n then sgn 16 (leAt bs (2 * i) 2) else 0
        if (List.range n).any (fun i => decide ((val i).natAbs > 32639)) then .next (s.failStep t o .formatFault)
        else
          let x := s.tile t
          let slot := adOslot o.i.d0
          let v := x.slot slot
          let low := decide (o.sub = 1)
          let a := fun i => if low then a16Lo (val i) else a16Hi (val i)
          let y := withErr laneErr (fun l => tritLane v a l)
          let e := stBase w + stCount w + o.next
          let f := fun (r : Row) =>
            if low then (r.prepare (stOverwrite w) 3 0).step y (stInterval w) else r.addSat (fun l => 256 * y l)
          let x := x.applyStep o e f (!r.2.1.isEmpty || v.poison)
            (pendCheck w o.ticket e slot (checkKL 12 1 v (fun _ => a) y))
            (if low then o.next else o.next + 1) (if low then 2 else if o.skip then 1 else 0)
          .next ((s.setTile t x).maybeEndStep t)

/-- PLANE_TOKEN (R87, R88, R90, R96). -/
def execPlaneToken (t : Byte) (laneErr : List (Nat × Int)) (upsets : List Upset) (s : State) :
    Host.Outcome State Fault Refusal :=
  let t := t.toNat
  match (s.tile t).stepping with
  | none => .next s
  | some o =>
    let w := o.i.word
    if stMode w ≠ 1 then .next s
    else
      let s := s.modTile t (fun x => x.strike upsets)
      let k := o.next
      let gs := stG w
      match s.readVectors t (adBase o.i.d0 + k * adStride o.i.d0) gs 40 with
      | none => .next (s.failStep t o .translationFault)
      | some (vs, bad, s) =>
        let x := s.tile t
        let b := stPlaneN w + 1
        let first := stSlot w
        let v := x.slot first
        let a := fun g => vecVals false (vs.getD g [])
        let y := withErr laneErr (fun l => planeLane x first b (a (l / (1024 / gs))) l)
        let ex := fun l => match v.plane with
          | some p => NMap.get (stEref w) p.exps l
          | none => stEref w
        let e := stBase w + k
        let pois := bad || (List.range' first (planeSlots b)).any (fun n => (x.slot n).poison)
        let x := x.applyStep o e
          (fun r => (r.prepare (stOverwrite w) 2 (stPlaneN w)).addSat (fun l => y l / ((2 ^ (stEref w - ex l) : Nat) : Int)))
          pois (pendCheck w o.ticket e first (checkKL (b + 11) gs v a y)) (k + 1) 0
        .next ((s.setTile t x).maybeEndStep t)

/-- CHECK_COMPARISON (R81, R90, R98): the oldest comparison is made; a mismatch poisons the row, the operation completes
with ST_POISONED and an ARRAY_CHECK event tells where. -/
def execCheckComparison (t : Byte) (s : State) : Host.Outcome State Fault Refusal :=
  let t := t.toNat
  let x := s.tile t
  match x.checks with
  | [] => .next s
  | c :: r =>
    let x := { x with checks := r }
    if c.kl.all (fun p => decide (p.1 = p.2)) then .next ((s.setTile t x).maybeEndStep t)
    else
      let x := x.modRow c.set c.entry (fun r => { r with poison := true })
      let x := x.modA c.ticket (fun o => { o with res := if o.res = .ok then .poisoned else o.res })
      let s := s.setTile t x
      .next ((s.raise (s.evTile t 0x10 1 [(24, 1, c.slot), (25, 1, c.set), (26, 1, c.entry), (32, 8, c.ticket)])).maybeEndStep
        t)

end Sys2Proof.Machine
end

