-- ==== Sys2Proof/Machine/Xlate.lean ====
section
/-! DEFINITION. Address translation (10): page tables in HBM (R197 to R199), the checks of a translated access (R201), the
translation caches (R200, R202, R406), the KV aperture (R267 to R269), swapping (R218, R298, R444), and the steward's own
accesses to a context's memory (R505). -/

namespace Sys2Proof.Machine

/-! ### Answers that keep the state -/

/-- What an access answers: a value or a status, and the state after it. A failed access leaves what its reads have left: corrected
units, poison marks and their events (R332). -/
abbrev Answer (α : Type) := Except Status α × State

/-- What is done with the value of an access that succeeded. -/
def Answer.ifOk {α β : Type} (x : Answer α) (f : α → State → Answer β) : Answer β :=
  match x.1 with
  | .ok a => f a x.2
  | .error st => (.error st, x.2)

/-! ### Page table entries (R198) -/

def pteAddr (p : Nat) : Nat := bits p 12 40 * 4096
def pteKey (p : Nat) : Nat := bits p 7 2
def pteRead (p : Nat) : Bool := bit p 2
def pteWrite (p : Nat) : Bool := bit p 3

/-- The lowest address bit that a level's index does not cover. -/
def levelShift (l : Nat) : Nat := 12 + 9 * l

/-- Whether an entry ends the walk at its level: always at L0, by its leaf bit at L1 and L2 (R197, R198). -/
def pteLeaf (l p : Nat) : Bool := l = 0 || (bit p 1 && decide (l ≤ 2))

/-- A present entry that breaks the rules of R198 at its level. -/
def pteBad (l p : Nat) : Bool :=
  bits p 52 12 ≠ 0 || bit p 4 || (bit p 1 && decide (3 ≤ l)) ||
  (pteLeaf l p && (decide (2 ≤ pteKey p) || pteAddr p % 2 ^ levelShift l ≠ 0))

/-- What a walk finds: a leaf (physical base, page size, entry), an absent or swapped page, or a failure. -/
inductive Walk where
  | leaf (pa size pte : Nat)
  | absent
  | swapped
  | malformed
  | poisoned
  deriving DecidableEq, Repr, Inhabited

/-- The address of the entry for a virtual address in a table. -/
def pteAt (l table va : Nat) : Nat := table + 8 * (va / 2 ^ levelShift l % (if l = 4 then 16 else 512))

/-- A walk from a table of level `l - 1` down (R197, R201), with the entries that led on: their level and the next table. -/
def walkF : Nat → State → Nat → Nat → Walk × List (Nat × Nat) × State
  | 0, s, _, _ => (.malformed, [], s)
  | l + 1, s, table, va =>
    let m := s.hbmRead (pteAt l table va) 8 0
    let p := leVal m.bytes
    if m.bad then (.poisoned, [], m.st)
    else if !bit p 0 then (if bit p 5 then .swapped else .absent, [], m.st)
    else if pteBad l p then (.malformed, [], m.st)
    else if pteLeaf l p then (.leaf (pteAddr p) (2 ^ levelShift l) p, [], m.st)
    else
      let r := walkF l m.st (pteAddr p) va
      (r.1, (l, pteAddr p) :: r.2.1, r.2.2)

/-- A walk of a context's tables. -/
def State.walk (s : State) (c va : Nat) : Walk × State :=
  match s.ctx? c with
  | some x => if x.root = 0 then (.absent, s) else ((walkF 5 s x.root va).1, (walkF 5 s x.root va).2.2)
  | none => (.absent, s)

/-! ### Checks of a translated access (R201) -/

/-- A physical address outside what the context may reach, or without the right the access needs (R201). -/
def State.denied (s : State) (c pa pte : Nat) (write : Bool) : Bool :=
  (if write then !pteWrite pte else !pteRead pte) ||
  (write && inTiers pa && pteKey pte = 1) ||
  (inTiers pa && !s.given c pa) ||
  (decide (pa < 0x200000000) && decide (s.partOf (pa / 0x2000000) ≠ (s.ctx? c).map (·.part)))

/-- The status that ends a transfer at a translated access, in the order of R221. -/
def State.leafFails (s : State) (c pa pte : Nat) (write : Bool) : Option Status :=
  if s.denied c pa pte write then some .permission
  else if s.zone pa = .hole then some .translationFault
  else none

/-- The model key that a page with key_sel 0b01 is read under: that of the placed model whose store image or golden copy
holds it; a number that is no key otherwise (R442). -/
def State.modelKeyAt (s : State) (pa : Nat) : Nat :=
  match s.models.find? (fun e =>
    e.2.stores.any (fun r => decide (r.2.1 ≤ pa) && decide (pa < r.2.1 + r.2.2)) ||
    e.2.blocks.any (fun b => decide (b.2.2 ≤ pa) && decide (pa < b.2.2 + 32768))) with
  | some e => e.2.key
  | none => 2 ^ 64

/-- The key of an access through a leaf (R442). -/
def State.leafKey (s : State) (c pa pte : Nat) : Nat :=
  if pteKey pte = 1 then s.modelKeyAt pa else ((s.ctx? c).map (·.key)).getD 0

/-- The target's own answer (R334, R339, R407): the tile in reset or off, the port failed or disabled, the stack
unavailable for a write. -/
def State.targetFails (s : State) (pa : Nat) (write : Bool) : Option Status :=
  match s.zone pa with
  | .sp t _ => if (s.tile t).inReset then some .targetReset else if s.tileOff t then some .targetOff else none
  | .hbm k => if write && !(s.stack k).available then some .targetOff else none
  | .far p => if (s.far p).failed || !(s.far p).enabled || s.isDisabled 2 p then some .targetOff else none
  | .host _ => none
  | .hole => some .translationFault

/-! ### Translation caches (R200, R202, R406) -/

/-- The generation that a translation carries: that of the target tile (R406). -/
def State.genAt (s : State) (pa : Nat) : Nat := if pa < 0x200000000 then (s.tile (pa / 0x2000000)).gen else 0

/-- A cached translation of an address: physical address and entry. -/
def State.tlbFind (s : State) (t c va : Nat) : Option (Nat × Nat) :=
  ((s.tile t).tlb.find? (fun e => e.ctx = c && decide (e.va ≤ va) && decide (va < e.va + e.size) && e.gen = s.genAt e.pa)).map
    (fun e => (e.pa + (va - e.va), e.leaf))

/-- A translation cached; the cache keeps 256 (R200). -/
def State.tlbAdd (s : State) (t c va pa size pte : Nat) : State :=
  let e : Tlb := { ctx := c, va := va / size * size, size := size, pa := pa, leaf := pte, gen := s.genAt pa }
  s.modTile t (fun x => { x with tlb := (e :: x.tlb.filter (fun o => o ≠ e)).take 256 })

/-- The deepest cached table entry of a tile that covers an address (R200). -/
def Tile.upperFind (x : Tile) (c va : Nat) : Option Tlb :=
  (x.upper.filter (fun e => e.ctx = c && decide (e.va ≤ va) && decide (va < e.va + e.size))).foldl (fun (b : Option Tlb) e =>
    match b with
    | some o => if e.size < o.size then some e else b
    | none => some e) none

/-- Entries of L4 to L2 read by a walk and cached; the cache keeps 32 (R200). `leaf` holds the entry's level. -/
def Tile.upperAdd (x : Tile) (c va : Nat) (es : List (Nat × Nat)) : Tile :=
  let new := (es.filter (fun e => decide (2 ≤ e.1))).map (fun e =>
    let size := 2 ^ levelShift e.1
    ({ ctx := c, va := va / size * size, size := size, pa := e.2, leaf := e.1, gen := 0 } : Tlb))
  { x with upper := (new.reverse ++ x.upper).take 32 }

/-- A walk by a tile's translation unit: it begins below the deepest entry its cache of L4 to L2 entries holds (R200). -/
def State.walkTile (s : State) (t c va : Nat) : Walk × State :=
  match (s.tile t).upperFind c va, s.ctx? c with
  | some e, some _ =>
    let r := walkF e.leaf s e.pa va
    (r.1, r.2.2.modTile t (fun x => x.upperAdd c va r.2.1))
  | none, some x =>
    if x.root = 0 then (.absent, s)
    else
      let r := walkF 5 s x.root va
      (r.1, r.2.2.modTile t (fun x => x.upperAdd c va r.2.1))
  | _, none => (.absent, s)

/-- An invalidation: no translation cache of the context keeps an entry that touches the range (R202). -/
def State.invalidate (s : State) (c va n : Nat) : State :=
  let keep := fun (e : Tlb) => !(e.ctx = c && decide (e.va < va + n) && decide (va < e.va + e.size))
  { s with tiles := NMap.mapv s.tiles (fun _ x => { x with tlb := x.tlb.filter keep, upper := x.upper.filter keep }) }

/-- An invalidation of the look-aside entries of a slot (R268). -/
def State.invalidateKv (s : State) (c slot : Nat) : State :=
  { s with tiles := NMap.mapv s.tiles (fun _ x =>
    { x with kvb := x.kvb.filter (fun e => !(e.ctx = c && bits e.va 38 10 = slot)) }) }

/-! ### The KV aperture (R267 to R269) -/

def kvBase : Nat := 0xF000000000000
def inKv (va : Nat) : Bool := decide (kvBase ≤ va)
def kvSlot (va : Nat) : Nat := bits va 38 10
def kvLayer (va : Nat) : Nat := bits va 31 7
def kvOff (va : Nat) : Nat := bits va 0 31

/-- The format of a slot's layer. -/
def State.kvAttn (s : State) (slot layer : Nat) : Option Attn :=
  (NMap.get? s.models (s.seq slot).model).bind (fun m => m.attnOf layer)

/-- The commands with a work item that runs on a tile: WORK_NEXT may have handed out several (R145). -/
def State.runningOn (s : State) (t : Nat) : List (Nat × Work) :=
  s.works.filter (fun e => e.2.items.any (fun i => i.tile = t && i.st = .running))

/-- Whether the steward issues the items of one command before those of another: a higher class first (R305), and in one class the
tokens of a model's batch by variant, the base model first, and by sequence slot (R237). -/
def State.before (s : State) (a b : Work) : Bool :=
  let v := fun (w : Work) => (s.seq w.slot).variant
  decide (b.cls < a.cls) || (a.cls = b.cls && a.kind = .step && b.kind = .step && a.ctx = b.ctx && a.model = b.model &&
    (decide (v a < v b) || (v a = v b && decide (a.slot < b.slot))))

/-- Whether a ready item that comes before those of a command waits for the same tile (R237, R305). -/
def State.earlierWaits (s : State) (t : Nat) (w : Work) : Bool :=
  s.works.any (fun e => e.2.started && s.before e.2 w && e.2.items.any (fun i => i.tile = t && i.st = .ready))

/-- The core's bindings to the work item it was handed last: its command, epoch, slot and appended range (R269, R281). -/
def Core.bindItem (k : Core) (n : Nat) (w : Work) : Core :=
  { k with
    work := some n
    epoch := w.epoch
    slotBound := if w.slot < 1024 then some w.slot else none
    appRange := (w.aOld, w.aNew) }

/-- The commands of a batch that runs on a tile, in the order of their tokens (R237). -/
def State.batchOn (s : State) (t : Nat) : List (Nat × Work) :=
  let put := fun (l : List (Nat × Work)) (e : Nat × Work) =>
    l.takeWhile (fun x => !s.before e.2 x.2) ++ e :: l.dropWhile (fun x => !s.before e.2 x.2)
  ((s.runningOn t).filter (fun e => e.2.kind = .step)).foldl put []

/-- The work items of a slot that run on a tile: the epoch and the appended range that each carries (R272, R280). -/
def State.carriers (s : State) (t slot : Nat) : List (Nat × Nat × Nat) :=
  let k := (s.tile t).core
  (if k.slotBound = some slot then [(k.epoch, k.appRange.1, k.appRange.2)] else []) ++
  ((s.runningOn t).filter (fun e => decide (slot < 1024) && e.2.slot = slot)).map (fun e => (e.2.epoch, e.2.aOld, e.2.aNew))

/-- The epoch and slot of the work item that a tile's actions are held for: the item handed out last, or else the first of those it
runs that carries an epoch (R281; assumption log entry 168). -/
def State.epochItem (s : State) (t : Nat) : Nat × Nat :=
  let k := (s.tile t).core
  if k.epoch ≠ 0 then (k.epoch, k.slotBound.getD 0)
  else (((s.runningOn t).find? (fun e => e.2.epoch ≠ 0)).map (fun e => (e.2.epoch, e.2.slot))).getD (0, 0)

/-- The epoch that a tile's running work carries, 0 for none. -/
def State.epochOn (s : State) (t : Nat) : Nat := (s.epochItem t).1

/-- Whether a work item with a slot bound runs: on a tile, or anywhere in the context for a packet from another package. -/
def State.kvBound (s : State) (t : Option Nat) (c slot : Nat) : Bool :=
  match t with
  | some t => !(s.carriers t slot).isEmpty
  | none => s.tiles.any (fun e => e.2.ctx = some c && !(s.carriers e.1 slot).isEmpty)

/-- What the KV page walker finds. -/
inductive KvRes where
  | fails (st : Status)
  | swapped
  | run (a : Attn) (r pa off : Nat)
  deriving DecidableEq, Repr, Inhabited

/-- The checks 1 to 5 of R269. -/
def State.kvCheck (s : State) (t : Option Nat) (c va : Nat) (write : Bool) : KvRes :=
  let slot := kvSlot va
  let q := s.seq slot
  if q.state = 0 || q.ctx ≠ c || !s.kvBound t c slot then .fails .permission
  else match s.kvAttn slot (kvLayer va) with
    | none => .fails .translationFault
    | some a =>
      let r := kvOff va / a.runBytes
      if (q.maxLen + 39) / 40 ≤ r || q.a ≤ 40 * r then .fails .translationFault
      else match NMap.get? q.runs (runKey (kvLayer va) r) with
        | none => .fails .translationFault
        | some run =>
          match run.pa with
          | none => .swapped
          | some pa => if write && run.shared then .fails .permission else .run a r pa (kvOff va % a.runBytes)

/-- The run that an aperture address names, as its KV map entry has it. -/
def State.kvRun (s : State) (va : Nat) : Option Run :=
  (s.kvAttn (kvSlot va) (kvLayer va)).bind (fun a =>
    NMap.get? (s.seq (kvSlot va)).runs (runKey (kvLayer va) (kvOff va / a.runBytes)))

/-- Whether the KV map entry of an aperture address is marked poisoned (R201). -/
def State.kvMapBad (s : State) (va : Nat) : Bool := ((s.kvRun va).map (·.bad)).getD false

/-- The position (0 to 39) that bit `b` of byte `o` of a run belongs to (R84, R264). -/
def Attn.posOf (a : Attn) (o b : Nat) : Option Nat :=
  if o < a.kB then some (o / 8 % 40)
  else if o < a.kB + a.vB then
    let n := (o - a.kB) / 8
    let k := 8 * (n / a.d % a.ns) + o % 8
    if k < 5 * a.bitsPer then some (8 * (k % 5) + b) else none
  else if o < a.kB + a.vB + 160 * a.h then some ((o - a.kB - a.vB) / 2 % 40)
  else none

/-- A byte of a run with the bits of hidden positions read as 0. -/
def Attn.show (a : Attn) (vis : Nat → Bool) (o : Nat) (v : Byte) : Byte :=
  BitVec.ofNat 8 ((List.range 8).map (fun b =>
    match a.posOf o b with
    | some p => if vis p then (if bit v.toNat b then 2 ^ b else 0) else 0
    | none => if bit v.toNat b then 2 ^ b else 0)).sum

/-- Whether a tile's running work item may read a position of a slot (check 6 of R269, R273). -/
def State.kvVisible (s : State) (t slot p : Nat) : Bool :=
  let q := s.seq slot
  decide (p < q.c) || (s.carriers t slot).any (fun e =>
    if q.epoch ≠ 0 then decide (e.1 = q.epoch) else decide (e.2.1 ≤ p) && decide (p < e.2.2))

/-! ### Table pages and mapping (R199, R298) -/

/-- A region put before the first of a list whose base is not below its own. -/
def regionInto (r : Region) : List Region → List Region
  | [] => [r]
  | x :: l => if r.base ≤ x.base then r :: x :: l else x :: regionInto r l

/-- Regions in the order of their bases. -/
def byBase (l : List Region) : List Region := l.foldr regionInto []

/-- The pages of table regions that no context's tables use, lowest first. -/
def State.freeTable (s : State) : Option Nat :=
  let used := fun a => s.ctxs.any (fun e => e.2.tables.contains a)
  (byBase (s.regions.filter (fun r => r.kind = 1))).findSome? (fun r =>
    ((List.range (r.size / 4096)).find? (fun i => !used (r.base + 4096 * i))).map (fun i => r.base + 4096 * i))

/-- A zeroed table page taken for a context. -/
def State.newTable (s : State) (c : Nat) : Option (Nat × State) :=
  s.freeTable.map (fun a =>
    (a, (s.hbmWrite a (List.replicate 4096 0) 0 false).modCtx c (fun x => { x with tables := x.tables ++ [a] })))

/-- An entry written at a level of a context's tables, with the tables on the way made as needed; none when the table
regions are full. `l + 1` levels remain, `lv` is the entry's level. -/
def mapF : Nat → State → Nat → Nat → Nat → Nat → Nat → Option State
  | 0, _, _, _, _, _, _ => none
  | l + 1, s, c, table, va, lv, pte =>
    let at_ := pteAt l table va
    if l = lv then some (s.hbmWrite at_ (leBytes 8 pte) 0 false)
    else
      let p := Bytes.le s.mem.hbm at_ 8
      if bit p 0 then mapF l s c (pteAddr p) va lv pte
      else match s.newTable c with
        | none => none
        | some (a, s) => mapF l (s.hbmWrite at_ (leBytes 8 (a + 1)) 0 false) c a va lv pte

/-- An entry written for a virtual address, the root made at first use. -/
def State.mapEntry (s : State) (c va level pte : Nat) : Option State :=
  match s.ctx? c with
  | none => none
  | some x =>
    if x.root ≠ 0 then mapF 5 s c x.root va level pte
    else match s.newTable c with
      | none => none
      | some (a, s) => mapF 5 (s.modCtx c (fun x => { x with root := a })) c a va level pte

/-- The entry that ends a walk, without its checks: its level and contents; none where a table is missing. -/
def entryF : Nat → State → Nat → Nat → Option (Nat × Nat)
  | 0, _, _, _ => none
  | l + 1, s, table, va =>
    let p := Bytes.le s.mem.hbm (pteAt l table va) 8
    if !bit p 0 then (if p = 0 then none else some (l, p))
    else if pteLeaf l p then some (l, p)
    else entryF l s (pteAddr p) va

/-- The leaf entry that covers a virtual address: its level and contents. -/
def State.entryOf (s : State) (c va : Nat) : Option (Nat × Nat) :=
  match s.ctx? c with
  | some x => if x.root = 0 then none else entryF 5 s x.root va
  | none => none

/-! ### Copies by the steward, and swapping (R218, R278, R298, R444) -/

/-- Whole units copied between HBM and far-tier addresses under one key; marks travel with their units (R214). -/
def State.copyTier (s : State) (src dst n key : Nat) : State :=
  (List.range (n / 64)).foldl (fun s i =>
    let m := s.tierRead (src + 64 * i) 64 key
    m.st.tierWrite (dst + 64 * i) m.bytes key m.bad) s

/-- The host physical address of byte `i` of a swapped range: frames of 4 KiB, each followed by its 16-byte tag (R444). -/
def frameAt (h i : Nat) : Nat := h + i / 4096 * 4112 + i % 4096

/-- Memory sealed into host memory under a context's swap key (R444): the host receives sealed bytes, the vault keeps what
they open to. -/
def State.sealOut (s : State) (c src h n key : Nat) : State :=
  let m := (List.range (n / 64)).foldl (fun (a : List (Nat × List Byte × Bool) × State) i =>
    let m := a.2.tierRead (src + 64 * i) 64 key
    (a.1 ++ [(frameAt h (64 * i), m.bytes, m.bad)], m.st)) ([], s)
  let plain := m.1.flatMap (fun e => e.2.1)
  let cipher := Config.sealBytes (leBytes 8 key) plain
  let s := (List.range ((n + 4095) / 4096)).foldl (fun s f =>
    s.hostWrite (h + 4112 * f) ((List.range 4112).map (fun i => cipher.getD (4112 * f + i) 0)) false) m.2
  s.modCtx c (fun x =>
    { x with vault := m.1.foldl (fun v e => Bytes.wr v e.1 e.2.1) x.vault,
             vaultPoison := m.1.foldl (fun v e => if e.2.2 then insertNat v e.1 else v.filter (fun a => a ≠ e.1))
               x.vaultPoison })

/-- Every frame's tag holds. -/
def goodTags : Nat → Bool := fun _ => false

/-- The frames of host memory that a command's reads find spoiled: those whose 4,112 bytes hold a poisoned one. -/
def badFrame (ext : Ext) (h : Nat) : Bool := ext.poison.any (fun a => decide (h ≤ a) && decide (a < h + 4112))

/-- Sealed frames brought back (R444): a frame whose tag fails, by its host address, is stored marked poisoned. -/
def State.sealIn (s : State) (c h dst n key : Nat) (bad : Nat → Bool) : State :=
  match s.ctx? c with
  | none => s
  | some x =>
    (List.range (n / 64)).foldl (fun s i =>
      let a := frameAt h (64 * i)
      s.tierWrite (dst + 64 * i) (Bytes.rd x.vault a 64) key (bad (frameAt h (64 * i / 4096 * 4096)) || x.vaultPoison.contains a)) s

/-- Memory swapped out to a backing address in the far tier or host memory. -/
def State.swapTo (s : State) (c src backing n key : Nat) : State :=
  match s.zone backing with
  | .host h => s.sealOut c src h n key
  | _ => s.copyTier src backing n key

/-- Whole units copied from a far-tier port, frame by frame of 4 KiB: a frame with no completion in time arrives poisoned, with an event
(R339). -/
def State.copyLate (s : State) (p src dst n key : Nat) (bad : Nat → Bool) : State :=
  (List.range ((n + 4095) / 4096)).foldl (fun s f =>
    let a := src + 4096 * f
    let len := min 4096 (n - 4096 * f)
    if bad (hostBase + a) then
      ((s.used len).raise (evUnit 4 p 0x07 1 [(24, 1, 0), (32, 8, a)])).tierWrite (dst + 4096 * f)
        ((List.range len).map (fun i => BitVec.ofNat 8 (s.fv i))) key true
    else s.copyTier a (dst + 4096 * f) len key) s

/-- Memory brought back from its backing. -/
def State.swapFrom (s : State) (c backing dst n key : Nat) (bad : Nat → Bool) : State :=
  match s.zone backing with
  | .host h => s.sealIn c h dst n key bad
  | .far p => s.copyLate p backing dst n key bad
  | _ => s.copyTier backing dst n key

/-- Whether a backing can be read back now: a held far-tier port holds swap-ins (R314). -/
def State.backingReady (s : State) (backing : Nat) : Bool :=
  match s.zone backing with
  | .far p => !((s.far p).failed || !(s.far p).enabled || s.isDisabled 2 p)
  | .hole => false
  | _ => true

/-- The swapped page of a context that holds a virtual address: its base, backing, entry and size. -/
def Ctx.swappedAt (x : Ctx) (va : Nat) : Option (Nat × Nat × Nat × Nat) :=
  x.swapped.find? (fun e => decide (e.1 ≤ va) && decide (va < e.1 + e.2.2.2))

/-- The level of a page by its size. -/
def levelOf (size : Nat) : Nat := if size = 4096 then 0 else if size = 0x200000 then 1 else 2

/-- A page swapped in: copied to the page it came from and mapped again (R218, R298). -/
def State.pageIn (s : State) (c va : Nat) (bad : Nat → Bool) : Option State :=
  match (s.ctx? c).bind (fun x => (x.swappedAt va).map (fun e => (x, e))) with
  | none => none
  | some (_, base, backing, pte, size) =>
    if !s.backingReady backing then none
    else
      let key := s.leafKey c (pteAddr pte) pte
      let s := s.swapFrom c backing (pteAddr pte) size key bad
      (s.mapEntry c base (levelOf size) pte).map (fun s =>
        s.modCtx c (fun x => { x with swapped := NMap.del x.swapped base }))

/-! ### Pages of the KV pool (R264, R265, R276) -/

/-- The page that holds a run: base and size. -/
def State.pageOf (s : State) (m key pa : Nat) : Option (Nat × Nat) :=
  ((NMap.get? s.models m).bind (fun x => x.attnOf (key / 2 ^ 26))).map (fun a => (pa / a.page * a.page, a.page))

/-- Whether a range of the pool holds part of a page in use: one any of whose runs a slot or a prefix refers to (R276). -/
def State.kvUsed (s : State) (lo n : Nat) : Bool :=
  let hit := fun (m : Nat) (rs : NMap Run) => rs.any (fun e =>
    match e.2.pa.bind (s.pageOf m e.1) with
    | some p => decide (p.1 < lo + n) && decide (lo < p.1 + p.2)
    | none => false)
  s.seqs.any (fun e => hit e.2.model e.2.runs) || s.prefixes.any (fun p => hit p.model p.runs)

/-- The regions of a partition's KV pool, all in HBM (R265). -/
def State.kvRegions (s : State) (part : Nat) : List Region :=
  s.regions.filter (fun r => r.kind = 2 && r.owner = part && decide (hbmBase ≤ r.base) && decide (r.base < hbmBase + hbmSize))

/-- The lowest free page of a size in a partition's KV pool. -/
def State.freeKvPage (s : State) (part size : Nat) : Option Nat :=
  (byBase (s.kvRegions part)).findSome?
    (fun r => ((List.range (r.size / size)).find? (fun i => !s.kvUsed (r.base + size * i) size)).map
      (fun i => r.base + size * i))

/-- The place of a new run: beside the slot's other runs of its page group where that place is free, else in a new page,
which is zeroised (R265). Groups count from the first run after those shared from a prefix at the open, `inh`. -/
def State.placeRun (s : State) (part key : Nat) (rs : NMap Run) (inh : Nat) (a : Attn) (layer r : Nat) :
    Option (Nat × State) :=
  let q := a.perPage
  let i0 := (r - inh) / q * q
  let sib := (List.range q).findSome? (fun i =>
    ((NMap.get? rs (runKey layer (inh + i0 + i))).bind (·.pa)).map (fun p => p - i * a.runBytes))
  match sib with
  | some b => some (b + (r - inh - i0) * a.runBytes, s)
  | none => (s.freeKvPage part a.page).map (fun b =>
      (b + (r - inh - i0) * a.runBytes, s.hbmWrite b (List.replicate a.page 0) key false))

/-- A run of a slot swapped in (R218, R279). -/
def State.runIn (s : State) (slot key : Nat) (bad : Nat → Bool) : Option State :=
  let q := s.seq slot
  match (NMap.get? q.runs key), s.kvAttn slot (key / 2 ^ 26), s.ctx? q.ctx with
  | some run, some a, some x =>
    if !s.backingReady run.swap then none
    else (s.placeRun x.part x.key q.runs q.inh a (key / 2 ^ 26) (key % 2 ^ 26)).map (fun p =>
      (p.2.swapFrom q.ctx run.swap p.1 a.runBytes x.key bad).modSeq slot (fun q =>
        { q with runs := NMap.put q.runs key { pa := some p.1, shared := false, swap := 0, bad := false } }))
  | _, _, _ => none

/-! ### The steward's accesses to a context's memory (R505) -/

/-- A range cut at unit boundaries. -/
def chunks (va n : Nat) : List (Nat × Nat) :=
  (unitsOf va n).map (fun u => (max va (u * 64), min (va + n) (u * 64 + 64) - max va (u * 64)))

/-- Whether an address lies in a tile that serves nothing yet because its quad has not completed its scrub pass (R191). -/
def State.scrubbing (s : State) (pa : Nat) : Bool :=
  match s.zone pa with
  | .sp t _ => (s.quad (quadOf t)).scrubPass
  | _ => false

/-- A translation for the steward: physical address and entry. A swapped page is brought back first; `bad` tells the frames whose tag
fails. -/
def State.stewardXlate (s : State) (c va : Nat) (write : Bool) (bad : Nat → Bool) : Answer (Nat × Nat) :=
  if inKv va then (.error .permission, s)
  else
    let w := s.walk c va
    let w := if w.1 = .swapped then
      match w.2.pageIn c va bad with
      | some s => s.walk c va
      | none => w
      else w
    match w.1 with
    | .leaf pa size pte =>
      match w.2.leafFails c (pa + va % size) pte write with
      | some st => (.error st, w.2)
      | none => (.ok (pa + va % size, pte), w.2)
    | .poisoned => (.error .poisoned, w.2)
    | _ => (.error .translationFault, w.2)

/-- Whether a range of a context's memory cannot be reached by the steward yet: a swapped page whose backing is held (R314), or a tile
under its scrub pass (R191). -/
def State.stewardWaits (s : State) (c va n : Nat) : Bool :=
  (chunks va n).any (fun ch => match (s.walk c ch.1).1 with
    | .swapped => (((s.ctx? c).bind (fun x => x.swappedAt ch.1)).map (fun e => !s.backingReady e.2.1)).getD false
    | .leaf pa size _ => s.scrubbing (pa + ch.1 % size) && (s.targetFails (pa + ch.1 % size) false).isNone
    | _ => false)

/-- Bytes at a translated address, with whether they read poisoned; host memory answers what the command brought. -/
def State.physRead (s : State) (pa n key : Nat) (ext : Ext) : MemRead :=
  match s.zone pa with
  | .sp t off =>
    let r := s.spReadQuiet t off n
    { bytes := r.1, bad := !r.2.1.isEmpty, fault := false, st := r.2.2 }
  | .host h =>
    { bytes := (List.range n).map (fun i => NMap.get 0 ext.cells (h + i)),
      bad := (List.range n).any (fun i => ext.poison.contains (h + i)), fault := false, st := s }
  | .hole => { bytes := List.replicate n 0, bad := true, fault := false, st := s }
  | .far p =>
    let m := s.tierRead pa n key
    if (List.range n).any (fun i => ext.poison.contains (hostBase + pa + i)) then
      { m with bad := true, st := m.st.raise (evUnit 4 p 0x07 1 [(24, 1, 0), (32, 8, pa)]) }
    else m
  | .hbm _ => s.tierRead pa n key

/-- A piece of a context's memory translated for the steward, with the answer of its target: its place and key (R407). -/
def State.stewardReach (s : State) (c va : Nat) (write : Bool) (bad : Nat → Bool) : Answer (Nat × Nat) :=
  (s.stewardXlate c va write bad).ifOk (fun x s =>
    match s.targetFails x.1 write with
    | some st => (.error st, s)
    | none => (.ok (x.1, s.leafKey c x.1 x.2), s))

/-- Bytes of a context's memory read by the steward. -/
def State.stewardRead (s : State) (c va n : Nat) (ext : Ext) : Answer (List Byte) :=
  (chunks va n).foldl (fun (a : Answer (List Byte)) ch => a.ifOk (fun bs s =>
    (s.stewardReach c ch.1 false (badFrame ext)).ifOk (fun x s =>
      let m := s.physRead x.1 ch.2 x.2 ext
      if m.bad then (.error .poisoned, m.st)
      else if m.fault then (.error .formatFault, m.st)
      else (.ok (bs ++ m.bytes), m.st)))) (.ok [], s)

/-- Bytes written at a translated address outside compressed regions. -/
def State.physWrite (s : State) (pa : Nat) (bs : List Byte) (key : Nat) (poison : Bool) : State :=
  match s.zone pa with
  | .sp t off => s.spWrite t off bs poison
  | .host h => s.hostWrite h bs poison
  | .hole => s
  | _ => s.tierWrite pa bs key poison

/-- A place that the steward may not write: a resident block (R192), a compressed region, which takes whole groups only. -/
def State.stewardBarred (s : State) (pa n : Nat) : Bool :=
  (match s.zone pa with
    | .sp t off => (s.tile t).residentAt off n
    | _ => false) || ((s.regionAt pa).map (·.compressed)).getD false

/-- Bytes of a context's memory written by the steward: every piece is reached before any is written, so that a failure leaves
nothing written (R505). -/
def State.stewardWrite (s : State) (c va : Nat) (bs : List Byte) (bad : Nat → Bool) : Answer Unit :=
  ((chunks va bs.length).foldl (fun (a : Answer (List (Nat × Nat × List Byte))) ch => a.ifOk (fun ps s =>
    (s.stewardReach c ch.1 true bad).ifOk (fun x s =>
      if s.stewardBarred x.1 ch.2 then (.error .permission, s)
      else (.ok (ps ++ [(x.1, x.2, (bs.drop (ch.1 - va)).take ch.2)]), s)))) (.ok [], s)).ifOk (fun ps s =>
    (.ok (), ps.foldl (fun (s : State) p => s.physWrite p.1 p.2.2 p.2.1 false) s))

end Sys2Proof.Machine
end

