-- ==== Sys2Proof/Machine/HostOps.lean ====
section
/-! DEFINITION. Taking a host command and replying to it (14): the occasion of a take (R287, R290), the checks of R293, the
reply and its ring (R287, R288, R291), interrupts (R289). -/

namespace Sys2Proof.Machine

/-- The staging key's ring address: whether the steward can reach a ring entry, in HBM or in host memory (R285, R288). -/
def State.ringOk (s : State) (hbm : Bool) (a : Nat) : Bool :=
  if hbm then match s.zone a with
    | .hbm k => (s.stack k).available
    | _ => false
  else true

/-- The 32 bytes of a reply (R291). -/
def Reply.bytes (r : Reply) : List Byte :=
  leBytes 4 r.cmdId ++ leBytes 1 r.status.code ++ leBytes 1 ((if r.late then 2 else 0) + (if r.phase then 1 else 0)) ++
  leBytes 2 r.sqHead ++ leBytes 8 r.result0 ++ leBytes 8 r.result1 ++ leBytes 8 r.doneNs

/-- A queue pair after a reply has been accounted for: it ends when it is disabled and nothing is left (R285). -/
def Qp.answered (q : Qp) : Qp :=
  let q := { q with taken := q.taken - 1 }
  if !q.enable && q.taken = 0 then { q with active := false } else q

/-- The queue pair with a reply in its ring (R287, R289). -/
def Qp.push (q : Qp) (r : Reply) (now : Nat) : Qp :=
  let t := (q.cqTail + 1) % 2 ^ q.cqLog
  { q with
    cq := q.cq ++ [r]
    cqTail := t
    phase := if t = 0 then !q.phase else q.phase
    since := q.since + 1
    oldest := some (q.oldest.getD now) }

/-- The vector of a queue pair raised (R289). -/
def State.raiseQp (s : State) (n : Nat) : State :=
  (s.modQp n (fun q => { q with since := 0, oldest := none })).raiseMsix (s.qp n).msix

/-- A reply fixed and written (R287 to R289, R291, R353). -/
def State.replyLate (s : State) (h : Pkt) (st : Status) (r0 r1 : Nat) (late : Bool) : State :=
  let n := h.qp.toNat
  let q := s.qp n
  let r : Reply :=
    { cmdId := h.cmdId.toNat, status := st, late := late, phase := q.phase, sqHead := q.sqHead,
      result0 := r0 % 2 ^ 64, result1 := r1 % 2 ^ 64, doneNs := s.clk.now }
  let a := q.cqBase + 32 * q.cqTail
  if !s.live then s
  else if q.ringLost && !q.ringHbm then s.modQp n Qp.answered
  else if !s.ringOk q.ringHbm a || (h.replyFails && !q.ringHbm) then s.modQp n (fun q => { q with error := true, errCode := 0x11 }.answered)
  else
    let s := if q.ringHbm then s.hbmWrite a r.bytes s.boot.stagingKey false else s.hostWrite a r.bytes false
    let s := s.modQp n (fun q => (q.push r s.clk.now).answered)
    if h.irq || decide (q.coalesce < (s.qp n).since) then s.raiseQp n else s

/-- A reply that is not late. -/
def State.reply (s : State) (h : Pkt) (st : Status) (r0 r1 : Nat) : State := s.replyLate h st r0 r1 false

/-- A reply with no results. -/
def State.replyS (s : State) (h : Pkt) (st : Status) : State := s.reply h st 0 0

/-- Whether the steward may take the command now: command interpretation runs, the queue pair is active and without error,
a command is submitted, the completion ring has room for its reply and those still owed, and a fence is met (R285, R287,
R288, R290, R413, R466). -/
def State.mayTake (s : State) (h : Pkt) : Bool :=
  let q := s.qp h.qp.toNat
  s.boot.devState = 1 && !s.boot.inReset && s.live && s.boot.pause.isNone && q.enable && q.active && !q.error &&
  q.sqHead ≠ q.sqTail && decide (q.cq.length + q.taken + 1 ≤ 2 ^ q.cqLog - 1) && (!h.fence || q.taken = 0)

/-- The command taken from its ring (R287). -/
def State.take (s : State) (h : Pkt) : State :=
  s.modQp h.qp.toNat (fun q => { q with sqHead := (q.sqHead + 1) % 2 ^ q.sqLog, taken := q.taken + 1 })

/-- The context a C command acts for (R284). -/
def State.pktCtx (s : State) (h : Pkt) : Nat :=
  let q := s.qp h.qp.toNat
  if q.devQueue then h.ctx.toNat else q.ctx

/-- The first four checks of R293. `d`: a D command; `work`: it starts work; `ok`: its operands are in range. -/
def State.refusal (s : State) (h : Pkt) (d work ok : Bool) : Option Status :=
  let q := s.qp h.qp.toNat
  if s.isDisabled 3 h.qp.toNat then some .targetOff
  else if h.rsvSet then some .badCommand
  else if (d && !q.devQueue) || (!d && (s.ctx? (s.pktCtx h)).isNone) || (!q.devQueue && (s.ctx? q.ctx).isNone) then
    some .permission
  else if !ok || h.stray || (!work && h.streamClaim ≠ 0) then some .badCommand
  else none

/-- Whether the packet at the head of a queue pair's ring can be read (R288). -/
def State.packetReads (s : State) (h : Pkt) : Bool :=
  let q := s.qp h.qp.toNat
  s.ringOk q.sqHbm (q.sqBase + 64 * q.sqHead) && (q.sqHbm || !h.readFails)

/-- A host command taken and interpreted: `body` is given the context it acts for and writes the reply, now or
later. A ring entry that cannot be read stops the queue pair (R288). -/
def State.host (s : State) (h : Pkt) (d work ok : Bool) (body : Nat → State → State) : State :=
  if !s.mayTake h then s
  else if !s.packetReads h then
    s.modQp h.qp.toNat (fun q => { q with error := true, errCode := 0x11 })
  else
    let s := s.take h
    match s.refusal h d work ok with
    | some st => s.replyS h st
    | none => body (s.pktCtx h) s

/-- The decision of a command that reaches memory: the status of the access that failed, or what its value leads to (R505). -/
def State.orStatus {α : Type} (h : Pkt) (x : Answer α) (f : α → State → State) : State :=
  match x.1 with
  | .ok a => f a x.2
  | .error st => x.2.replyS h st

/-! ### Signals and barriers (15) -/

/-- The key of an object: a context and its identifier; a number that is no identifier names none (R317, R326). -/
def objKey (c ident : Nat) : Nat := if ident < 65536 then c * 65536 + ident else 2 ^ 40

/-- What the condition of a wait in a sync slot has come to: nothing yet, or the outcome for pd (R161, R319, R323). -/
def State.syncOver (s : State) (t v : Nat) (phase : Option Nat) : Option Nat :=
  let x := s.tile t
  let y := bnSync v
  let c := x.ctx.getD 0
  let id := x.core.rg (syGa y)
  match syKind y with
  | 1 =>
    if syAll y then
      if (List.range 3).all (fun e => !bit (syMask y) e || (x.tk e).pending.isEmpty) then some 1 else none
    else if (x.tk (syEngine y)).isDone id then some (if (x.tk (syEngine y)).wasOk id then 1 else 0) else none
  | 2 =>
    match NMap.get? s.signals (objKey c id) with
    | some g => if x.core.rg (syGb y) ≤ g.count then some 1 else none
    | none => some 0
  | 5 =>
    match NMap.get? s.barriers (objKey c id) with
    | some b => if b.broken then some 0 else match phase with
      | some p => if b.phase ≠ p then some 1 else none
      | none => none
    | none => some 0
  | _ => some 1

/-- A tile's wait decided, if its condition holds now (R320). -/
def State.decideWait (s : State) (t : Nat) : State :=
  match (s.tile t).core.run with
  | .syncWait v since phase none =>
    if (s.syncOver t v phase).isSome then
      s.modCore t (fun k => { k with run := .syncWait v since phase (s.syncOver t v phase) })
    else s
  | _ => s

/-- The waits of a context's tiles decided at the moment an add, an arrival or a completion is taken (R320). -/
def State.decideWaits (s : State) (c : Nat) : State :=
  (NMap.keysOf s.tiles (fun _ x => decide (x.ctx = some c))).foldl State.decideWait s

/-- Pending SIGNAL_WAIT commands whose target is reached answer ST_OK with the count (R325). -/
def State.wakeWaits (s : State) (c ident count : Nat) : State :=
  let hit := fun (w : SigWait) => w.ctx = c && w.ident = ident && decide (w.target ≤ count)
  (s.waits.filter hit).foldl (fun s w => s.reply w.h .ok count 0) { s with waits := s.waits.filter (fun w => !hit w) }

/-- An add that finds no object (R326). -/
def State.addDiscarded (s : State) (c ident : Nat) (barrier : Bool) : State :=
  s.raise { type := 0x34, kind := 2, ctx := some c, unit := 8, index := 0, gen := 0,
            detail := [(24, 2, ident), (26, 1, if barrier then 1 else 0)] }

/-- An add to a signal: saturating, with overflow in the col die's part of the sticky status (R318). -/
def State.signalAdd (s : State) (c ident amount : Nat) : State :=
  match NMap.get? s.signals (objKey c ident) with
  | none => s.addDiscarded c ident false
  | some g =>
    let n := min (g.count + amount) (2 ^ 64 - 1)
    let s := { s with signals := NMap.put s.signals (objKey c ident) { g with count := n } }
    let s := if 2 ^ 64 - 1 < g.count + amount then s.modCtx c (fun x => { x with stickyCol := true }) else s
    (s.wakeWaits c ident n).decideWaits c

/-- The job a context carries in the active configuration set (R445). -/
def State.jobOf (s : State) (c : Nat) : Option Nat :=
  (s.cfg.active.bind (fun a => a.jobs.find? (fun j => j.job ≠ 0 && j.ctx = c))).map (·.job)

/-- The context that carries a job (R374). -/
def State.ctxOfJob (s : State) (job : Nat) : Option Nat :=
  match s.cfg.active.bind (fun a => a.jobs.find? (fun j => j.job ≠ 0 && j.job = job)) with
  | some j => if (s.ctx? j.ctx).isSome then some j.ctx else none
  | none => none

/-- Whether the management key entry is in the active set (R445, R448). -/
def State.mgmtKey (s : State) : Bool := ((s.cfg.active.map (fun a => a.jobs.any (fun j => j.job = 0)))).getD false

/-- Whether a message goes out without a management key (R448). -/
def Mgmt.untagged : Mgmt → Bool
  | .linkState .. => true
  | .timeRequest .. => true
  | .timeReply .. => true
  | _ => false

/-- A message handed to the management channel; without a management key only some are sent (R448). -/
def State.send (s : State) (m : Mgmt) : State :=
  if !s.live || !(s.mgmtKey || m.untagged) then s else { s with links := { s.links with out := s.links.out ++ [.mgmt m] } }

/-- Whether a management packet is accepted: its tag verifies, or there is no management key and it is an untagged packet of a
kind that needs none (R382, R448). -/
def State.mgmtOk (s : State) (m : MgmtHdr) (untagged : Bool) : Bool := m.tagOk && (s.mgmtKey || untagged)

/-- A management packet dropped and counted; a tag that fails under an active key is reported (R380, R386, R448). -/
def State.mgmtDrop (s : State) (m : MgmtHdr) : State :=
  let s := s.count (0x310000 + 0x100 * m.via.toNat + 8 * 14) 1
  if s.mgmtKey && !m.tagOk then s.raise (evUnit 5 m.via.toNat 0x1B 1 [(24, 2, m.node.toNat), (26, 2, 0)]) else s

/-- The position of this package in a model's package list (R299). -/
def State.position (s : State) (m : Nat) : Option Nat :=
  (NMap.get? s.models m).bind (fun x => x.pkgs.findIdx? (fun n => n = s.links.inst.node))

/-- Whether this package is a barrier's home (R322). -/
def State.isHome (s : State) (b : Barrier) : Bool :=
  match b.home with
  | none => true
  | some n => decide (n = s.links.inst.node)

/-- One arrival taken by the home: the P-th completes the phase (R319). -/
def Barrier.arrive (b : Barrier) : Barrier :=
  if b.broken then b
  else if b.arrived + 1 = b.p then { b with arrived := 0, phase := (b.phase + 1) % 2 ^ 32 }
  else { b with arrived := b.arrived + 1 }

/-- An arrival counted at this package's object; a completed phase is sent to the other packages (R322). -/
def State.countArrival (s : State) (c ident : Nat) : State :=
  match NMap.get? s.barriers (objKey c ident) with
  | none => s.addDiscarded c ident true
  | some b =>
    let b' := b.arrive
    let s := { s with barriers := NMap.put s.barriers (objKey c ident) b' }
    if b'.phase = b.phase then s
    else if b.home.isSome then (s.decideWaits c).send (.complete ((s.jobOf c).getD 0) ident false)
    else s.decideWaits c

/-- The generation of the partition that serves a job at a node: this package's own, or that of the peer table (R405, R406). -/
def State.genFor (s : State) (job node : Nat) : Nat :=
  if node = s.links.inst.node then ((s.ctxOfJob job).bind s.partOfCtx).elim 1 s.gen
  else NMap.get 1 s.links.peerGen (job * 16384 + node)

/-- An arrival from this package: counted at the home, or forwarded to it under its target's generation (R322, R406). -/
def State.arrive (s : State) (c ident : Nat) : State :=
  match NMap.get? s.barriers (objKey c ident) with
  | none => s.addDiscarded c ident true
  | some b =>
    if s.isHome b then s.countArrival c ident
    else if b.broken then s
    else
      let j := (s.jobOf c).getD 0
      let n := b.home.getD 0
      ({ s with barriers := NMap.put s.barriers (objKey c ident) { b with lastSent := some s.clk.now } }).send
        (.arrive n j ident (s.genFor j n))

/-- Several arrivals. -/
def State.arriveN (s : State) (c ident : Nat) : Nat → State
  | 0 => s
  | n + 1 => (s.arrive c ident).arriveN c ident n

/-- A barrier broken: its event, and the completion that tells other packages of it (R322, R323). -/
def State.breakBarrier (s : State) (c ident : Nat) : State :=
  match NMap.get? s.barriers (objKey c ident) with
  | none => s
  | some b =>
    if b.broken then s
    else
      let s := { s with barriers := NMap.put s.barriers (objKey c ident) { b with broken := true } }
      let s := s.raise { type := 0x33, kind := 1, ctx := some c, unit := 8, index := 0, gen := 0, detail := [(24, 2, ident)] }
      let s := s.decideWaits c
      if b.home.isSome && s.isHome b then s.send (.complete ((s.jobOf c).getD 0) ident true) else s

/-- Whether an object is commit-bound (R281, R324). -/
def State.commitBound (s : State) (c ident : Nat) (barrier : Bool) : Bool :=
  if barrier then ((NMap.get? s.barriers (objKey c ident)).map (·.commitBound)).getD false
  else ((NMap.get? s.signals (objKey c ident)).map (·.commitBound)).getD false

/-- An action merged into those an epoch holds (R281). -/
def mergeHeld (hs : List Held) (e : Held) : List Held :=
  if hs.any (fun x => x.slot = e.slot && x.ctx = e.ctx && x.barrier = e.barrier && x.ident = e.ident) then
    hs.map (fun x => if x.slot = e.slot && x.ctx = e.ctx && x.barrier = e.barrier && x.ident = e.ident then
      { x with amount := x.amount + e.amount } else x)
  else hs ++ [e]

/-- A signal add or arrival made by a work item of a tile: held when the item carries an open epoch and the object is
commit-bound; an item that needs a 65th object ends with ST_NO_RESOURCE (R281). A performed one ends retry safety (R415). -/
def State.act (s : State) (t ident amount : Nat) (barrier : Bool) : State :=
  let k := s.epochItem t
  let c := ((s.tile t).ctx).getD 0
  if k.1 ≠ 0 && s.commitBound c ident barrier then
    let e : Held := { slot := k.2, ctx := c, barrier := barrier, ident := ident, amount := amount }
    let held := mergeHeld s.held e
    if 64 < (held.filter (fun x => x.slot = e.slot && x.ctx = c)).length then
      (s.modCore t (fun k => k.endWith .noResource 0 0)).settle t
    else { s with held := held }
  else
    let s := (s.worksOn t).foldl (fun s w => s.modWork w (fun x => { x with dirty := true })) s
    if barrier then s.arriveN c ident amount else s.signalAdd c ident amount

end Sys2Proof.Machine
end

