-- ==== Sys2Proof/Machine/Drain.lean ====
section
/-! DEFINITION. The drain and the finished-tile queue (06): fields (R107, R108), conversion (R109, R110), outcomes (R112),
the queue (R113) and its write port. -/

namespace Sys2Proof.Machine

def drForm (w : Nat) : Nat := bits w 42 3
def drRound (w : Nat) : Nat := bits w 40 2
def drStream (w : Nat) : Nat := bits w 34 6
def drClear (w : Nat) : Bool := bit w 33
def drDest (w : Nat) : Bool := bit w 27
def drWscale (w : Nat) : Bool := bit w 26
def drTscale (w : Nat) : Bool := bit w 25
def drEref (w : Nat) : Nat := bits w 17 8
def ddWbase (d : Nat) : Nat := bits d 96 25
def ddTbase (d : Nat) : Nat := bits d 64 25
def ddStride (d : Nat) : Nat := bits d 48 16
def ddOut (d : Nat) : Nat := bits d 0 25

/-- The rounding mode of a field: 0 nearest-even, 1 stochastic, 2 toward zero. -/
def roundMode (r : Nat) : RMode := if r = 1 then .stochastic else if r = 2 then .zero else .nearest

/-- Whether a tile works in a reference-mode context (R61). -/
def State.refTile (s : State) (t : Nat) : Bool :=
  match (s.tile t).ctx.bind s.ctx? with | some c => c.refMode | none => false

/-- The form and mode a drain converts in: fp32 nearest-even in reference mode (R110). -/
def drConv (ref : Bool) (w : Nat) : Nat × RMode :=
  if ref && drForm w ≠ 0 then (1, .nearest) else (drForm w, roundMode (drRound w))

/-- Bytes of one output row (R109). -/
def rowBytes (form : Nat) : Nat := [4096, 4096, 2048, 1024, 512].getD form 4096

/-- The drain that may begin: none is draining, and every earlier step operation on its set that touches an entry it reads
has done its last step (R114). -/
def Tile.nextDrain (x : Tile) : Option AOp :=
  (splitOp (fun b o => decide (arKind o.i.word = 2) && !o.begun
      && !b.any (fun p => decide (arKind p.i.word = 2))
      && !b.any (fun p => decide (arKind p.i.word = 0) && decide (p.next < stCount p.i.word)
          && decide (stSet p.i.word = drSet o.i.word) && (stEntries p.i.word).any (fun e => o.unread.contains e)))
    [] x.aops).map (·.2)

/-- DRAIN_BEGIN (R108, R112): ranges, fold tags, the 1,024 weight scales. Addresses and strides that are no multiple of 4 are used
as they stand (DESIGN CHOICE, log entry 160). -/
def execDrainBegin (t : Byte) (upsets : List Upset) (s : State) : Host.Outcome State Fault Refusal :=
  let t := t.toNat
  match (s.tile t).nextDrain with
  | none => .next s
  | some o =>
    let w := o.i.word
    let d := o.i.d0
    let x := s.tile t
    let n := drCount w
    let size := rowBytes (drConv (s.refTile t) w).1
    let inside := (!drWscale w || inSp (ddWbase d) 2048) && (!drTscale w || inSp (ddTbase d) (2 * n))
      && (!drDest w || (List.range n).all (fun k => inSp (ddOut d + k * ddStride d) size))
    let tags := !drFold w || (List.range n).all (fun k =>
      decide ((x.row (drSet w) (drBase w + k)).tag < 2) && decide ((x.row (drSet w) (drBase w + n + k)).tag = 3))
    if x.disabled then .next (s.endA t o.ticket .targetOff 0)
    else if !inside then .next (s.endA t o.ticket .translationFault 0)
    else if !tags then .next (s.endA t o.ticket .formatFault 0)
    else
      let s := s.modTile t (fun x => x.strike upsets)
      if drWscale w then
        let r := s.spRead t (ddWbase d) 2048
        .next (r.2.2.modTile t (fun x => x.modA o.ticket (fun o =>
          { o with begun := true, scales := NMap.tab 0 0 1024 (fun l => leAt r.1 (2 * l) 2), scaleBad := !r.2.1.isEmpty })))
      else .next (s.modTile t (fun x => x.modA o.ticket (fun o => { o with begun := true })))

/-- Whether a drain takes draws: an int32 or fp32 row is exact, and reference mode rounds nearest-even (R60, R109, R110). -/
def drDraws (ref : Bool) (w : Nat) : Bool := !ref && decide (drRound w = 1) && decide (drForm w ≥ 2)

/-- One lane's conversion to fp32 and its flags: rne32 of the integer, the plane scale, the weight and token scales
(R109, R112). -/
def drainLane (w tag : Nat) (v : Int) (ws ts : Nat) : Nat × Nat :=
  let y := rneInt v 1
  let y := if tag = 2 then let z := fScale y.1 ((drEref w : Int) - 141); (z.1, y.2 ||| z.2) else y
  let y := if drWscale w then let z := fMul y.1 (bfTo32 ws); (z.1, y.2 ||| z.2) else y
  if drTscale w then let z := fMul y.1 (bfTo32 ts); (z.1, y.2 ||| z.2) else y

/-- Conversion of an fp32 value to a form, as stored bits, with flags (R57, R109, R112). -/
def convForm (form : Nat) (m : RMode) (y : Nat) (r : Rnd) : Nat × Nat × Rnd :=
  let nanFl := if isNan y then fInvalid else 0
  match form with
  | 1 => (y, nanFl, r)
  | 2 => let b := toBf16 y m r; (b.1, b.2.1 ||| nanFl, b.2.2)
  | 3 => let b := toIntClamp 127 y m r; (wrap 8 b.1, b.2.1 ||| nanFl, b.2.2)
  | _ => let b := toIntClamp 7 y m r; (wrap 4 b.1, b.2.1 ||| nanFl, b.2.2)

/-- The stored bytes of a row's values (R42, R109). -/
def rowData (form : Nat) (vals : NMap Nat) : List Byte :=
  let v := fun l => NMap.get 0 vals l
  match form with
  | 2 => ((List.range 1024).map (fun l => leBytes 2 (v l))).flatten
  | 3 => (List.range 1024).map (fun l => BitVec.ofNat 8 (v l))
  | 4 => (List.range 512).map (fun l => BitVec.ofNat 8 (v (2 * l) % 16 + 16 * (v (2 * l + 1) % 16)))
  | _ => ((List.range 1024).map (fun l => leBytes 4 (v l))).flatten

/-- A row after a drain has read it: promoted, and reset with its tag kept where clear is set (R104, R107). -/
def Row.drained (r : Row) (clear : Bool) : Row :=
  let r := r.promote
  if clear then { Row.reset with tag := r.tag, planeN := r.planeN } else r

/-- Whether a chain run issued before `ord` has still draws to take from a stream (R60). -/
def Tile.earlierVec (x : Tile) (ord j : Nat) : Bool :=
  x.vops.any (fun o => decide (o.i.ord < ord) && decide (vKind o.i.word = 0)
    && decide (chainStream (stagesOf o.i.chain) = some j))

/-- Whether a drain issued before `ord` has still draws to take from a stream (R60). -/
def Tile.earlierDrain (x : Tile) (ord j : Nat) : Bool :=
  x.aops.any (fun o => decide (arKind o.i.word = 2) && decide (o.i.ord < ord) && drDraws false o.i.word
    && decide (drStream o.i.word = j) && decide (o.next < drCount o.i.word))

/-- DRAIN_ROW (R104, R109 to R114): the next row is converted and enters the queue. -/
def execDrainRow (t : Byte) (accErr : List (Nat × Bool)) (residue : Bool) (upsets : List Upset) (s : State) :
    Host.Outcome State Fault Refusal :=
  let t := t.toNat
  let x := s.tile t
  match x.aops.find? (fun o => decide (arKind o.i.word = 2) && o.begun && decide (o.next < drCount o.i.word)) with
  | none => .next s
  | some o =>
    let w := o.i.word
    let d := o.i.d0
    let k := o.next
    let set := drSet w
    let e := drBase w + k
    let f := drBase w + drCount w + k
    let ref := s.refTile t
    let conv := drConv ref w
    if x.checks.any (fun c => c.set = set && (c.entry = e || (drFold w && c.entry = f))) || x.ftq.length ≥ 16
        || (drDraws ref w && x.earlierVec o.i.ord (drStream w)) then .next s
    else
      let s := s.modTile t (fun x => x.strike upsets)
      let tsr := if drTscale w then s.spRead t (ddTbase d + 2 * k) 2 else ([], [], s)
      let ts := leVal tsr.1
      let s := tsr.2.2
      let x := s.tile t
      let row := (x.row set e).promote
      let fold := (x.row set f).promote
      let v0 := fun l => NMap.get 0 row.acc32 l
      let v1 := fun l => if drFold w then v0 l + NMap.get 0 fold.acc32 l else v0 l
      let sat := row.sat || (drFold w && (fold.sat || (List.range 1024).any (fun l => decide (sat32 (v1 l) ≠ v1 l))))
      let v := fun l => sat32 (v1 l)
      let accBad := accErr.any (·.2)
      let poison := row.poison || (drFold w && fold.poison) || o.scaleBad || !tsr.2.1.isEmpty || accBad || residue
      let sid := s.sid t (drStream w)
      let seed := match x.ctx.bind s.ctx? with | some c => c.seed | none => 0
      let r0 : Rnd := { seed := seed, sid := sid, ctr := NMap.get 0 s.rng sid, word := o.word, left := o.left }
      let out := (List.range 1024).foldl (fun (a : List (Nat × Nat) × Nat × Rnd) l =>
        if conv.1 = 0 then (a.1 ++ [(l, wrap 32 (v l))], a.2)
        else
          let y := drainLane w row.tag (v l) (NMap.get 0 o.scales l) ts
          let z := convForm conv.1 conv.2 y.1 a.2.2
          (a.1 ++ [(l, z.1)], a.2.1 ||| y.2 ||| z.2.1, z.2.2)) ([], 0, r0)
      let vals : NMap Nat := out.1.filter (fun p => p.2 ≠ 0)
      let flags := o.flags ||| out.2.1 ||| (if sat then fOverflow else 0)
      let last := decide (k + 1 = drCount w)
      let q : QRow := { ticket := o.ticket, dest := drDest w, last := last, form := conv.1, vals := vals, tag := row.tag,
                        planeN := row.planeN, sat := sat, poison := poison, addr := ddOut d + k * ddStride d }
      let x := x.setRow set e ((x.row set e).drained (drClear w))
      let x := if drFold w then x.setRow set f ((x.row set f).drained (drClear w)) else x
      let res := if poison then Status.poisoned else o.res
      let x := { x with ftq := x.ftq ++ [q] }
      let x := x.modA o.ticket (fun o => { o with next := k + 1, flags := flags, res := res, word := out.2.2.word,
                                                  left := out.2.2.left })
      let s := { s.setTile t x with rng := NMap.set 0 s.rng sid out.2.2.ctr }
      let s := s.raiseAll (accErr.map (fun p => s.evTile t 0x11 (if p.2 then 1 else 0) [(24, 1, set), (25, 1, e), (26, 2, p.1)]))
      let s := if residue then s.raise (s.evTile t 0x26 1 [(24, 1, 2), (32, 8, o.ticket)]) else s
      .next (if last && !drDest w then s.endA t o.ticket res flags else s)

/-- Bytes written to a tile, resident blocks excepted: these are written only by the steward (R192). -/
def State.spWriteOwn (s : State) (t a : Nat) (bs : List Byte) (poison : Bool) : State :=
  if (s.tile t).residentAt a bs.length then
    (List.range bs.length).foldl (fun s i =>
      if (s.tile t).residentAt (a + i) 1 then s else s.spWrite t (a + i) [bs.getD i 0] poison) s
  else s.spWrite t a bs poison

/-- QUEUE_ROW_WRITE (R112, R113): the write port writes the dest 1 row at the head; the drain's last one completes it. -/
def execQueueRowWrite (t : Byte) (s : State) : Host.Outcome State Fault Refusal :=
  let t := t.toNat
  let x := s.tile t
  match x.ftq with
  | [] => .next s
  | q :: r =>
    if !q.dest then .next s
    else
      let s := (s.setTile t { x with ftq := r }).spWriteOwn t q.addr (rowData q.form q.vals) q.poison
      match x.aops.find? (fun o => o.ticket = q.ticket) with
      | some o => if q.last then .next (s.endA t q.ticket o.res o.flags) else .next s
      | none => .next s

end Sys2Proof.Machine
end

