-- ==== Sys2Proof/Machine/Loads.lean ====
section
/-! DEFINITION. Block loads of the lane weight store (04, 05, 11): dense (R70, R77), sparse and structured images (R224 to
R228, R506), transposed (R229), patches (R234, R235), copies (R236), plane blocks (R84 to R86), outcomes (R73, R83). -/

namespace Sys2Proof.Machine

def ldWblock (w : Nat) : Nat := bits w 41 12
def ldForm (w : Nat) : Nat := bits w 39 2
def ldPatch (w : Nat) : Bool := bit w 38
def ldEref (w : Nat) : Nat := bits w 22 8
def spForm (d : Nat) : Nat := bits d 112 2
/-- Blocks of an image: nblk + 1. -/
def spBlocks (d : Nat) : Nat := bits d 100 12 + 1
def spIoff (d : Nat) : Nat := bits d 94 6
def spLgroup (d : Nat) : Nat := bits d 89 5
def spImage (d : Nat) : Nat := bits d 0 25
def pdFromSlot (d : Nat) : Bool := bit d 121
def pdSrc (d : Nat) : Nat := bits d 117 4
def pdFirst (d : Nat) : Nat := bits d 105 12
def pdRecs (d : Nat) : Nat := bits d 93 12 + 1
def pdDir (d : Nat) : Nat := bits d 68 25
def pdList (d : Nat) : Nat := bits d 43 25

/-- A block being loaded: its bytes by 8·lane + k, whether a cell read uncorrectable, and the lane-rows that such cells govern, which
are code 121 in the final block (R506). -/
structure Blk where
  byte : Nat → Nat
  poison : Bool
  ruled : Nat → Bool

/-- A read of a load: bytes, unreadable cells, the state after. -/
abbrev LdRead := List Byte × List Nat × State

/-- Lane-rows of a dense block, `n` of them from lane `lo` on: bytes of cells that read uncorrectable are code 121 (R73, R77). -/
def State.laneRows (s : State) (t w lo n : Nat) : Blk × State :=
  let a := w * 8192 + 8 * lo
  let r := s.spRead t a (8 * n)
  let m : NMap Nat := NMap.tab 121 (8 * lo) (8 * n) (fun i =>
    if r.2.1.contains ((w * 8192 + i) / 8) then 121 else (r.1.getD (i - 8 * lo) 0).toNat)
  ({ byte := fun i => NMap.get 121 m i, poison := !r.2.1.isEmpty, ruled := fun l => r.2.1.contains (w * 1024 + l) }, r.2.2)

/-- A dense block. -/
def State.denseBlock (s : State) (t w : Nat) : Blk × State := s.laneRows t w 0 1024

/-- expand_structured of R226: the eight bytes of a lane-row, or none on a fault. -/
def expandStructured (v n : Nat) : Option (List Nat) :=
  (List.range 8).foldl (fun (acc : Option (List Nat)) k =>
    match acc with
    | none => none
    | some row =>
      let g := (List.range n).foldl (fun (r : Option (NMap Int)) q =>
        match r with
        | none => none
        | some m =>
          let pr := v / 2 ^ (5 * (n * k + q)) % 32
          let pos := pr / 4
          let val := pr % 4
          if pos ≥ 5 || val = 2 then none
          else if val = 0 then some m
          else if (NMap.get? m pos).isSome then none
          else some (NMap.put m pos (if val = 1 then 1 else -1))) (some [])
      g.map (fun m => row ++ [t5 (fun i => NMap.get 0 m i)])) (some [])

/-- F(B) of R224. -/
def imgFront (b : Nat) : Nat := 8 + 8 * ((b + 63) / 64) + 8 * ((b + 1) / 2)

/-- Every byte code 121; of a poisoned one every lane-row is governed by the cell that could not be read. -/
def zeroBlk (poison : Bool) : Blk := { byte := fun _ => 121, poison := poison, ruled := fun _ => poison }

/-- A block of a sparse or structured image (R224 to R228, R231, R506): the block, or a format fault. Codes are checked in the final
block (R40). -/
def State.imageBlock (s : State) (t w d : Nat) : Option Blk × State :=
  let form := spForm d
  let size := [8, 5, 10].getD form 8
  let b := spBlocks d
  let img := spImage d
  let n := ldWblock w
  if (ldForm w = 1 && form ≠ 0) || (ldForm w = 2 && form ≠ 1 && form ≠ 2) || n ≥ b || img % 8 ≠ 0 || !inSp img 8 then
    (none, s)
  else
    let l2 := s.spRead t img 8
    if !l2.2.1.isEmpty then (some (zeroBlk true), l2.2.2)
    else if !bit (leVal l2.1) (n / 64) then (some (zeroBlk false), l2.2.2)
    else
      let a1 := img + 8 + 8 * (n / 64)
      if !inSp a1 8 then (none, l2.2.2)
      else
        let l1 := l2.2.2.spRead t a1 8
        if !l1.2.1.isEmpty then (some (zeroBlk true), l1.2.2)
        else if !bit (leVal l1.1) (n % 64) then (some (zeroBlk false), l1.2.2)
        else
          let ad := img + 8 + 8 * ((b + 63) / 64) + 4 * n
          if !inSp ad 4 then (none, l1.2.2)
          else
            let de := l1.2.2.spRead t ad 4
            let off := 8 * leVal de.1
            let rec_ := img + off
            if !de.2.1.isEmpty then (some (zeroBlk true), de.2.2)
            else if off < imgFront b || !inSp rec_ 128 then (none, de.2.2)
            else
              let l0 := de.2.2.spRead t rec_ 128
              let firstBad := (l0.2.1.map (fun c => 64 * (c - rec_ / 8))).foldl min 1024
              let stored := (List.range firstBad).filter (fun l => bit (leVal l0.1) l)
              let bytes := 8 * ((stored.length * size + 7) / 8)
              let a := rec_ + 128
              if !inSp a bytes then (none, l0.2.2)
              else
                let rows := l0.2.2.spRead t a bytes
                let exp := stored.zipIdx.map (fun (e : Nat × Nat) =>
                  let at_ := e.2 * size
                  let hit := (cellsOf (a + at_) size).any (fun c => rows.2.1.contains c)
                  if hit then (e.1, true, some (List.replicate 8 121))
                  else if form = 0 then (e.1, false, some ((List.range 8).map (fun k => (rows.1.getD (at_ + k) 0).toNat)))
                  else (e.1, false, expandStructured (leAt rows.1 at_ size) form))
                if exp.any (fun e => e.2.2.isNone) then (none, rows.2.2)
                else
                  let m : NMap (Bool × List Nat) := exp.map (fun e => (e.1, e.2.1, e.2.2.getD []))
                  (some { byte := fun k => (NMap.get (false, List.replicate 8 121) m (k / 8)).2.getD (k % 8) 121,
                          poison := !l0.2.1.isEmpty || !rows.2.1.isEmpty,
                          ruled := fun l => decide (firstBad ≤ l) || (NMap.get (false, []) m l).1 }, rows.2.2)

/-- A transposed block: of each source block it reads lane-rows 40u to 40u + 39 (R229 to R231). -/
def State.transposed (s : State) (t w d : Nat) : Option Blk × State :=
  let wb := ldWblock w
  let io := spIoff d
  let u := spLgroup d
  let n := (io + 1023) / 40 + 1
  if spForm d ≠ 3 || io > 39 || u > 25 || wb + n > 2304 then (none, s)
  else
    let r := (List.range n).foldl (fun (r : List Blk × State) k =>
      let b := r.2.laneRows t (wb + k) (40 * u) (min 40 (1024 - 40 * u))
      (r.1 ++ [b.1], b.2)) ([], s)
    let src := fun (l j : Nat) =>
      let x := io + l
      ((r.1.getD (x / 40) (zeroBlk false)).byte (8 * (40 * u + j) + x % 40 / 5), x % 40 % 5)
    let uses := fun (_ j : Nat) => decide (40 * u + j ≤ 1023)
    if (List.range 1024).any (fun l => (List.range 40).any (fun j => uses l j && !t5Valid (src l j).1)) then (none, r.2)
    else
      let byte := fun k => t5 (fun i =>
        let l := k / 8
        let j := 5 * (k % 8) + i
        if uses l j then trit (src l j).1 (src l j).2 else 0)
      (some { byte := byte, poison := r.1.any (·.poison), ruled := fun _ => false }, r.2)

/-- A block with a trit of a byte replaced (R234). -/
def setTrit (p i : Nat) (code : Nat) : Nat := p - (p / 3 ^ i % 3) * 3 ^ i + code * 3 ^ i

/-- A patch merged into a block (R234, R235, R506): the block and the spilled load-time units, or a format fault. -/
def State.patched (s : State) (t w d : Nat) (b : Blk) : Option (Blk × Nat) × State :=
  let wb := ldWblock w
  let r := wb - pdFirst d
  let ad := pdDir d + 8 * r
  if wb < pdFirst d || r ≥ pdRecs d || pdDir d % 8 ≠ 0 || pdList d % 4 ≠ 0 || !inSp ad 8 then (none, s)
  else
    let de := s.spRead t ad 8
    let cnt := leAt de.1 0 2
    let a := pdList d + 4 * leAt de.1 2 4
    if !de.2.1.isEmpty then (some (zeroBlk true, 0), de.2.2)
    else if cnt > 40960 || !inSp a (4 * cnt) then (none, de.2.2)
    else
      let ls := de.2.2.spRead t a (4 * cnt)
      let ovs := ((List.range cnt).filter (fun i => !ls.2.1.contains ((a + 4 * i) / 8))).map (fun i => leAt ls.1 (4 * i) 4)
      let key := fun v => 40 * bits v 22 10 + bits v 16 6
      let bad := ovs.any (fun v => bits v 16 6 > 39 || bits v 14 2 = 3)
        || (ovs.zip (ovs.drop 1)).any (fun p => decide (key p.1 ≥ key p.2))
      let spill := if cnt > 256 then (cnt - 256 + 255) / 256 else 0
      if bad then (none, ls.2.2)
      else if !ls.2.1.isEmpty then (some (zeroBlk true, spill), ls.2.2)
      else
        let m : NMap Nat := ovs.foldl (fun m v =>
          let n := 8 * bits v 22 10 + bits v 16 6 / 5
          NMap.put m n (setTrit (NMap.get (b.byte n) m n) (bits v 16 6 % 5) (bits v 14 2))) []
        (some ({ b with byte := fun n => NMap.get (b.byte n) m n }, spill), ls.2.2)

/-- A plane block loses a slot: its other slots no longer form it (R86). -/
def Tile.breakPlane (x : Tile) (n : Nat) : Tile :=
  match (x.slot n).plane with
  | none => x
  | some p => (List.range' p.first (planeSlots p.b)).foldl (fun x k =>
      let v := x.slot k
      if v.plane = some p then x.setSlot k { v with plane := some { p with intact := false } } else x) x

/-- The load that may begin: loads one at a time in issue order, and no earlier step operation that names its slots has
steps to do (R72, R86). -/
def Tile.nextLoad (x : Tile) : Option AOp :=
  (splitOp (fun b o => decide (arKind o.i.word = 1) && !b.any (fun p => decide (arKind p.i.word = 1))
    && !b.any (fun p => decide (arKind p.i.word = 0) && decide (p.next < stCount p.i.word)
        && (stSlots p.i).any (fun n => (ldSlots o.i.word).contains n))) [] x.aops).map (·.2)

/-- The ranges of the scratchpad that a load of an image block reads: bitmap words, directory entry, record (R224 to R227). -/
def Tile.imageReads (x : Tile) (n d : Nat) : List (Nat × Nat) :=
  let b := spBlocks d
  let img := spImage d
  let a1 := img + 8 + 8 * (n / 64)
  let ad := img + 8 + 8 * ((b + 63) / 64) + 4 * n
  let rec_ := img + 8 * Bytes.le x.sp ad 4
  let rows := ((List.range 1024).filter (fun l => bit (Bytes.le x.sp rec_ 128) l)).length
  (img, 8) :: (if !bit (Bytes.le x.sp img 8) (n / 64) then []
    else (a1, 8) :: (if !bit (Bytes.le x.sp a1 8) (n % 64) then []
      else [(ad, 4), (rec_, 128), (rec_ + 128, rows * [8, 5, 10].getD (spForm d) 8)]))

/-- The ranges that a load reads, those of its patch included. -/
def Tile.loadReads (x : Tile) (o : AOp) : List (Nat × Nat) :=
  let w := o.i.word
  let wb := ldWblock w
  let d := o.i.d1
  let block := if stMode w = 1 then
      let ns := planeSlots (stPlaneN w + 1)
      [(8192 * wb, 8192 * ns)] ++ (if ldForm w = 1 then [(8192 * (wb + ns), 1024)] else [])
    else if ldPatch w && pdFromSlot o.i.d0 then []
    else if ldForm w = 0 then [(8192 * wb, 8192)]
    else if ldForm w = 3 then (List.range ((spIoff d + 1023) / 40 + 1)).map (fun k => (8192 * (wb + k) + 320 * spLgroup d, 320))
    else x.imageReads wb d
  let ad := pdDir o.i.d0 + 8 * (wb - pdFirst o.i.d0)
  block ++ (if stMode w = 0 && ldPatch w then
    [(ad, 8), (pdList o.i.d0 + 4 * Bytes.le x.sp (ad + 2) 4, 4 * Bytes.le x.sp ad 2)] else [])

/-- Whether a load reads a scratchpad block that is marked reloading (R194, R411). -/
def Tile.reloadHeld (x : Tile) (o : AOp) : Bool :=
  (x.loadReads o).any (fun r => x.reload.any (fun b => decide (b * 32768 < r.1 + r.2) && decide (r.1 < (b + 1) * 32768)))

/-- A failed load: the slot keeps its contents, and steps that wait on it fail (R73). -/
def State.failLoad (s : State) (t : Nat) (o : AOp) : State :=
  (s.modTile t (fun x => (ldSlots o.i.word).foldl (fun x n => x.setSlot n { x.slot n with failed := true }) x)).endA t
    o.ticket .formatFault 0

/-- A trit block made ready in its slot: R40 checked, check rows formed, zero mark, poison (R70, R80, R98, R222). -/
def State.finishLoad (s : State) (t : Nat) (o : AOp) (b : Blk) (spill : Nat) : State :=
  let n := stSlot o.i.word
  let m : NMap Nat := NMap.tab 121 0 8192 b.byte
  if m.any (fun e => !t5Valid e.2) then s.failLoad t o
  else
    let wt := fun l i => trit (NMap.get 121 m (8 * l + i / 5)) (i % 5)
    let v : Slot := { bytes := m, sums := colSums wt, poison := b.poison, zero := m.isEmpty && !b.poison, failed := false,
                      plane := none }
    let s := s.modTile t (fun x => (x.breakPlane n).setSlot n v)
    (s.count (0x300000 + 64 * t + 56) spill).endA t o.ticket (if b.poison then .poisoned else .ok) 0

/-- A block whose governed lane-rows are code 121 (R506). -/
def Blk.settle (b : Blk) (ruled : Nat → Bool) : Blk := { b with byte := fun n => if ruled (n / 8) then 121 else b.byte n }

/-- A block with its patch merged, made ready or failed. -/
def State.patchAndFinish (s : State) (t : Nat) (o : AOp) (b : Blk) : State :=
  if ldPatch o.i.word then
    match s.patched t o.i.word o.i.d0 b with
    | (none, s) => s.failLoad t o
    | (some (b', spill), s) => s.finishLoad t o { b'.settle b.ruled with poison := b.poison || b'.poison } spill
  else s.finishLoad t o b 0

/-- BLOCK_LOAD (R70 to R73, R224 to R231, R234, R235). -/
def execBlockLoad (t : Byte) (upsets : List Upset) (s : State) : Host.Outcome State Fault Refusal :=
  let t := t.toNat
  let x := s.tile t
  match x.nextLoad with
  | none => .next s
  | some o =>
    let w := o.i.word
    if stMode w = 1 || (ldPatch w && pdFromSlot o.i.d0) then .next s
    else if x.disabled then .next (s.endA t o.ticket .targetOff 0)
    else if x.reloadHeld o then .next s
    else
      let s := s.modTile t (fun x => x.strike upsets)
      let r : Option Blk × State := match ldForm w with
        | 0 => let b := s.denseBlock t (ldWblock w); (some b.1, b.2)
        | 3 => s.transposed t w o.i.d1
        | _ => s.imageBlock t w o.i.d1
      match r with
      | (none, s) => .next (s.failLoad t o)
      | (some b, s) => .next (s.patchAndFinish t o b)

/-- SLOT_COPY_LOAD (R236). -/
def execSlotCopyLoad (t : Byte) (upsets : List Upset) (s : State) : Host.Outcome State Fault Refusal :=
  let t := t.toNat
  let x := s.tile t
  match x.nextLoad with
  | none => .next s
  | some o =>
    let w := o.i.word
    if stMode w = 1 || !(ldPatch w && pdFromSlot o.i.d0) then .next s
    else if x.disabled then .next (s.endA t o.ticket .targetOff 0)
    else if x.reloadHeld o then .next s
    else
      let v := x.slot (pdSrc o.i.d0)
      if ldForm w ≠ 0 || v.plane.isSome then .next (s.failLoad t o)
      else
        let s := s.modTile t (fun x => x.strike upsets)
        .next (s.patchAndFinish t o { byte := fun n => NMap.get 121 v.bytes n, poison := v.poison,
                                              ruled := fun _ => false })

/-- PLANE_BLOCK_LOAD (R84 to R86, R90, R98). -/
def execPlaneBlockLoad (t : Byte) (upsets : List Upset) (s : State) : Host.Outcome State Fault Refusal :=
  let t := t.toNat
  let x := s.tile t
  match x.nextLoad with
  | none => .next s
  | some o =>
    let w := o.i.word
    if stMode w ≠ 1 then .next s
    else if x.disabled then .next (s.endA t o.ticket .targetOff 0)
    else if x.reloadHeld o then .next s
    else
      let s := s.modTile t (fun x => x.strike upsets)
      let b := stPlaneN w + 1
      let ns := planeSlots b
      let first := stSlot w
      let blks := (List.range ns).foldl (fun (r : List Blk × State) k =>
        let q := r.2.denseBlock t (ldWblock w + k)
        (r.1 ++ [q.1], q.2)) ([], s)
      let ea := (ldWblock w + ns) * 8192
      let er := if ldForm w = 1 then blks.2.spRead t ea 1024 else ([], [], blks.2)
      let ex := fun l => if ldForm w = 1 && !er.2.1.contains ((ea + l) / 8) then (er.1.getD l 0).toNat else ldEref w
      let readBad := ldForm w = 1 && (List.range 1024).any (fun l => !er.2.1.contains ((ea + l) / 8)
        && (ex l = 0 || ex l = 255 || decide (ex l > ldEref w)))
      if readBad then .next (er.2.2.failLoad t o)
      else
        let poison := blks.1.any (·.poison) || !er.2.1.isEmpty
        let p : Plane := { first := first, b := b, eRef := ldEref w, intact := true,
                           exps := NMap.tab (ldEref w) 0 1024 ex }
        let s := er.2.2.modTile t (fun x =>
          let x := (List.range ns).foldl (fun x k => x.breakPlane (first + k)) x
          let x := (blks.1.zipIdx).foldl (fun x (e : Blk × Nat) =>
            x.setSlot (first + e.2) { bytes := NMap.tab 121 0 8192 e.1.byte, sums := [], poison := poison, zero := false,
                                      failed := false, plane := some p }) x
          let wt := fun l i => sgn b ((List.range b).foldl (fun a j =>
            a + if planeBit x first l j i then 2 ^ j else 0) 0)
          x.setSlot first { x.slot first with sums := colSums wt })
        .next (s.endA t o.ticket (if poison then .poisoned else .ok) 0)

end Sys2Proof.Machine
end

