-- ==== Sys2Proof/Machine/Vector.lean ====
section
/-! DEFINITION. The vector engine (07): slot values (R120, R121), chains (R122, R123), stages (R124), streams (R126,
R127), queue input (R128), reductions (R129), SPLIT (R130), look-up slots (R131, R132), order (R133), outcomes (R139). -/

namespace Sys2Proof.Machine

/-- The operands a stage names (R124). -/
def sgSources (g : Nat) : List Nat :=
  let op := sgOp g
  [sgA g] ++ (if 1 ≤ op && op ≤ 7 then [sgB g] else []) ++ (if op = 7 then [sgC g] else [])

/-- The inputs in0 to in3 that the stages use (R121, R123). -/
def usedIns (st : List Nat) : List Nat := (List.range 4).filter (fun k => st.any (fun g => (sgSources g).contains (k + 1)))

/-- The sinks the stages use. -/
def usedOuts (st : List Nat) : List Nat := (List.range 2).filter (fun k => st.any (fun g => decide (sgSink g = k + 1)))

/-- Whether a chain is legal (R123). -/
def chainLegal (st : List Nat) : Bool :=
  let count := fun (p : Nat → Bool) => (st.filter p).length
  !st.isEmpty
    && !((sgSources (st.getD 0 0)).contains 0)
    && st.all (fun g => decide (sgOp g ≤ 12) && !(sgOp g = 6 && sgSub g > 5) && !(sgOp g = 9 && sgSub g > 4)
        && !(sgOp g = 11 && sgSub g > 2) && !(sgOp g = 9 && sgRound g = 3) && decide (sgSink g ≠ 3)
        && decide (bits g 32 3 = 0))
    && decide (count (fun g => sgOp g = 9 && sgRound g = 1) ≤ 1)
    && decide (count (fun g => sgOp g = 12) ≤ 1)
    && [1, 2].all (fun k => decide (count (fun g => sgSink g = k && sgOp g = 11) ≤ 1)
        && decide (count (fun g => sgSink g = k && sgOp g ≠ 11) ≤ 1))

/-- Whether a descriptor may be used (R121). -/
def vdLegal (d : Nat) (sink : Bool) : Bool :=
  decide (vdSource d < 2) && decide (vdFormat d ≤ 5) && !(sink && vdSource d ≠ 0)
    && !(vdSource d = 0 && vdFormat d = 5 && vdStride d > 1)

/-- Whether a vector-slot value is legal, with the chain and descriptors in force at issue (R121). -/
def vecLegal (w : Nat) (chain : List Nat) (vd : Nat → Nat) : Bool :=
  if vKind w = 0 then
    let st := stagesOf chain
    decide (vCount w % vSeg w = 0) && decide (bits w 0 5 = 0) && chainLegal st
      && (usedIns st).all (fun k => vdLegal (vd (vIn w k)) false)
      && (usedOuts st).all (fun k => vdLegal (vd (vOut w k)) true)
      && !((usedIns st).any (fun k => vdSource (vd (vIn w k)) = 1) && vCount w % 1024 ≠ 0)
  else if vKind w = 1 then decide (vAddr w % 4 = 0) && decide (bits w 0 35 = 0)
  else false

/-! ### Streams (R127) -/

/-- Bytes of a position in half bytes: 8 for 4 B, 1 for A4 (R127). -/
def vdHalves (d : Nat) : Nat := [8, 4, 8, 4, 2, 1].getD (vdFormat d) 8

/-- The half-byte address of position p (R127). -/
def vdAt (d p : Nat) : Nat := 2 * vdBase d + p * vdStride d * vdHalves d

/-- Whether positions 0 to n - 1 of a stream lie wholly in the populated scratchpad (R127). -/
def vdInside (d n : Nat) : Bool := n = 0 || decide (vdAt d (n - 1) + vdHalves d ≤ 2 * spSize)

/-- A stream value as fp32 with flags (R127). -/
def vdValue (format v : Nat) : Nat × Nat :=
  match format with
  | 0 => (v, 0)
  | 1 => (if isNan (bfTo32 v) then nan32 else bfTo32 v, 0)
  | 2 => rneInt (sgn 32 v) 1
  | 3 => rneInt (sgn 16 v) 1
  | 4 => rneInt (sgn 8 v) 1
  | _ => ((rneInt (sgn 4 v) 1).1, if v = 8 then fInvalid else 0)

/-- The value of one position read from the tile: fp32 bits, flags, poison (R127, R137). -/
def State.vRead (s : State) (t d p : Nat) : (Nat × Nat × Bool) × State :=
  let h := vdAt d p
  let n := (vdHalves d + 1) / 2
  let r := s.spReadQuiet t (h / 2) n
  let v := if vdFormat d = 5 then (leVal r.1 / (if h % 2 = 1 then 16 else 1)) % 16 else leVal r.1
  let x := vdValue (vdFormat d) v
  ((x.1, x.2, !r.2.1.isEmpty), if h % 2 = 1 then r.2.2 else r.2.2.countSp t (h / 2) n false)

/-- An fp32 value converted for a sink (R127): stored bits and flags. -/
def sinkConv (format v : Nat) : Nat × Nat :=
  match format with
  | 0 => (v, 0)
  | 1 => let b := toBf16 v .nearest noRnd; (b.1, b.2.1)
  | 2 => let b := toInt32 v; (wrap 32 b.1, b.2)
  | 3 => let b := toIntClamp 32639 v .nearest noRnd; (wrap 16 b.1, b.2.1)
  | 4 => let b := toIntClamp 127 v .nearest noRnd; (wrap 8 b.1, b.2.1)
  | _ => let b := toIntClamp 7 v .nearest noRnd; (wrap 4 b.1, b.2.1)

/-- Sink values written to the tile: (half-byte address, half bytes, bits, poison). Neighbouring values are written in
one access, so a cell they cover whole loses its mark; cells of poisoned values are marked (R137, R188). -/
def State.vWrite (s : State) (t : Nat) (ws : List (Nat × Nat × Nat × Bool)) : State :=
  let nib := ws.foldl (fun (m : NMap Nat) e =>
    (List.range e.2.1).foldl (fun m i => NMap.put m (e.1 + i) (e.2.2.1 / 16 ^ i % 16)) m) []
  let addrs := ((nib.map (fun e => e.1 / 2)).foldl insertNat [])
  let old := fun a => (Bytes.rd1 (s.tile t).sp a).toNat
  let byte := fun a => BitVec.ofNat 8 (NMap.get (old a % 16) nib (2 * a) + 16 * NMap.get (old a / 16) nib (2 * a + 1))
  let runs := addrs.foldl (fun (rs : List (Nat × Nat)) a =>
    match rs with
    | (b, n) :: r => if a = b + n then (b, n + 1) :: r else (a, 1) :: (b, n) :: r
    | [] => [(a, 1)]) []
  let s := runs.reverse.foldl (fun s e =>
    s.spWriteOwn t e.1 ((List.range e.2).map (fun i => byte (e.1 + i))) false) s
  s.modTile t (fun x => { x with poison := (ws.filter (·.2.2.2)).foldl (fun p e =>
    if x.residentAt (e.1 / 2) 1 then p else (cellsOf (e.1 / 2) ((e.2.1 + 1) / 2)).foldl insertNat p) x.poison })

/-! ### Look-up (R131, R132) -/

/-- Whether a look-up header is valid (R131). -/
def lutValid (h : Nat) : Bool :=
  decide (bits h 48 80 = 0) && decide (bits h 46 2 ≠ 3) && decide (bits h 44 2 ≠ 3) && decide (bits h 42 2 ≠ 3)
    && decide (bits h 40 2 = 0) && decide (-24 ≤ sgn 8 (bits h 32 8)) && decide (sgn 8 (bits h 32 8) ≤ 24)
    && decide (bits h 23 8 ≠ 255)

/-- Overflow and underflow only: the flags the roundings of a look-up raise (R132). -/
def roundFlags (f : Nat) : Nat := f &&& (fOverflow + fUnderflow)

/-- The interpolation of R132 at u, scaled by ±2^k. -/
def lutInterp (l : Lut) (u : Nat) (neg : Bool) (k : Int) : Nat × Nat :=
  let v := fun i => NMap.get 0 l.v i
  let q := (fp32Val u).q
  let i := min (q.1 / (q.2 : Int)).toNat 254
  let f := (fSub u (rneInt i 1).1).1
  let d := fSub (v (i + 1)) (v i)
  let m := fMul f d.1
  let y := fAdd (v i) m.1
  let z := fScale y.1 k
  (if neg then fNeg z.1 else z.1, roundFlags (d.2 ||| m.2 ||| y.2 ||| z.2))

/-- A tail of a linear look-up (R132). -/
def lutTail (code x v : Nat) : Nat × Nat :=
  match code with
  | 0 => (v, fClamped)
  | 1 => (x, 0)
  | _ => (0, 0)

/-- lut of R132. -/
def lutVal (l : Lut) (x : Nat) : Nat × Nat :=
  let mode := bits l.hdr 46 2
  match fp32Val x with
  | .nan => (nan32, fInvalid)
  | xv =>
    if mode = 0 then
      let u := (fScale (fSub x (bits l.hdr 0 32)).1 (-(sgn 8 (bits l.hdr 32 8)))).1
      if fLt u 0 then lutTail (bits l.hdr 44 2) x (NMap.get 0 l.v 0)
      else if fLt 0x437F0000 u then lutTail (bits l.hdr 42 2) x (NMap.get 0 l.v 255)
      else lutInterp l u false 0
    else match xv with
      | .nan => (nan32, fInvalid)
      | .inf neg => if mode = 2 && neg then (nan32, fInvalid) else (zeroBits 24 neg, 0)
      | .fin neg n d =>
        if n = 0 then (infBits 24 neg, fDivZero)
        else if mode = 2 && neg then (nan32, fInvalid)
        else
          let k := frexpK n d
          let odd := decide (mode = 2) && decide (k % 2 = 1)
          let k' := if odd then k - 1 else k
          let (mn, md) := if 0 ≤ k' then (n, d * 2 ^ k'.toNat) else (n * 2 ^ (-k').toNat, d)
          let u := (rneInt (((mn : Int) - md) * (if mode = 1 then 255 else 85)) md).1
          if mode = 1 then lutInterp l u neg (-k) else lutInterp l u false (-(k' / 2))

/-! ### Stages (R124) -/

/-- What one element carries along the chain. -/
structure Elem where
  prev : Nat
  save : Nat
  pPrev : Bool
  pSave : Bool
  flags : Nat
  deriving DecidableEq, Repr, Inhabited

/-- NaN made canonical. -/
def canon (a : Nat) : Nat := if isNan a then nan32 else a

/-- CMP of R124. -/
def vCmp (sub a b : Nat) : Bool :=
  match sub with
  | 0 => fEq a b
  | 1 => !fEq a b
  | 2 => fLt a b
  | 3 => fLt a b || fEq a b
  | 4 => fLt b a
  | _ => fLt b a || fEq a b

/-- CVT of R124: the fp32 of the converted value, flags, stream. To an integer format a NaN raises invalid (R135). -/
def vCvt (sub a : Nat) (m : RMode) (r : Rnd) : Nat × Nat × Rnd :=
  match sub with
  | 0 => let b := toBf16 a m r; (bfTo32 b.1, b.2.1, b.2.2)
  | 4 => match fp32Val a with
    | .nan => (nan32, fInvalid, r)
    | .inf _ => (a, fInvalid, r)
    | .fin neg n d =>
      let x := roundR (signedInt neg n) d m r
      ((rneInt x.1 1).1, 0, x.2)
  | _ =>
    let b := toIntClamp ([0, 127, 7, 32639].getD sub 127) a m r
    ((rneInt b.1 1).1, b.2.1 ||| (if isNan a then fInvalid else 0), b.2.2)

/-- The result of a stage on its operands: value, flags, stream. -/
def stageVal (lut : Nat → Lut) (ref : Bool) (g a b c : Nat) (r : Rnd) : Nat × Nat × Rnd :=
  let nn := fun (x : Nat × Nat) => (x.1, x.2, r)
  match sgOp g with
  | 1 => nn (fAdd a b)
  | 2 => nn (fSub a b)
  | 3 => nn (fMul a b)
  | 4 => nn (fMax a b, 0)
  | 5 => nn (fMin a b, 0)
  | 6 => nn (if vCmp (sgSub g) a b then 0x3F800000 else 0, if isNan a || isNan b then fInvalid else 0)
  | 7 => nn (canon (if !isNan c && c % 2 ^ 31 ≠ 0 then a else b), 0)
  | 8 => nn (fScale a (sgn 8 (sgImm g)))
  | 9 => vCvt (sgSub g) a (if ref && sgRound g = 1 then .nearest else roundMode (sgRound g)) r
  | 10 =>
    let v := lutVal (lut (sgSub g % 4)) a
    nn (canon v.1, v.2)
  | _ => nn (canon a, 0)

/-! ### Order and begin (R130, R133, R139) -/

/-- The look-up slots a chain uses. -/
def chainLuts (st : List Nat) : List Nat := (st.filter (fun g => sgOp g = 10)).map (fun g => sgSub g % 4)

/-- The vector operation that may begin: one at a time in issue order; a load into an unused slot may pass a run (R133). -/
def vMayRun (before : List VOp) (o : VOp) : Bool :=
  if vKind o.i.word = 1 then
    before.all (fun p => decide (vKind p.i.word = 0) && !(chainLuts (stagesOf p.i.chain)).contains (vSlot o.i.word))
  else before.all (fun p => decide (vKind p.i.word = 1) &&
    !(chainLuts (stagesOf o.i.chain)).contains (vSlot p.i.word))

/-- The first vector operation that satisfies a test and may run. -/
def findV (p : VOp → Bool) : List VOp → List VOp → Option VOp
  | _, [] => none
  | before, o :: r => if p o && vMayRun before o then some o else findV p (before ++ [o]) r

/-- A vector operation changed. -/
def Tile.modV (x : Tile) (ticket : Nat) (f : VOp → VOp) : Tile :=
  { x with vops := x.vops.map (fun o => if o.ticket = ticket then f o else o) }

/-- A vector operation completes. -/
def State.endV (s : State) (t ticket : Nat) (st : Status) (flags : Nat) : State :=
  (s.modTile t (fun x => { x with vops := x.vops.filter (fun o => decide (o.ticket ≠ ticket)) })).complete t 1 ticket st
    flags

/-- The descriptor of input k, and of sink k, of a run. -/
def VOp.inD (o : VOp) (k : Nat) : Nat := NMap.get 0 o.i.vdesc (vIn o.i.word k)
def VOp.outD (o : VOp) (k : Nat) : Nat := NMap.get 0 o.i.vdesc (vOut o.i.word k)

/-- The SPLIT stage of a chain. -/
def splitStage (st : List Nat) : Option Nat := st.find? (fun g => sgOp g = 12)

/-- Positions a sink stage of a run writes. -/
def sinkPositions (w g : Nat) (d : Nat) : Nat :=
  let segs := vCount w / vSeg w
  if sgOp g = 11 then segs
  else if sgOp g = 12 then segs * sgListLen g
  else if vdPerSeg d then segs else vCount w

/-- The address range of a sink stage: SPLIT writes A16 whatever the format (R130). -/
def sinkDesc (g d : Nat) : Nat := if sgOp g = 12 then d - bits d 86 3 * 2 ^ 86 + 3 * 2 ^ 86 else d

/-- Whether every position of a run, and the SPLIT list, lies in the populated scratchpad (R127, R130). -/
def VOp.inside (o : VOp) : Bool :=
  let w := o.i.word
  let st := stagesOf o.i.chain
  (usedIns st).all (fun k =>
    let d := o.inD k
    vdSource d = 1 || vdInside d (if vdPerSeg d then vCount w / vSeg w else vCount w))
  && st.all (fun g => sgSink g = 0 ||
    vdInside (sinkDesc g (o.outD (sgSink g - 1))) (sinkPositions w g (o.outD (sgSink g - 1))))
  && (match splitStage st with | some g => sgListLen g = 0 || inSp (sgListAt g) (2 * sgListLen g) | none => true)

/-- CHAIN_RUN_BEGIN (R127, R130, R139): ranges, SPLIT list, stride-0 streams. -/
def execChainRunBegin (t : Byte) (upsets : List Upset) (s : State) : Host.Outcome State Fault Refusal :=
  let t := t.toNat
  match findV (fun o => vKind o.i.word = 0 && !o.begun) [] (s.tile t).vops with
  | none => .next s
  | some o =>
    let st := stagesOf o.i.chain
    if !o.inside then .next (s.endV t o.ticket .translationFault 0)
    else
      let s := s.modTile t (fun x => x.strike upsets)
      let lr := match splitStage st with
        | some g => s.spRead t (sgListAt g) (2 * sgListLen g)
        | none => ([], [], s)
      let list := (List.range (lr.1.length / 2)).map (fun i => leAt lr.1 (2 * i) 2)
      let asc := (List.range (list.length - 1)).all (fun i => decide (list.getD i 0 < list.getD (i + 1) 0))
      let s := lr.2.2
      if !lr.2.1.isEmpty then .next (s.endV t o.ticket .poisoned 0)
      else if list.length > 80 || !asc || list.any (fun j => decide (j ≥ vSeg o.i.word)) then
        .next (s.endV t o.ticket .formatFault 0)
      else
        let once := ((usedIns st).filter (fun k => vdSource (o.inD k) = 0 && vdStride (o.inD k) = 0)).foldl
          (fun (r : NMap (Nat × Bool) × Nat × State) k =>
            let v := r.2.2.vRead t (o.inD k) 0
            (NMap.put r.1 k (v.1.1, v.1.2.2), r.2.1 ||| v.1.2.1, v.2)) ([], 0, s)
        .next (once.2.2.modTile t (fun x => x.modV o.ticket (fun o =>
          { o with begun := true, once := once.1, flags := o.flags ||| once.2.1, split := list })))

/-! ### Beats (R119, R134, R137) -/

/-- The run that has begun. -/
def Tile.running (x : Tile) : Option VOp := x.vops.find? (fun o => vKind o.i.word = 0 && o.begun)

/-- Whether a run takes rows from the queue. -/
def VOp.usesQueue (o : VOp) : Bool := (usedIns (stagesOf o.i.chain)).any (fun k => vdSource (o.inD k) = 1)

/-- A queue element as fp32 with flags (R128). -/
def queueValue (q : QRow) (d j : Nat) : Nat × Nat :=
  let y := rneInt (sgn 32 (NMap.get 0 q.vals j)) 1
  let y := if q.tag = 2 then let z := fScale y.1 ((vdEref d : Int) - 141); (z.1, y.2 ||| z.2) else y
  (y.1, y.2 ||| (if q.sat then fOverflow else 0))

/-- The input values of one element: by input, fp32 bits and poison; flags; the state after the reads. -/
def State.elemIns (s : State) (t : Nat) (o : VOp) (ins : List Nat) (i : Nat) : (NMap (Nat × Bool) × Nat) × State :=
  ins.foldl (fun (r : (NMap (Nat × Bool) × Nat) × State) k =>
    let d := o.inD k
    match NMap.get? o.once k with
    | some v => ((NMap.put r.1.1 k v, r.1.2), r.2)
    | none =>
      if vdSource d = 1 then
        match o.qrow with
        | some q =>
          let v := queueValue q d (i % 1024)
          ((NMap.put r.1.1 k (v.1, q.poison), r.1.2 ||| v.2), r.2)
        | none => r
      else
        let v := r.2.vRead t d (if vdPerSeg d then i / vSeg o.i.word else i)
        ((NMap.put r.1.1 k (v.1.1, v.1.2.2), r.1.2 ||| v.1.2.1), v.2)) (([], 0), s)

/-- What one element's pass yields: its sink writes, and what its reductions gather by stage. -/
structure Pass where
  flags : Nat
  rnd : Rnd
  writes : List (Nat × Nat × Nat × Bool)
  reds : List (Nat × Nat × Bool)
  poison : Bool

/-- An operand by its source code (R123). -/
def operand (ins : NMap (Nat × Bool)) (e : Elem) (g src : Nat) : Nat × Bool :=
  match src with
  | 0 => (e.prev, e.pPrev)
  | 5 => (sgImm g, false)
  | 6 => (e.save, e.pSave)
  | 7 => (0, false)
  | k => NMap.get (0, false) ins (k - 1)

/-- A write of a value to a sink at a position. -/
def sinkWrite (d p v : Nat) (poison : Bool) : (Nat × Nat × Nat × Bool) × Nat :=
  let c := sinkConv (vdFormat d) v
  ((vdAt d p, vdHalves d, c.1, poison), c.2)

/-- One element through the stages (R122 to R130, R137). `struck` lists the stages at which its residue does not match; at a RED stage
it is the reduction that takes the poison (R138). -/
def elemPass (lut : Nat → Lut) (ref : Bool) (o : VOp) (st : List Nat) (i : Nat) (ins : NMap (Nat × Bool)) (rnd : Rnd)
    (struck : List Nat) : Pass :=
  let w := o.i.word
  let r := (st.zipIdx).foldl (fun (r : Elem × Pass) gn =>
    let g := gn.1
    let e := r.1
    let p := r.2
    let a := operand ins e g (sgA g)
    let names := sgSources g
    let b := if names.length ≥ 2 then operand ins e g (sgB g) else (0, false)
    let c := if names.length ≥ 3 then operand ins e g (sgC g) else (0, false)
    let v := stageVal lut ref g a.1 b.1 c.1 p.rnd
    let hurt := struck.contains gn.2
    let red := decide (sgOp g = 11)
    let pois := a.2 || b.2 || c.2 || (hurt && !red) || (decide (sgOp g = 10) && (lut (sgSub g % 4)).poison)
    let j := i % vSeg w
    let hit := decide (sgOp g = 12) && o.split.contains j
    let out := if hit then 0 else v.1
    let d := sinkDesc g (o.outD (sgSink g - 1))
    let sink : List ((Nat × Nat × Nat × Bool) × Nat) :=
      if hit then [sinkWrite d (i / vSeg w * o.split.length + o.split.idxOf j) v.1 pois]
      else if sgSink g = 0 || red || sgOp g = 12 then []
      else [sinkWrite d (if vdPerSeg d then i / vSeg w else i) out pois]
    ({ prev := out, pPrev := pois, save := if sgSave g then out else e.save, pSave := if sgSave g then pois else e.pSave,
       flags := 0 },
     { flags := p.flags ||| v.2.1 ||| (sink.map (·.2)).foldl (· ||| ·) 0
       rnd := v.2.2
       writes := if sgSink g = 0 then p.writes else p.writes ++ sink.map (·.1)
       reds := if red then p.reds ++ [(gn.2, v.1, pois || hurt)] else p.reds
       poison := p.poison || pois || hurt }))
    (({ prev := 0, save := 0, pPrev := false, pSave := false, flags := 0 } : Elem),
     ({ flags := 0, rnd := rnd, writes := [], reds := [], poison := false } : Pass))
  r.2

/-- The reduction of a segment's values (R129). -/
def reduce (sub : Nat) (xs : List Nat) : Nat × Nat :=
  match sub, xs with
  | 0, xs => fixedSum xs
  | 1, x :: r => (r.foldl fMax x, 0)
  | _, x :: r => (r.foldl fMin x, 0)
  | _, [] => (0, 0)

/-- VECTOR_BEAT (R119, R124 to R130, R134 to R139): up to 128 elements pass the stages and sinks; the last beat completes
the run. `residue` lists the mismatches: (element, stage). -/
def execVectorBeat (t : Byte) (residue : List (Nat × Nat)) (upsets : List Upset) (s : State) :
    Host.Outcome State Fault Refusal :=
  let t := t.toNat
  let x := s.tile t
  match x.running with
  | none => .next s
  | some o =>
    let w := o.i.word
    let st := stagesOf o.i.chain
    let ref := s.refTile t
    let stream := if ref then none else chainStream st
    let lo := 128 * o.beat
    let n := min 128 (vCount w - lo)
    if o.reject || (o.usesQueue && o.qrow.isNone)
        || (match stream with | some j => x.earlierDrain o.i.ord j | none => false) then .next s
    else
      let s := s.modTile t (fun x => x.strike upsets)
      let lut := fun k => NMap.get Lut.reset x.luts k
      let sid := s.sid t (stream.getD 0)
      let seed := match x.ctx.bind s.ctx? with | some c => c.seed | none => 0
      let rnd : Rnd := { seed := seed, sid := sid, ctr := NMap.get 0 s.rng sid, word := o.word, left := o.left }
      let ins := usedIns st
      let r := (List.range' lo n).foldl (fun (r : State × Pass × NMap (List (Nat × Bool))) i =>
          let iv := r.1.elemIns t o ins i
          let p := elemPass lut ref o st i iv.1.1 r.2.1.rnd ((residue.filter (fun e => e.1 = i)).map (·.2))
          let acc := p.reds.foldl (fun m e => NMap.put m e.1 (NMap.get [] m e.1 ++ [e.2])) r.2.2
          let ends := decide ((i + 1) % vSeg w = 0)
          let red := if ends then (st.zipIdx.filter (fun g => sgOp g.1 = 11)).map (fun g =>
              let vs := NMap.get [] acc g.2
              let v := reduce (sgSub g.1) (vs.map (·.1))
              let d := o.outD (sgSink g.1 - 1)
              let k := sinkWrite d (i / vSeg w) v.1 (vs.any (·.2))
              (if sgSink g.1 = 0 then [] else [k.1], v.2 ||| (if sgSink g.1 = 0 then 0 else k.2))) else []
          (iv.2,
           { flags := r.2.1.flags ||| p.flags ||| iv.1.2 ||| (red.map (·.2)).foldl (· ||| ·) 0
             rnd := p.rnd
             writes := r.2.1.writes ++ p.writes ++ (red.map (·.1)).flatten
             reds := []
             poison := r.2.1.poison || p.poison },
           if ends then [] else acc))
        (s, { flags := 0, rnd := rnd, writes := [], reds := [], poison := false }, o.acc)
      let p := r.2.1
      let s := r.1.vWrite t p.writes
      let s := { s with rng := if stream.isSome then NMap.set 0 s.rng sid p.rnd.ctr else s.rng }
      let s := s.raiseAll ((residue.filter (fun e =>
          decide (lo ≤ e.1) && decide (e.1 < lo + n) && decide (e.2 < st.length))).map (fun _ =>
        s.evTile t 0x12 1 [(24, 8, o.ticket), (32, 2, o.beat)]))
      let flags := o.flags ||| p.flags
      let poison := o.poison || p.poison
      if lo + n = vCount w then .next (s.endV t o.ticket (if poison then .poisoned else .ok) flags)
      else .next (s.modTile t (fun x => x.modV o.ticket (fun o =>
        { o with beat := o.beat + 1, acc := r.2.2, flags := flags, poison := poison, word := p.rnd.word, left := p.rnd.left,
                 qrow := if (lo + n) % 1024 = 0 then none else o.qrow })))

/-- QUEUE_ROW_CONSUME (R113, R128, R139): the run takes the row at the head of the queue, or rejects it by its tag and
discards the rows it would still take. -/
def execQueueRowConsume (t : Byte) (s : State) : Host.Outcome State Fault Refusal :=
  let t := t.toNat
  let x := s.tile t
  match x.running, x.ftq with
  | some o, q :: r =>
    let st := stagesOf o.i.chain
    let rows := vCount o.i.word / 1024
    if q.dest || !o.usesQueue || o.qrow.isSome || o.qdone ≥ rows then .next s
    else
      let bad := o.reject || (usedIns st).any (fun k => vdSource (o.inD k) = 1 && !bit (vdMask (o.inD k)) q.tag)
      let s := s.setTile t { x with ftq := r }
      if bad && o.qdone + 1 = rows then .next (s.endV t o.ticket .formatFault o.flags)
      else .next (s.modTile t (fun x => x.modV o.ticket (fun o =>
        { o with qdone := o.qdone + 1, reject := bad, qrow := if bad then none else some q })))
  | _, _ => .next s

/-- LOOKUP_SLOT_LOAD (R131, R133, R139). -/
def execLookupSlotLoad (t : Byte) (upsets : List Upset) (s : State) : Host.Outcome State Fault Refusal :=
  let t := t.toNat
  match findV (fun o => vKind o.i.word = 1) [] (s.tile t).vops with
  | none => .next s
  | some o =>
    let a := vAddr o.i.word
    if !inSp a 1040 then .next (s.endV t o.ticket .translationFault 0)
    else
      let s := s.modTile t (fun x => x.strike upsets)
      let r := s.spRead t a 1040
      let hdr := leAt r.1 1024 16
      if !lutValid hdr then .next (r.2.2.endV t o.ticket .formatFault 0)
      else
        let pois := !r.2.1.isEmpty
        let v : Lut := { v := NMap.tab 0 0 256 (fun i => leAt r.1 (4 * i) 4), hdr := hdr, poison := pois }
        .next ((r.2.2.modTile t (fun x => { x with luts := NMap.set Lut.reset x.luts (vSlot o.i.word) v })).endV t o.ticket
          (if pois then .poisoned else .ok) 0)

end Sys2Proof.Machine
end

