-- ==== Sys2Proof/Machine/Scalar.lean ====
section
/-! DEFINITION. Scalar instructions (08, R146 to R154) as shared operations: `sAlu` and its companions give what an
instruction does in either place it can stand, as a row of its own or in the scalar slot of a bundle; `State.row` fetches
and commits a row (R157, R165 to R172). `late` says that the result is still on its way when the next instruction issues
(R168, R173). -/

namespace Sys2Proof.Machine

/-- What a scalar instruction does: it waits, raises an exception, completes (with the target of a taken transfer), or
starts run-ahead at an unresolved branch. -/
inductive SRes where
  | stall
  | exc (cause detail : Nat)
  | done (s : State) (taken : Option Nat)
  | ahead (s : State)

/-- ILLEGAL_INSTRUCTION with the word as its detail (R166). -/
def illegal (w : Nat) : SRes := .exc 3 w

/-- Whether any of the registers is pending. -/
def Core.waits (c : Core) (ds : List Dst) : Bool := ds.any c.isPending

/-- Whether any branch is unresolved. -/
def Core.ahead (c : Core) : Bool := !c.ckpts.isEmpty

/-- A provisional effect recorded (R170). -/
def Core.push (c : Core) (p : Prov) : Core := { c with prov := c.prov ++ [p] }

/-- A register result of an instruction. -/
def State.res (s : State) (t : Nat) (late : Bool) (deps : List Dst) (d : Dst) (v : Nat) : SRes :=
  .done (s.modCore t (fun c => c.result late deps d v)) none

/-- Scalar flags into STICKY_STATUS, at commit when provisional (R150, R170). -/
def State.stick (s : State) (t fl : Nat) : State :=
  if fl = 0 then s
  else s.modCore t (fun c => if c.ahead then c.push (.sticky fl) else { c with sticky := c.sticky ||| fl })

/-! ### Integer operations (R147, R148) -/

/-- ALU by fn; `p` is the predicate SEL reads. -/
def aluVal (fn a b : Nat) (p : Bool) : Nat :=
  let m := 2 ^ 64
  let n := b % 64
  let sa := sgn 64 a
  let sb := sgn 64 b
  match fn with
  | 0 => (a + b) % m
  | 1 => (a + (m - b % m)) % m
  | 2 => a &&& b
  | 3 => a ||| b
  | 4 => a ^^^ b
  | 5 => a * 2 ^ n % m
  | 6 => a / 2 ^ n
  | 7 => wrap 64 (sa / (2 ^ n : Nat))
  | 8 => a * b % m
  | 9 => a * b / m
  | 10 => if b = 0 then m - 1 else a / b
  | 11 => if b = 0 then a else a % b
  | 12 => if b = 0 then m - 1 else wrap 64 (sa.tdiv sb)
  | 13 => if b = 0 then a else wrap 64 (sa.tmod sb)
  | 14 => if sa ≤ sb then a else b
  | 15 => if sa ≥ sb then a else b
  | 16 => min a b
  | 17 => max a b
  | _ => if p then a else b

/-- ALU. An fn that the table does not list raises ILLEGAL_INSTRUCTION, here and below, as an unlisted sz does (DESIGN CHOICE, log
entry 163). -/
def sAlu (t : Nat) (late : Bool) (rd ra rb rc fn w : Nat) (s : State) : SRes :=
  let c := (s.tile t).core
  if fn > 18 || (fn = 18 && rc ≥ 8) || (fn ≠ 18 && rc ≠ 0) then illegal w
  else if c.waits ([.g ra, .g rb] ++ if fn = 18 then [.p rc] else []) then .stall
  else s.res t late [] (.g rd) (aluVal fn (c.rg ra) (c.rg rb) (c.rp rc))

/-- An instruction of one g source and an immediate: the result is a function of the source. -/
def sUnary (t : Nat) (late : Bool) (rd ra : Nat) (f : Nat → Nat) (s : State) : SRes :=
  let c := (s.tile t).core
  if c.waits [.g ra] then .stall else s.res t late [] (.g rd) (f (c.rg ra))

/-- SHI (R147). -/
def sShi (t : Nat) (late : Bool) (rd ra imm w : Nat) (s : State) : SRes :=
  let n := imm % 64
  let kind := imm / 64 % 4
  if imm / 256 ≠ 0 || kind = 3 then illegal w
  else sUnary t late rd ra (fun a => aluVal (5 + kind) a n false) s

/-- LI and LIS (R147). -/
def sLi (t : Nat) (late : Bool) (rd imm : Nat) (s : State) : SRes := s.res t late [] (.g rd) (wrap 64 (sgn 20 imm))

def sLis (t : Nat) (late : Bool) (rd imm : Nat) (s : State) : SRes :=
  sUnary t late rd rd (fun a => (a * 2 ^ 20 ||| imm) % 2 ^ 64) s

/-- CMP by fn. -/
def cmpVal (fn a b : Nat) : Bool :=
  match fn with
  | 0 => decide (a = b)
  | 1 => decide (a ≠ b)
  | 2 => decide (sgn 64 a < sgn 64 b)
  | 3 => decide (a < b)
  | 4 => decide (sgn 64 a ≤ sgn 64 b)
  | _ => decide (a ≤ b)

/-- A predicate result of operands that may be pending (R168). -/
def State.pred (s : State) (t : Nat) (late : Bool) (ops : List Dst) (rd : Nat) (v : Bool) : SRes :=
  s.res t late (ops.filter (s.tile t).core.isPending) (.p rd) (if v then 1 else 0)

/-- CMP. -/
def sCmp (t : Nat) (late : Bool) (rd ra rb rc fn w : Nat) (s : State) : SRes :=
  let c := (s.tile t).core
  if fn > 5 || rd ≥ 8 || rc ≠ 0 then illegal w
  else s.pred t late [.g ra, .g rb] rd (cmpVal fn (c.peek (.g ra)) (c.peek (.g rb)))

/-- CMPI: the condition stands in rd[4:3]. -/
def sCmpi (t : Nat) (late : Bool) (rd ra imm : Nat) (s : State) : SRes :=
  let c := (s.tile t).core
  s.pred t late [.g ra] (rd % 8) (cmpVal (rd / 8) (c.peek (.g ra)) (wrap 64 (sgn 15 imm)))

/-- PLOG by fn. -/
def plogVal (fn : Nat) (a b : Bool) : Bool :=
  match fn with
  | 0 => a && b
  | 1 => a || b
  | 2 => a != b
  | 3 => a && !b
  | _ => a

/-- PLOG. -/
def sPlog (t : Nat) (late : Bool) (rd ra rb rc fn w : Nat) (s : State) : SRes :=
  let c := (s.tile t).core
  if fn > 4 || rd ≥ 8 || ra ≥ 8 || rb ≥ 8 || rc ≠ 0 || (fn = 4 && rb ≠ 0) then illegal w
  else s.pred t late [.p ra, .p rb] rd
    (plogVal fn (decide (c.peek (.p ra) = 1)) (decide (c.peek (.p rb) = 1)))

/-! ### Loads and stores (R149) -/

/-- The effective address: the 64-bit sum (R149). -/
def effAddr (c : Core) (ra imm : Nat) : Nat := wrap 64 ((c.rg ra : Int) + sgn 12 imm)

/-- Bytes of a load with the store buffer's bytes laid over them (R170), and whether a cell reads uncorrectable; a
provisional load is counted when it commits (R171). -/
def State.load (s : State) (t a n : Nat) : List Byte × Bool × State :=
  let r := if (s.tile t).core.ahead then
      let r := s.spReadQuiet t a n
      (r.1, r.2.1, r.2.2.modCore t (fun c => c.push (.read a n)))
    else s.spRead t a n
  let sts := (s.tile t).core.prov.filterMap (fun p => match p with | .store o k v => some (o, k, v) | _ => none)
  let bs := sts.foldl (fun (bs : List Byte) (e : Nat × Nat × Nat) =>
    (List.range n).map (fun i => if e.1 ≤ a + i ∧ a + i < e.1 + e.2.1 then
      BitVec.ofNat 8 (e.2.2 / 256 ^ (a + i - e.1)) else bs.getD i 0)) r.1
  let bad := r.2.1.any (fun c => !sts.any (fun e => decide (e.1 = c * 8) && decide (e.2.1 = 8)))
  (bs, bad, r.2.2)

/-- A store into the scratchpad; an invocation that leaves a cell it wrote marked ends poisoned (R188, R414). -/
def State.storeNow (s : State) (t a n v : Nat) : State :=
  let s := s.spWrite t a (leBytes n v) false
  if (s.tile t).poison.contains (a / 8) then s.modCore t (fun c => { c with poisonSeen := true }) else s

/-- A store: into the buffer when provisional, else into the scratchpad (R170). -/
def State.store (s : State) (t a n v : Nat) : State :=
  if (s.tile t).core.ahead then s.modCore t (fun c => c.push (.store a n v)) else s.storeNow t a n v

/-- The number of stores in the buffer (R170). -/
def Core.storesHeld (c : Core) : Nat := (c.prov.filter (fun p => match p with | .store .. => true | _ => false)).length

/-- The exception of an access: MISALIGNED, then ACCESS_FAULT (R149, R166, R192). -/
def Tile.accessExc (x : Tile) (a n : Nat) (store : Bool) : Option Nat :=
  if a % n ≠ 0 then some 6
  else if !inSp a n || (store && x.residentAt a n) then some 7
  else none

/-- A load of `n` bytes into a register. -/
def State.loadTo (s : State) (t : Nat) (late : Bool) (a n : Nat) (d : Dst) (f : Nat → Nat) : SRes :=
  match (s.tile t).accessExc a n false with
  | some e => .exc e a
  | none =>
    let r := s.load t a n
    if r.2.1 then .exc 8 a else r.2.2.res t late [] d (f (leVal r.1))

/-- LD. -/
def sLd (t : Nat) (late : Bool) (rd ra imm sz w : Nat) (s : State) : SRes :=
  let c := (s.tile t).core
  if sz > 6 then illegal w
  else if c.waits [.g ra] then .stall
  else s.loadTo t late (effAddr c ra imm) ([1, 2, 4, 8, 1, 2, 4].getD sz 1) (.g rd)
    (fun v => if sz ≥ 4 then wrap 64 (sgn ([8, 16, 32].getD (sz - 4) 8) v) else v)

/-- A store of the low bytes of a value. -/
def State.storeFrom (s : State) (t a n v : Nat) : SRes :=
  match (s.tile t).accessExc a n true with
  | some e => .exc e a
  | none => if (s.tile t).core.ahead && (s.tile t).core.storesHeld ≥ 16 then .stall else .done (s.store t a n v) none

/-- ST. -/
def sSt (t : Nat) (rd ra imm sz w : Nat) (s : State) : SRes :=
  let c := (s.tile t).core
  if sz > 3 then illegal w
  else if c.waits [.g ra, .g rd] then .stall
  else s.storeFrom t (effAddr c ra imm) (2 ^ sz) (c.rg rd)

/-- LDF: bf16 is converted exactly (R147). -/
def sLdf (t : Nat) (late : Bool) (rd ra imm sz w : Nat) (s : State) : SRes :=
  let c := (s.tile t).core
  if sz > 1 || rd ≥ 16 then illegal w
  else if c.waits [.g ra] then .stall
  else s.loadTo t late (effAddr c ra imm) (if sz = 0 then 4 else 2) (.f rd)
    (fun v => if sz = 0 then v else if isNan (bfTo32 v) then nan32 else bfTo32 v)

/-- STF: bf16 is rounded nearest-even under R57. -/
def sStf (t : Nat) (rd ra imm sz w : Nat) (s : State) : SRes :=
  let c := (s.tile t).core
  if sz > 1 || rd ≥ 16 then illegal w
  else if c.waits [.g ra, .f rd] then .stall
  else
    let v := c.rf rd
    let b := toBf16 v .nearest noRnd
    match s.storeFrom t (effAddr c ra imm) (if sz = 0 then 4 else 2) (if sz = 0 then v else b.1) with
    | .done s k => .done (if sz = 0 then s else s.stick t b.2.1) k
    | r => r

/-! ### Floating point (R147, R150) -/

/-- FOP by fn. -/
def fopVal (fn a b : Nat) : Nat × Nat :=
  match fn with
  | 0 => fAdd a b
  | 1 => fSub a b
  | 2 => fMul a b
  | 3 => fDiv a b
  | 4 => (fMin a b, 0)
  | 5 => (fMax a b, 0)
  | 6 => fSqrt a
  | 7 => (fNeg a, 0)
  | _ => (fAbs a, 0)

/-- FOP. -/
def sFop (t : Nat) (late : Bool) (rd ra rb rc fn w : Nat) (s : State) : SRes :=
  let c := (s.tile t).core
  if fn > 8 || rd ≥ 16 || ra ≥ 16 || rb ≥ 16 || rc ≠ 0 || (fn ≥ 6 && rb ≠ 0) then illegal w
  else if c.waits ([.f ra] ++ if fn < 6 then [.f rb] else []) then .stall
  else
    let v := fopVal fn (c.rf ra) (c.rf rb)
    (s.stick t v.2).res t late [] (.f rd) v.1

/-- FCMP by fn: with a NaN only ne holds (R124). -/
def fcmpVal (fn a b : Nat) : Bool :=
  match fn with
  | 0 => fEq a b
  | 1 => !fEq a b
  | 2 => fLt a b
  | _ => fLt a b || fEq a b

/-- FCMP; a comparison that meets NaN raises invalid (R135). -/
def sFcmp (t : Nat) (late : Bool) (rd ra rb rc fn w : Nat) (s : State) : SRes :=
  let c := (s.tile t).core
  if fn > 3 || rd ≥ 8 || ra ≥ 16 || rb ≥ 16 || rc ≠ 0 then illegal w
  else
    let a := c.peek (.f ra)
    let b := c.peek (.f rb)
    (s.stick t (if isNan a || isNan b then fInvalid else 0)).pred t late [.f ra, .f rb] rd (fcmpVal fn a b)

/-- int64 of an fp32 value toward zero, saturating; NaN gives 0 and raises invalid (R147). -/
def toInt64 (a : Nat) : Nat × Nat :=
  match fp32Val a with
  | .nan => (0, fInvalid)
  | .inf neg => (if neg then 2 ^ 63 else 2 ^ 63 - 1, fOverflow)
  | .fin neg n d =>
    let v := roundInt (signedInt neg n) d .zero 0
    if v > 2 ^ 63 - 1 then (2 ^ 63 - 1, fOverflow) else if v < -(2 ^ 63) then (2 ^ 63, fOverflow) else (wrap 64 v, 0)

/-- FMV. -/
def sFmv (t : Nat) (late : Bool) (rd ra rb rc fn w : Nat) (s : State) : SRes :=
  let c := (s.tile t).core
  let toF := fn = 0 || fn = 2 || fn = 5
  if fn > 5 || rb ≠ 0 || rc ≠ 0 || (toF && rd ≥ 16) || (!toF && ra ≥ 16) then illegal w
  else if c.waits [if toF then .g ra else .f ra] then .stall
  else
    let g := c.rg ra
    let f := c.rf ra
    let v : Nat × Nat := match fn with
      | 0 => (g % 2 ^ 32, 0)
      | 1 => (f, 0)
      | 2 => rneInt (sgn 64 g) 1
      | 3 => toInt64 f
      | 4 => let b := toBf16 f .nearest noRnd; (b.1, b.2.1)
      | _ => (if isNan (bfTo32 g) then nan32 else bfTo32 g, 0)
    (s.stick t v.2).res t late [] (if toF then .f rd else .g rd) v.1

/-! ### Hash, random streams, CSRs (R141, R151, R152) -/

/-- HASH: layer rc[15:0], choice rc[23:16], key rb. -/
def sHash (t : Nat) (late : Bool) (rd ra rb rc fn w : Nat) (s : State) : SRes :=
  let c := (s.tile t).core
  if fn ≠ 0 then illegal w
  else if c.waits [.g ra, .g rb, .g rc] then .stall
  else s.res t late [] (.g rd) (hash64 (c.rg ra) (bits (c.rg rc) 0 16) (bits (c.rg rc) 16 8) (c.rg rb))

/-- Whether an engine operation of the tile that has not completed names a stream: a drain that rounds to it, or a chain run with a
stage that does (R60, R122, R152; assumption log entry 162). -/
def Tile.streamBusy (x : Tile) (j : Nat) : Bool :=
  x.aops.any (fun o => decide (arKind o.i.word = 2) && drDraws false o.i.word && decide (drStream o.i.word = j))
    || x.vops.any (fun o => decide (vKind o.i.word = 0) && decide (chainStream (stagesOf o.i.chain) = some j))

/-- The stream of an RNG instruction, when it may run: no branch unresolved, registers there, no operation drawing. -/
def rngReady (s : State) (t ra : Nat) (more : List Dst) : Bool :=
  let c := (s.tile t).core
  !c.ahead && !c.waits (.g ra :: more) && !(s.tile t).streamBusy (c.rg ra % 64)

/-- RDRAW. -/
def sRdraw (t : Nat) (late : Bool) (rd ra rb rc w : Nat) (s : State) : SRes :=
  if rb ≠ 0 || rc ≠ 0 then illegal w
  else if !rngReady s t ra [] then .stall
  else
    let sid := s.sid t ((s.tile t).core.rg ra % 64)
    let n := NMap.get 0 s.rng sid
    let seed := match (s.tile t).ctx.bind s.ctx? with | some x => x.seed | none => 0
    { s with rng := NMap.set 0 s.rng sid ((n + 1) % 2 ^ 64) }.res t late [] (.g rd) (streamWord seed sid n)

/-- RCTR. -/
def sRctr (t : Nat) (late : Bool) (rd ra rb rc w : Nat) (s : State) : SRes :=
  if rb ≠ 0 || rc ≠ 0 then illegal w
  else if !rngReady s t ra [] then .stall
  else s.res t late [] (.g rd) (NMap.get 0 s.rng (s.sid t ((s.tile t).core.rg ra % 64)))

/-- RCTW. -/
def sRctw (t : Nat) (rd ra rb rc w : Nat) (s : State) : SRes :=
  let c := (s.tile t).core
  if rd ≠ 0 || rc ≠ 0 then illegal w
  else if !rngReady s t ra [.g rb] then .stall
  else .done { s with rng := NMap.set 0 s.rng (s.sid t (c.rg ra % 64)) (c.rg rb) } none

/-- The value of a CSR, if its number is in the directory (R141). -/
def State.csr (s : State) (t n : Nat) : Option Nat :=
  let x := s.tile t
  let held := x.core.prov.foldl (fun a p => match p with | .sticky f => a ||| f | _ => a) x.core.sticky
  match n with
  | 0x000 => some t
  | 0x001 => some (x.ctx.getD 0)
  | 0x002 => some (match x.ctx.bind s.ctx? with | some c => c.refMode.toNat | none => 0)
  | 0x003 => some (held % 32)
  | 0x004 => some x.core.runahead.toNat
  | 0x010 => some x.tkA.issued
  | 0x011 => some x.tkV.issued
  | 0x012 => some x.tkD.issued
  | 0x018 => some x.tkA.allDone
  | 0x019 => some x.tkV.allDone
  | 0x01A => some x.tkD.allDone
  | _ => none

/-- CSRR. -/
def sCsrr (t : Nat) (late : Bool) (rd ra imm w : Nat) (s : State) : SRes :=
  if ra ≠ 0 then illegal w
  else match s.csr t imm with
    | none => illegal w
    | some v => s.res t late [] (.g rd) v

/-- CSRW: RUNAHEAD_CTL is written, STICKY_STATUS has bits cleared, every other number is illegal (R141). -/
def sCsrw (t : Nat) (rd ra imm w : Nat) (s : State) : SRes :=
  let c := (s.tile t).core
  if rd ≠ 0 || (imm ≠ 3 && imm ≠ 4) then illegal w
  else if c.ahead || c.waits [.g ra] then .stall
  else .done (s.modCore t (fun c =>
    if imm = 3 then { c with sticky := clearFlags c.sticky (c.rg ra) } else { c with runahead := bit (c.rg ra) 0 })) none

/-- CNTR: the tile's copy of the common count (R35, R152), which equals the col die's (DESIGN CHOICE, log entry 158). -/
def sCntr (t : Nat) (late : Bool) (rd ra rb rc fn w : Nat) (s : State) : SRes :=
  if ra ≠ 0 || rb ≠ 0 || rc ≠ 0 || fn ≠ 0 then illegal w
  else if (s.tile t).core.ahead then .stall
  else s.res t late [] (.g rd) s.clk.now

/-! ### Transfers of control (R147, R168, R169) -/

/-- BR and CALL. A branch on a pending predicate runs ahead where that is enabled and fewer than two branches are
unresolved, else it waits (assumption log entry 12). `len` is 4 for an instruction, 32 for a bundle. -/
def sBranch (t : Nat) (call : Bool) (pred : Nat) (neg hint : Bool) (disp len : Nat) (s : State) : SRes :=
  let c := (s.tile t).core
  let target := wrap 32 ((c.pc : Int) + 4 * sgn 20 disp)
  let link := c.pc + len
  let linked := fun (c : Core) => if call then c.result false [] (.g 31) link else c
  if !c.isPending (.p pred) then
    if c.rp pred != neg then .done (s.modCore t linked) (some target) else .done s none
  else if !c.runahead || c.ckpts.length ≥ 2 then .stall
  else
    let k : Ckpt := { g := c.g, f := c.f, p := c.p, pend := c.pend, commits := c.commits, pred := pred, neg := neg,
                      predicted := hint, callee := call, pc := c.pc, otherPc := if hint then link else target,
                      link := link, target := target, provLen := c.prov.length }
    .ahead (s.modCore t (fun c =>
      let c := { c with ckpts := c.ckpts ++ [k] }
      if hint then { linked c with pc := target } else { c with pc := link }))

/-- JR; a target that is not a multiple of 4 raises FETCH_FAULT with the target as its detail (R147, R166). -/
def sJr (t : Nat) (rd ra rb rc fn w : Nat) (s : State) : SRes :=
  let c := (s.tile t).core
  if rd ≠ 0 || rb ≠ 0 || rc ≠ 0 || fn ≠ 0 then illegal w
  else if c.waits [.g ra] then .stall
  else if c.rg ra % 4 ≠ 0 then .exc 1 (c.rg ra)
  else .done s (some (c.rg ra % 2 ^ 32))

/-! ### Descriptors, tickets, services, HALT (R144, R145, R153, R154, R163, R164) -/

/-- The transfer's descriptor as it stands in the scratchpad, if the transfer is still queued: its header (R159, R203). -/
def Tile.queuedHdr (x : Tile) (q : Xfer) : Nat := if q.st = .queued then leVal (Bytes.rd x.sp (bits q.i.word 27 19 * 64) 8) else 0

/-- Whether an operation issued earlier names a descriptor entry and has not begun, so that it has not read it (R154). -/
def Tile.entryAwaited (x : Tile) (fn i : Nat) : Bool :=
  let loads := x.aops.filter (fun o => decide (arKind o.i.word = 1))
  let runs := x.vops.filter (fun o => !o.begun && decide (vKind o.i.word = 0))
  match fn with
  | 0 => x.aops.any (fun o => !o.begun && decide (arKind o.i.word = 0) && decide (bits o.i.word 49 4 = i))
  | 1 => x.aops.any (fun o => !o.begun && decide (arKind o.i.word = 2) && decide (bits o.i.word 28 4 = i))
  | 2 => runs.any (fun o => (usedIns (stagesOf o.i.chain)).any (fun k => decide (vIn o.i.word k = i))
      || (usedOuts (stagesOf o.i.chain)).any (fun k => decide (vOut o.i.word k = i)))
  | 3 => runs.any (fun o => decide (vChain o.i.word = i / 8))
  | 4 => loads.any (fun o => ldPatch o.i.word && decide (bits o.i.word 34 4 = i))
  | _ => loads.any (fun o => decide (ldForm o.i.word ≠ 0) && decide (bits o.i.word 30 4 = i))
      || x.xfers.any (fun q => decide (bits (x.queuedHdr q) 60 4 = 3) && decide (bits (x.queuedHdr q) 30 4 = i))

/-- DESCW (R153, R154). -/
def sDescw (t : Nat) (rd ra rb rc fn w : Nat) (s : State) : SRes :=
  let c := (s.tile t).core
  let i := c.rg rd
  let v := c.rg ra + (if fn = 3 then 0 else c.rg rb * 2 ^ 64)
  if rc ≠ 0 || fn > 5 || (fn = 3 && rb ≠ 0) then illegal w
  else if c.ahead || c.waits [.g rd, .g ra, .g rb] then .stall
  else if i ≥ (if fn = 3 then 256 else 16) || v &&& descRsv fn ≠ 0 then illegal w
  else if (s.tile t).entryAwaited fn i then .stall
  else .done (s.modTile t (fun x => x.setDesc fn i v)) none

/-- TKSTAT; a ticket beyond the last issued raises ILLEGAL_OPERATION (R163), whose detail is the ticket: the instruction is no slot
(DESIGN CHOICE, log entry 164). -/
def sTkstat (t : Nat) (late : Bool) (rd ra rb rc fn w : Nat) (s : State) : SRes :=
  let x := s.tile t
  if rb ≠ 0 || rc ≠ 0 || fn > 2 then illegal w
  else if x.core.ahead || x.core.waits [.g ra] then .stall
  else if x.core.rg ra > (x.tk fn).issued then .exc 4 (x.core.rg ra)
  else s.res t late [] (.g rd) ((x.tk fn).word (x.core.rg ra) (fn = 1))

/-- SVC: the core stops with the service number and g2 to g8; the steward answers by `State.answer` (R145). -/
def sSvc (t : Nat) (rd ra imm w : Nat) (s : State) : SRes :=
  let c := (s.tile t).core
  if rd ≠ 0 || ra ≠ 0 then illegal w
  else if c.ahead || c.waits ((List.range' 2 7).map Dst.g) then .stall
  else .done (s.modCore t (fun c => { c with run := .svc imm })) none

/-- HALT: the invocation ends once its engine operations have completed (R144). -/
def sHalt (t : Nat) (rd ra rb rc fn w : Nat) (s : State) : SRes :=
  let c := (s.tile t).core
  if rd ≠ 0 || ra ≠ 0 || rb ≠ 0 || rc ≠ 0 || fn ≠ 0 then illegal w
  else if c.ahead || c.waits [.g 1] then .stall
  else .done (s.modCore t (fun c => { c with run := .halting })) none

/-! ### A row: fetch and commit (R157, R165, R172) -/

/-- An instruction-store read (R172, R187): whether a word of the range is uncorrectable, and the state after. -/
def State.fetch (s : State) (t pc n : Nat) : Bool × State :=
  (cellsOf pc n).foldl (fun (r : Bool × State) k =>
    let x := r.2.tile t
    if x.core.ipoison.contains k then (true, r.2)
    else match NMap.get? x.core.ilatent k with
      | none => r
      | some d =>
        let s := r.2.modCore t (fun c => { c with ilatent := NMap.del c.ilatent k,
                                                  ipoison := if d then insertNat c.ipoison k else c.ipoison })
        if d then (true, s.raise (s.evTile t 0x02 1 [(24, 4, k * 8), (28, 1, 4)]))
        else (r.1, s.raise (s.evTile t 0x01 0 [(24, 4, 2 ^ 31 + k * 8)]))) (false, s)

/-- Whether a held exception or the limit of 32 provisional instructions stops issue (R169, R170): a second unresolved branch is
itself provisional. -/
def Core.full (c : Core) : Bool :=
  c.prov.any (fun p => match p with | .exc .. => true | _ => false)
    || decide ((c.prov.filter (fun p => decide (p = .commit))).length + (c.ckpts.length - 1) ≥ 32)

/-- Whether the core may issue: it runs, nothing holds it, its context is not suspended (R167, R218). -/
def State.issues (s : State) (t : Nat) : Bool :=
  let x := s.tile t
  decide (x.core.run = .running) && !x.core.frozen && !x.core.full && !x.inReset
    && (match x.ctx.bind s.ctx? with | some c => !c.suspended | none => true)

/-- An exception of the instruction at pc: held while provisional (R165, R170). -/
def State.exceptAt (s : State) (t cause detail : Nat) : State :=
  let c := (s.tile t).core
  if c.ahead then s.modCore t (fun c => c.push (.exc cause c.pc detail)) else s.except t cause c.pc detail

/-- The commit of an instruction of `len` bytes (R157, R165, R170). -/
def State.commit (s : State) (t len : Nat) (taken : Option Nat) : State :=
  let c := (s.tile t).core
  let s := s.modCore t (fun c => { c with pc := taken.getD (c.pc + len) })
  if c.ahead then s.modCore t (fun c => (match taken with | some a => c.push (.flow a) | none => c).push .commit)
  else (s.traceCommit t taken).settle t

/-- What a scalar result does to the machine. -/
def State.finishScalar (s : State) (t len : Nat) (r : SRes) : State :=
  match r with
  | .stall => s
  | .exc cause detail => s.exceptAt t cause detail
  | .done s' taken => s'.commit t len taken
  | .ahead s' => s'

/-- Whether the steward's routing kernel or KV library stands at an address of a tile's instruction store (R245, R270). -/
def State.libAt (s : State) (t pc : Nat) : Bool :=
  s.models.any (fun e => some e.2.part = s.partOf t &&
    ((!e.2.attn.isEmpty && decide (0x1E000 ≤ pc)) || (!e.2.experts.isEmpty && decide (0x1F000 ≤ pc)))) && decide (pc < 0x20000)

/-- A scalar instruction as a row: with the core able to issue, its word must stand at the pc. -/
def State.row (s : State) (t w : Nat) (f : State → SRes) : State :=
  let c := (s.tile t).core
  if !s.issues t || s.libAt t c.pc then s
  else if c.pc ≥ 0x20000 then s.exceptAt t 1 c.pc
  else if (s.fetch t c.pc 4).1 then (s.fetch t c.pc 4).2.exceptAt t 2 c.pc
  else if c.iword c.pc ≠ w then s
  else
    let s := (s.fetch t c.pc 4).2
    s.finishScalar t 4 (f s)

/-- The steward's answer to a core that waits in a service: g1 is written and the core resumes (R145). While command
interpretation is paused it gives none. -/
def State.answer (s : State) (t num : Nat) (f : State → Nat × State) : State :=
  if (s.tile t).core.run = .svc num ∧ s.boot.devState ≠ 2 then
    let r := f s
    r.2.modCore t (fun c => { c.result false [] (.g 1) r.1 with run := .running })
  else s

/-- An SVC row: the instruction commits if it stands at the pc, and the steward answers. -/
def State.svcRow (s : State) (t rd ra num : Nat) (w : Nat) (f : State → Nat × State) : State :=
  (s.row t w (sSvc t rd ra num w)).answer t num f

end Sys2Proof.Machine
end

