-- ==== Sys2Proof/Machine/CoreRows.lean ====
section
/-! DEFINITION. The scalar-instruction commands (08): each row's word in its format (R146) and its operation of
Scalar.lean; the steward services (R145); the arrival of pending results (R168). -/

namespace Sys2Proof.Machine

/-- ALU (R147, R148). -/
def execAlu (t : Byte) (late : Bool) (rd ra rb rc fn : BitVec 5) (s : State) : Host.Outcome State Fault Refusal :=
  let w := wordRR 0x01 rd ra rb rc fn
  .next (s.row t.toNat w (sAlu t.toNat late rd.toNat ra.toNat rb.toNat rc.toNat fn.toNat w))

/-- ADDI (R147). -/
def execAddi (t : Byte) (late : Bool) (rd ra : BitVec 5) (imm : BitVec 15) (s : State) :
    Host.Outcome State Fault Refusal :=
  .next (s.row t.toNat (wordRI 0x02 rd ra imm)
    (sUnary t.toNat late rd.toNat ra.toNat (fun a => wrap 64 ((a : Int) + sgn 15 imm.toNat))))

/-- ANDI (R147). -/
def execAndi (t : Byte) (late : Bool) (rd ra : BitVec 5) (imm : BitVec 15) (s : State) :
    Host.Outcome State Fault Refusal :=
  .next (s.row t.toNat (wordRI 0x03 rd ra imm) (sUnary t.toNat late rd.toNat ra.toNat (fun a => a &&& imm.toNat)))

/-- ORI (R147). -/
def execOri (t : Byte) (late : Bool) (rd ra : BitVec 5) (imm : BitVec 15) (s : State) :
    Host.Outcome State Fault Refusal :=
  .next (s.row t.toNat (wordRI 0x04 rd ra imm) (sUnary t.toNat late rd.toNat ra.toNat (fun a => a ||| imm.toNat)))

/-- XORI (R147). -/
def execXori (t : Byte) (late : Bool) (rd ra : BitVec 5) (imm : BitVec 15) (s : State) :
    Host.Outcome State Fault Refusal :=
  .next (s.row t.toNat (wordRI 0x05 rd ra imm) (sUnary t.toNat late rd.toNat ra.toNat (fun a => a ^^^ imm.toNat)))

/-- SHI (R147). -/
def execShi (t : Byte) (late : Bool) (rd ra : BitVec 5) (imm : BitVec 15) (s : State) :
    Host.Outcome State Fault Refusal :=
  let w := wordRI 0x06 rd ra imm
  .next (s.row t.toNat w (sShi t.toNat late rd.toNat ra.toNat imm.toNat w))

/-- LI (R147). -/
def execLi (t : Byte) (late : Bool) (rd : BitVec 5) (imm : BitVec 20) (s : State) :
    Host.Outcome State Fault Refusal :=
  .next (s.row t.toNat (wordLI 0x07 rd imm) (sLi t.toNat late rd.toNat imm.toNat))

/-- LIS (R147). -/
def execLis (t : Byte) (late : Bool) (rd : BitVec 5) (imm : BitVec 20) (s : State) :
    Host.Outcome State Fault Refusal :=
  .next (s.row t.toNat (wordLI 0x08 rd imm) (sLis t.toNat late rd.toNat imm.toNat))

/-- LD (R147, R149). -/
def execLd (t : Byte) (late : Bool) (rd ra : BitVec 5) (imm : BitVec 12) (sz : BitVec 3) (upsets : List Upset)
    (s : State) : Host.Outcome State Fault Refusal :=
  let w := wordM 0x10 rd ra imm sz
  .next ((s.modTile t.toNat (fun x => x.strike upsets)).row t.toNat w
    (sLd t.toNat late rd.toNat ra.toNat imm.toNat sz.toNat w))

/-- ST (R147, R149, R188, R192). -/
def execSt (t : Byte) (rd ra : BitVec 5) (imm : BitVec 12) (sz : BitVec 3) (upsets : List Upset) (s : State) :
    Host.Outcome State Fault Refusal :=
  let w := wordM 0x11 rd ra imm sz
  .next ((s.modTile t.toNat (fun x => x.strike upsets)).row t.toNat w
    (sSt t.toNat rd.toNat ra.toNat imm.toNat sz.toNat w))

/-- LDF (R147, R149). -/
def execLdf (t : Byte) (late : Bool) (rd ra : BitVec 5) (imm : BitVec 12) (sz : BitVec 3) (upsets : List Upset)
    (s : State) : Host.Outcome State Fault Refusal :=
  let w := wordM 0x12 rd ra imm sz
  .next ((s.modTile t.toNat (fun x => x.strike upsets)).row t.toNat w
    (sLdf t.toNat late rd.toNat ra.toNat imm.toNat sz.toNat w))

/-- STF (R147, R149). -/
def execStf (t : Byte) (rd ra : BitVec 5) (imm : BitVec 12) (sz : BitVec 3) (upsets : List Upset) (s : State) :
    Host.Outcome State Fault Refusal :=
  let w := wordM 0x13 rd ra imm sz
  .next ((s.modTile t.toNat (fun x => x.strike upsets)).row t.toNat w
    (sStf t.toNat rd.toNat ra.toNat imm.toNat sz.toNat w))

/-- CMP (R147, R168). -/
def execCmp (t : Byte) (late : Bool) (rd ra rb rc fn : BitVec 5) (s : State) : Host.Outcome State Fault Refusal :=
  let w := wordRR 0x18 rd ra rb rc fn
  .next (s.row t.toNat w (sCmp t.toNat late rd.toNat ra.toNat rb.toNat rc.toNat fn.toNat w))

/-- CMPI (R147, R168). -/
def execCmpi (t : Byte) (late : Bool) (rd ra : BitVec 5) (imm : BitVec 15) (s : State) :
    Host.Outcome State Fault Refusal :=
  .next (s.row t.toNat (wordRI 0x19 rd ra imm) (sCmpi t.toNat late rd.toNat ra.toNat imm.toNat))

/-- PLOG (R147, R168). -/
def execPlog (t : Byte) (late : Bool) (rd ra rb rc fn : BitVec 5) (s : State) : Host.Outcome State Fault Refusal :=
  let w := wordRR 0x1A rd ra rb rc fn
  .next (s.row t.toNat w (sPlog t.toNat late rd.toNat ra.toNat rb.toNat rc.toNat fn.toNat w))

/-- BR (R146, R147, R168). -/
def execBr (t : Byte) (pred : BitVec 3) (neg hint : Bool) (disp : BitVec 20) (s : State) :
    Host.Outcome State Fault Refusal :=
  .next (s.row t.toNat (wordB 0x20 pred neg hint disp) (sBranch t.toNat false pred.toNat neg hint disp.toNat 4))

/-- CALL (R146, R147, R168). -/
def execCall (t : Byte) (pred : BitVec 3) (neg hint : Bool) (disp : BitVec 20) (s : State) :
    Host.Outcome State Fault Refusal :=
  .next (s.row t.toNat (wordB 0x21 pred neg hint disp) (sBranch t.toNat true pred.toNat neg hint disp.toNat 4))

/-- JR (R147, R166). -/
def execJr (t : Byte) (rd ra rb rc fn : BitVec 5) (s : State) : Host.Outcome State Fault Refusal :=
  let w := wordRR 0x22 rd ra rb rc fn
  .next (s.row t.toNat w (sJr t.toNat rd.toNat ra.toNat rb.toNat rc.toNat fn.toNat w))

/-- FOP (R147, R150). -/
def execFop (t : Byte) (late : Bool) (rd ra rb rc fn : BitVec 5) (s : State) : Host.Outcome State Fault Refusal :=
  let w := wordRR 0x28 rd ra rb rc fn
  .next (s.row t.toNat w (sFop t.toNat late rd.toNat ra.toNat rb.toNat rc.toNat fn.toNat w))

/-- FCMP (R147, R150). -/
def execFcmp (t : Byte) (late : Bool) (rd ra rb rc fn : BitVec 5) (s : State) : Host.Outcome State Fault Refusal :=
  let w := wordRR 0x29 rd ra rb rc fn
  .next (s.row t.toNat w (sFcmp t.toNat late rd.toNat ra.toNat rb.toNat rc.toNat fn.toNat w))

/-- FMV (R147). -/
def execFmv (t : Byte) (late : Bool) (rd ra rb rc fn : BitVec 5) (s : State) : Host.Outcome State Fault Refusal :=
  let w := wordRR 0x2A rd ra rb rc fn
  .next (s.row t.toNat w (sFmv t.toNat late rd.toNat ra.toNat rb.toNat rc.toNat fn.toNat w))

/-- HASH (R147, R151). -/
def execHash (t : Byte) (late : Bool) (rd ra rb rc fn : BitVec 5) (s : State) : Host.Outcome State Fault Refusal :=
  let w := wordRR 0x30 rd ra rb rc fn
  .next (s.row t.toNat w (sHash t.toNat late rd.toNat ra.toNat rb.toNat rc.toNat fn.toNat w))

/-- RDRAW (R147, R152). -/
def execRdraw (t : Byte) (late : Bool) (rd ra rb rc : BitVec 5) (s : State) : Host.Outcome State Fault Refusal :=
  let w := wordRR 0x34 rd ra rb rc 0
  .next (s.row t.toNat w (sRdraw t.toNat late rd.toNat ra.toNat rb.toNat rc.toNat w))

/-- RCTR (R147, R152). -/
def execRctr (t : Byte) (late : Bool) (rd ra rb rc : BitVec 5) (s : State) : Host.Outcome State Fault Refusal :=
  let w := wordRR 0x34 rd ra rb rc 1
  .next (s.row t.toNat w (sRctr t.toNat late rd.toNat ra.toNat rb.toNat rc.toNat w))

/-- RCTW (R147, R152). -/
def execRctw (t : Byte) (rd ra rb rc : BitVec 5) (s : State) : Host.Outcome State Fault Refusal :=
  let w := wordRR 0x34 rd ra rb rc 2
  .next (s.row t.toNat w (sRctw t.toNat rd.toNat ra.toNat rb.toNat rc.toNat w))

/-- CSRR (R141, R147). -/
def execCsrr (t : Byte) (late : Bool) (rd ra : BitVec 5) (imm : BitVec 15) (s : State) :
    Host.Outcome State Fault Refusal :=
  let w := wordRI 0x38 rd ra imm
  .next (s.row t.toNat w (sCsrr t.toNat late rd.toNat ra.toNat imm.toNat w))

/-- CSRW (R141, R147). -/
def execCsrw (t : Byte) (rd ra : BitVec 5) (imm : BitVec 15) (s : State) : Host.Outcome State Fault Refusal :=
  let w := wordRI 0x39 rd ra imm
  .next (s.row t.toNat w (sCsrw t.toNat rd.toNat ra.toNat imm.toNat w))

/-- CNTR (R35, R152). -/
def execCntr (t : Byte) (late : Bool) (rd ra rb rc fn : BitVec 5) (s : State) : Host.Outcome State Fault Refusal :=
  let w := wordRR 0x3A rd ra rb rc fn
  .next (s.row t.toNat w (sCntr t.toNat late rd.toNat ra.toNat rb.toNat rc.toNat fn.toNat w))

/-- HALT (R144). -/
def execHalt (t : Byte) (rd ra rb rc fn : BitVec 5) (s : State) : Host.Outcome State Fault Refusal :=
  let w := wordRR 0x3C rd ra rb rc fn
  .next (s.row t.toNat w (sHalt t.toNat rd.toNat ra.toNat rb.toNat rc.toNat fn.toNat w))

/-- DESCW (R153, R154). -/
def execDescw (t : Byte) (rd ra rb rc fn : BitVec 5) (s : State) : Host.Outcome State Fault Refusal :=
  let w := wordRR 0x3D rd ra rb rc fn
  .next (s.row t.toNat w (sDescw t.toNat rd.toNat ra.toNat rb.toNat rc.toNat fn.toNat w))

/-- TKSTAT (R163, R164). -/
def execTkstat (t : Byte) (late : Bool) (rd ra rb rc fn : BitVec 5) (s : State) : Host.Outcome State Fault Refusal :=
  let w := wordRR 0x3E rd ra rb rc fn
  .next (s.row t.toNat w (sTkstat t.toNat late rd.toNat ra.toNat rb.toNat rc.toNat fn.toNat w))

/-! ### Steward services (R145) -/

/-- YIELD answers ST_OK. -/
def execYield (t : Byte) (rd ra : BitVec 5) (s : State) : Host.Outcome State Fault Refusal :=
  .next (s.svcRow t.toNat rd.toNat ra.toNat 0 (wordRI 0x3B rd ra 0) (fun s => (Status.ok.code, s)))

/-- The next unstarted item for a tile of the invocation's context and entry, in the order of issue; never one of a KERNEL_LAUNCH
(R145, R237, R305). -/
def State.nextItem (s : State) (t : Nat) : Option (Nat × Work × WItem) :=
  match (s.tile t).core.work.bind (NMap.get? s.works) with
  | none => none
  | some w =>
    let entry := (w.items.find? (fun i => i.tile = t)).map (·.entry)
    if w.kind = .launch then none
    else (s.works.filterMap (fun e =>
      if e.2.ctx = w.ctx && e.2.started && e.2.kind != .launch && !s.earlierWaits t e.2 then
        (e.2.items.find? (fun i => i.tile = t && i.st = .ready && some i.entry = entry)).map (fun i => (e.1, e.2, i))
      else none)).head?

/-- WORK_NEXT hands out the next item in g1 to g8, or 0 in g1. -/
def execWorkNext (t : Byte) (rd ra : BitVec 5) (s : State) : Host.Outcome State Fault Refusal :=
  .next (s.svcRow t.toNat rd.toNat ra.toNat 1 (wordRI 0x3B rd ra 1) (fun s =>
    match s.nextItem t.toNat with
    | none => (0, s)
    | some (n, w, i) =>
      let s := s.modWork n (fun w => { w with items := w.items.map (fun x => if x = i then { x with st := .running } else x) })
      (i.args.getD 0 0, s.modCore t.toNat (fun c =>
        (List.range 8).foldl (fun c k => c.result false [] (.g (k + 1)) (i.args.getD k 0)) (c.bindItem n w)))))

/-- EVENT_POST queues a POSTED record; a context has at most 64 of them at or beyond head (R398). -/
def execEventPost (t : Byte) (rd ra : BitVec 5) (s : State) : Host.Outcome State Fault Refusal :=
  .next (s.svcRow t.toNat rd.toNat ra.toNat 2 (wordRI 0x3B rd ra 2) (fun s =>
    let c := (s.tile t.toNat).core
    let ctx := (s.tile t.toNat).ctx
    let live := fun i => decide ((i + 4096 - s.log.head) % 4096 < (s.log.tail + 4096 - s.log.head) % 4096)
    if (s.log.recs.filter (fun e => live e.1 && e.2.type = 0x32 && e.2.ctx = ctx)).length ≥ 64 then
      (Status.noResource.code, s)
    else (Status.ok.code, s.raise (s.evTile t.toNat 0x32 2 [(24, 8, c.rg 2), (32, 8, c.rg 3), (40, 8, c.rg 4)]))))

/-- An unlisted service number returns ST_BAD_COMMAND in g1 (R145). -/
def execSvcUnlisted (t : Byte) (rd ra : BitVec 5) (num : BitVec 15) (s : State) : Host.Outcome State Fault Refusal :=
  if num.toNat < 3 then .next s
  else .next (s.svcRow t.toNat rd.toNat ra.toNat num.toNat (wordRI 0x3B rd ra num) (fun s => (Status.badCommand.code, s)))

/-- PENDING_RESULT_ARRIVAL (R168): the value reaches its register, and the predicates that waited for it are computed. -/
def execPendingResultArrival (t : Byte) (dst : Dst) (s : State) : Host.Outcome State Fault Refusal :=
  .next (s.modCore t.toNat (fun c => c.deliver dst))

end Sys2Proof.Machine
end

