-- ==== Sys2Proof/Machine/Dma.lean ====
section
/-! DEFINITION. The DMA engine (10): elements of a descriptor (R203 to R208), where they lie (R196, R201, R259, R281), the
states of a transfer (R215 to R221), suspension of a context (R218). -/

namespace Sys2Proof.Machine

/-! ### Descriptor fields (R203) -/

def Xfer.op (q : Xfer) : Nat := bits q.hdr 60 4
def Xfer.es (q : Xfer) : Nat := 2 ^ bits q.hdr 57 3
def Xfer.rop (q : Xfer) : Nat := bits q.hdr 54 3
def Xfer.dims (q : Xfer) : Nat := bits q.hdr 52 2
def Xfer.srcLocal (q : Xfer) : Bool := bit q.hdr 51
def Xfer.dstLocal (q : Xfer) : Bool := bit q.hdr 50
def Xfer.remote (q : Xfer) : Bool := bit q.hdr 49
def Xfer.node (q : Xfer) : Nat := bits q.hdr 34 14
def Xfer.xtag (q : Xfer) : Nat := bits q.hdr 14 16
/-- The count of a dimension, 1 beyond dims. -/
def Xfer.n (q : Xfer) (k : Nat) : Nat := if k ≤ q.dims then bits q.cnt (16 * k) 16 + 1 else 1
/-- Elements of the transfer. -/
def Xfer.elems (q : Xfer) : Nat := q.n 0 * q.n 1 * q.n 2

/-- Elements per restartable unit: a weight block of a compress-on-store, a group of a conversion (R215). -/
def Xfer.perUnit (q : Xfer) : Nat := if q.op = 3 then 1024 else if q.op = 4 then 40 else 1

/-- Units of the transfer; a compress-on-store writes its front as a last one (R232). -/
def Xfer.units (q : Xfer) : Nat := q.elems / q.perUnit + if q.op = 3 then 1 else 0

/-- The indices of an element (R204). -/
def Xfer.coord (q : Xfer) (n k : Nat) : Nat :=
  if k = 0 then n % q.n 0 else if k = 1 then n / q.n 0 % q.n 1 else n / (q.n 0 * q.n 1)

/-- An address of an element from a base and strides, as a 64-bit value (R204). -/
def Xfer.place (q : Xfer) (base : Nat) (st : List Int) (n : Nat) : Nat :=
  wrap 64 ((base : Int) + ((List.range (q.dims + 1)).map (fun k => (q.coord n k : Int) * st.getD k 0)).sum)

/-- The source address of an element of a window gather, or none where the input is outside (R205). -/
def Xfer.gather (q : Xfer) (n : Nat) : Option Nat :=
  let o := q.opx
  let c := q.coord n 0
  let k := q.coord n 1
  let p := q.coord n 2
  let kw := bits o 16 4 + 1
  let ow := bits o 24 12
  let y : Int := ((p / ow * (bits o 14 2 + 1) + k / kw * (bits o 10 2 + 1) : Nat) : Int) - bits o 4 4
  let x : Int := ((p % ow * (bits o 12 2 + 1) + k % kw * (bits o 8 2 + 1) : Nat) : Int) - bits o 0 4
  if 0 ≤ y ∧ y < bits o 48 12 ∧ 0 ≤ x ∧ x < bits o 36 12 then
    some (wrap 64 ((q.src : Int) + y * q.s.getD 1 0 + x * q.s.getD 2 0 + (c : Int) * q.s.getD 0 0))
  else none

/-- The source pieces of a unit: addresses and bytes (R204, R205, R207, R208). -/
def Xfer.srcOf (q : Xfer) (u : Nat) : List (Nat × Nat) :=
  if q.op = 1 then (q.gather u).toList.map (fun a => (a, q.es))
  else if q.op = 3 && q.elems / 1024 ≤ u then []
  else (List.range' (u * q.perUnit) q.perUnit).map (fun n => (q.place q.src q.s n, q.es))

/-- The bytes that the front of a compress-on-store image occupies (R224). -/
def frontBytes (b : Nat) : Nat := 8 + 8 * ((b + 63) / 64) + 8 * ((b + 1) / 2)

/-- Where a unit's output goes (R204, R207, R208, R232). -/
def Xfer.dstOf (q : Xfer) (u : Nat) : Nat :=
  if q.op = 3 then
    if q.elems / 1024 ≤ u then q.dst else (q.dst + frontBytes (q.elems / 1024) + q.outOff) % 2 ^ 64
  else if q.op = 4 then wrap 64 ((q.dst : Int) + (u : Int) * q.d.getD 1 0)
  else q.place q.dst q.d u

/-- next_elem of the progress record (R216). -/
def Xfer.nextElem (q : Xfer) : Nat := min (q.nextUnit * q.perUnit) q.elems

/-- The progress record as detail bytes from an offset on (R216). -/
def Xfer.record (q : Xfer) (at_ : Nat) : List (Nat × Nat × Nat) :=
  [(at_, 8, ((q.ended.map (·.code)).getD 0) * 2 ^ 56 + q.reason * 2 ^ 52 + q.queue * 2 ^ 48 + q.nextElem),
   (at_ + 8, 8, q.ticket),
   (at_ + 16, 8, (if q.access then 2 ^ 52 else 0) + q.faultVa),
   (at_ + 24, 8, q.offsetAt q.nextUnit)]

/-! ### Where an access lies -/

/-- What an address of a transfer resolves to. -/
inductive Where where
  | fails (st : Status)
  | miss
  | ok (pa key : Nat)
  deriving DecidableEq, Repr, Inhabited

/-- Whether a byte range meets the range of an open return window (R259). -/
def State.inWindow (s : State) (t off n : Nat) : Bool :=
  s.windows.any (fun w => w.closing.isNone && w.tile = t && decide (w.off < off + n) && decide (off < w.off + w.len))

/-- The conditions of a write that come after translation: a resident block or an open window (R192, R201, R259), host
memory under an epoch (R281), a destination that a reduction does not accept (R201, R206, R345). -/
def State.writeDenied (s : State) (q : Xfer) (epoch : Nat) (pa n : Nat) : Bool :=
  match s.zone pa with
  | .sp t off => (s.tile t).residentAt off n || s.inWindow t off n || (q.op = 2 && q.rop = 2)
  | .host _ => epoch ≠ 0 || q.op = 2
  | .hbm _ => q.op = 2 && ((s.regionAt pa).map (·.compressed)).getD false
  | .far _ => q.op = 2 && (q.rop = 2 || ((s.regionAt pa).map (·.compressed)).getD false)
  | .hole => false

/-- Whether a transfer goes on to a target that is being drained: it was in flight, or it runs in the draining glen itself
(R314); a far-tier port that has failed drains nothing more (R339). -/
def State.draining (s : State) (t : Nat) (q : Xfer) (pa : Nat) : Bool :=
  s.disabling.any (fun d => !d.abort && (match s.zone pa with
    | .sp u _ => d.kind = 0 && d.index = glenOf u && (d.keep.contains (t, q.ticket) || glenOf t = glenOf u)
    | .far p => d.kind = 2 && d.index = p && d.keep.contains (t, q.ticket) && (s.far p).enabled && !(s.far p).failed
    | _ => false))

/-- The target's answer to an access of a transfer (R314, R407). -/
def State.accessFails (s : State) (t : Nat) (q : Xfer) (pa : Nat) (write : Bool) : Option Status :=
  match s.targetFails pa write with
  | some st => if st = .targetOff && s.draining t q pa then none else some st
  | none => none

/-- A translated access checked (R201, R221); one to a tile under its scrub pass waits (R191). -/
def State.checked (s : State) (t : Nat) (q : Xfer) (c epoch : Nat) (pa pte n : Nat) (write : Bool) : Where :=
  if s.denied c pa pte write || (write && s.writeDenied q epoch pa n) then .fails .permission
  else if s.zone pa = .hole then .fails .translationFault
  else match s.accessFails t q pa write with
    | some st => .fails st
    | none => if s.scrubbing pa then .miss else .ok pa (s.leafKey c pa pte)

/-- An address of a transfer of a tile resolved through its caches (R196, R200, R201, R267 to R269). -/
def State.resolve (s : State) (t : Nat) (q : Xfer) (loc : Bool) (va n : Nat) (write : Bool) : Where :=
  let c := ((s.tile t).ctx).getD 0
  let epoch := s.epochOn t
  if loc then
    if !inSp va n then .fails .translationFault
    else if write && s.writeDenied q epoch (t * 0x2000000 + va) n then .fails .permission
    else .ok (t * 0x2000000 + va) 0
  else if 2 ^ 52 ≤ va then .fails .translationFault
  else if inKv va then
    match s.kvCheck (some t) c va write with
    | .fails st => .fails st
    | .swapped => .miss
    | .run _ _ pa off =>
      if !((s.tile t).kvb.any (fun e => e.ctx = c && decide (e.va ≤ va) && decide (va < e.va + e.size) && e.pa = pa)) then .miss
      else match s.targetFails (pa + off) write with
        | some st => .fails st
        | none => .ok (pa + off) (((s.ctx? c).map (·.key)).getD 0)
  else match s.tlbFind t c va with
    | none => .miss
    | some (pa, pte) => s.checked t q c epoch pa pte n write

/-- The pieces of a unit's output, none of which crosses a 64 B unit. -/
def Xfer.dstPieces (q : Xfer) (u n : Nat) : List (Nat × Nat) := chunks (q.dstOf u) n

/-! ### States of a transfer (R217) -/

/-- A transfer of a tile changed. -/
def Tile.modX (x : Tile) (ticket : Nat) (f : Xfer → Xfer) : Tile :=
  { x with xfers := x.xfers.map (fun q => if q.ticket = ticket then f q else q) }

/-- A transfer done: it leaves its queue and its ticket completes. -/
def State.doneX (s : State) (t : Nat) (q : Xfer) (st : Status) : State :=
  (s.modTile t (fun x => { x with xfers := x.xfers.filter (fun p => p.ticket ≠ q.ticket) })).complete t 2 q.ticket st 0

/-- A transfer told to stop for a suspension: Stopping, and Suspended once nothing is outstanding. -/
def Xfer.suspend (q : Xfer) (reason va : Nat) (write : Bool) : Xfer :=
  match q.st with
  | .running =>
    let q := q.settled
    { q with st := if q.outst.isEmpty then .suspended else .stopping, reason := reason, faultVa := va, access := write }
  | _ => q

/-- The tiles bound to a context. -/
def State.tilesBound (s : State) (c : Nat) : List Nat := NMap.keysOf s.tiles (fun _ x => decide (x.ctx = some c))

/-- A context suspended: its transfers and cores stop on every tile; array and vector operations run on (R167, R218). -/
def State.suspendCtx (s : State) (c : Nat) : State :=
  let s := s.modCtx c (fun x => { x with suspended := true })
  (s.tilesBound c).foldl (fun s t => s.modTile t (fun x =>
    { x with core := { x.core.squash with frozen := true }, xfers := x.xfers.map (fun q => q.suspend 3 0 false) })) s

/-- A suspended transfer that runs on from next_elem (R217). -/
def Xfer.again (q : Xfer) : Xfer := { q with st := .running, reason := 0, faultVa := 0, access := false }

/-- Whether a transfer of a context has still to reach its restartable point. -/
def State.stopping (s : State) (c : Nat) : Bool := (s.tilesBound c).any (fun t => (s.tile t).xfers.any (fun q => q.st = .stopping))

/-- A context resumed when its suspension is complete and no fault is unresolved: suspended transfers run on from next_elem with
a new walk (R217, R218). -/
def State.resumeCtx (s : State) (c : Nat) : State :=
  match s.ctx? c with
  | none => s
  | some x =>
    if !x.suspended || !x.susp.isEmpty || s.stopping c then s
    else
      let s := s.modCtx c (fun x => { x with suspended := false })
      (s.tilesBound c).foldl (fun s t => s.modTile t (fun x =>
        { x with
          core := { x.core with frozen := false }
          xfers := x.xfers.map (fun q => if q.st = .suspended then q.again else q) })) s

/-- The event of a not-present fault carries the progress record, so it is posted once the record is made: when nothing of the
transfer is outstanding (R215, R216, R218). -/
def State.postRecord (s : State) (t ticket : Nat) : State :=
  match (s.tile t).xfers.find? (fun p => p.ticket = ticket) with
  | some p => if decide (p.reason = 1) && p.outst.isEmpty then s.raise (s.evTile t 0x31 2 (p.record 24)) else s
  | none => s

/-- After an acknowledgement or a stop: the transfer is done, suspended or goes on (R211, R217). A context whose faults are
resolved resumes when the last of its transfers is suspended. -/
def State.afterAck (s : State) (t ticket : Nat) : State :=
  match (s.tile t).xfers.find? (fun q => q.ticket = ticket) with
  | none => s
  | some q =>
    if !q.outst.isEmpty then s
    else match q.st with
      | .running =>
        if q.nextIssue < q.units then s
        else if q.anyPoison then s.doneX t q .poisoned
        else (if bit q.i.word 16 then s.act t q.i.d2 1 false else s).doneX t q .ok
      | .stopping =>
        match q.ended with
        | some st => s.doneX t q st
        | none =>
          ((s.modTile t (fun x => x.modX ticket (fun q => { q with st := .suspended }))).postRecord t ticket).resumeCtx
            (((s.tile t).ctx).getD 0)
      | .suspended =>
        match q.ended with
        | some st => s.doneX t q st
        | none => s
      | .ending => s.doneX t q (q.ended.getD .cancelled)
      | _ => s

/-- An ending condition met by an access of a unit: Ending, and Done once nothing is outstanding (R215 to R217, R221). -/
def State.endX (s : State) (t : Nat) (q : Xfer) (u : Nat) (st : Status) (va : Nat) (write : Bool) : State :=
  (s.modTile t (fun x => x.modX q.ticket (fun _ => q.failAt u st va write))).afterAck t q.ticket

/-- A transfer aborted: it is done once nothing is outstanding (R217, R220). -/
def State.abortX (s : State) (t : Nat) (q : Xfer) (st : Status) : State :=
  (s.modTile t (fun x => x.modX q.ticket (fun _ => q.abort st))).afterAck t q.ticket

/-- A fault recorded with the transfer that stops for it, or that has stopped for another's (R216, R218). -/
def Xfer.fault (q : Xfer) (reason va : Nat) (write : Bool) : Xfer :=
  { q.suspend reason va write with reason := reason, faultVa := va, access := write }

/-- A not-present (1) or swapped (2) fault of a transfer: it is recorded, the whole context suspends, and a not-present
fault is posted to the host with its progress record (R218). -/
def State.faultX (s : State) (t : Nat) (q : Xfer) (reason va : Nat) (write : Bool) : State :=
  let c := ((s.tile t).ctx).getD 0
  let s := s.modTile t (fun x => x.modX q.ticket (fun q => q.fault reason va write))
  ((s.modCtx c (fun x => { x with susp := x.susp ++ [(t, q.ticket, reason)] })).suspendCtx c).postRecord t q.ticket

/-- Whether the transfers of a tile's context may run. -/
def State.mayRun (s : State) (t : Nat) : Bool :=
  let x := s.tile t
  !x.inReset && (match x.ctx.bind s.ctx? with | some c => !c.suspended | none => false)

/-- The transfer at the head of a queue (R210). -/
def Tile.headX (x : Tile) (queue : Nat) : Option Xfer := x.xfers.find? (fun q => q.queue = queue)

/-- The running transfer of a queue, while its context may run. -/
def State.runningX (s : State) (t queue : Nat) : Option Xfer :=
  match (s.tile t).headX queue with
  | some q => if decide (q.st = .running) && s.mayRun t then some q else none
  | none => none

/-- The transfer at the head of a queue whose walks go on: it runs, or it has stopped for another transfer's fault while a walk of
its own was under way (R200, R218). -/
def State.walkingX (s : State) (t queue : Nat) : Option Xfer :=
  match s.runningX t queue with
  | some q => some q
  | none =>
    let open_ := (((s.tile t).ctx.bind s.ctx?).map (fun x => !x.susp.isEmpty)).getD false
    ((s.tile t).headX queue).filter (fun q =>
      !(s.tile t).inReset && open_ && (q.st = .stopping || q.st = .suspended) && q.reason = 3 && q.ended.isNone)

/-- A fault found by the engine's duplicated control: the transfer ends ST_POISONED (R389). -/
def State.datapath (s : State) (t : Nat) (q : Xfer) (path : Nat) : State :=
  (s.raise (s.evTile t 0x26 1 [(24, 1, path), (32, 8, q.ticket)])).endX t q q.nextIssue .poisoned 0 false

/-- The running transfers of every tile at a restartable point, with what they have staged discarded (R215, R220). -/
def State.pauseXfers (s : State) : State :=
  { s with tiles := NMap.mapv s.tiles (fun _ x =>
      { x with xfers := x.xfers.map (fun q => if q.st = .running then q.settled else q) }) }

/-- Whether no transfer has a write on its way once the running ones pause. -/
def State.xfersAtRest (s : State) : Bool :=
  s.tiles.all (fun e => e.2.xfers.all (fun q => q.settled.outst.isEmpty))

/-! ### Routes inside the package (R16, R17, R468) -/

/-- The dale of a tile. -/
def daleOf (t : Nat) : Nat := t / 64

/-- Bytes counted on a saddle (R468). -/
def State.countSaddle (s : State) (sad k n : Nat) : State := s.count (0x304000 + 16 * sad + 8 * k) n

/-- Bytes counted on one ring saddle, or on the two col saddles that carry its traffic after it has failed (R389). -/
def State.countRing (s : State) (a : Nat) (fwd : Bool) (n : Nat) : State :=
  if s.saddleRerouted.contains a then
    let f := if fwd then a else (a + 1) % 4
    let d := if fwd then (a + 1) % 4 else a
    (s.countSaddle f 0 n).countSaddle d 1 n
  else s.countSaddle (4 + a) (if fwd then 0 else 1) n

/-- Bytes on the way from one dale to another, or to or from a port of the col die (none) (R16). -/
def State.countRoute (s : State) (src dst : Option Nat) (n : Nat) : State :=
  match src, dst with
  | some a, some b =>
    if a = b then s
    else if (a + 1) % 4 = b then s.countRing a true n
    else if (b + 1) % 4 = a then s.countRing b false n
    else (s.countRing a true n).countRing ((a + 1) % 4) true n
  | some a, none => s.countSaddle a 0 n
  | none, some b => s.countSaddle b 1 n
  | none, none => s

/-- The dale a physical address lies behind; none for the ports of the col die (R15, R17). -/
def daleAt (pa : Nat) : Option Nat :=
  if pa < 0x200000000 then some (daleOf (pa / 0x2000000))
  else if hbmBase ≤ pa ∧ pa < hbmBase + hbmSize then some (stackOf pa / 4)
  else none

/-- Bytes read from a tile's scratchpad for another tile: they leave by its remote port and cross the package (R16, R185, R468). -/
def State.pull (s : State) (t u a n : Nat) : List Byte × List Nat × State :=
  let r := s.spRead u a n
  if u = t then r
  else (r.1, r.2.1, (r.2.2.countRoute (some (daleOf u)) (some (daleOf t)) n).count (0x300000 + 64 * u + 48) n)

/-- Bytes that a tile has written, where they went and, for the stack or port, how many are stored (R467, R468). -/
def State.countWriteAs (s : State) (t pa n stored : Nat) : State :=
  let s := (s.countRoute (some (daleOf t)) (daleAt pa) n).count (0x300000 + 64 * t + 40) n
  match s.zone pa with
  | .sp u _ => if u = t then s else s.count (0x300000 + 64 * u + 48) n
  | .host _ => s.count 0x304220 n
  | _ => s.countTier pa stored true

/-- The bytes of an acknowledged write counted. -/
def State.countWrite (s : State) (t pa n : Nat) : State := s.countWriteAs t pa n n

end Sys2Proof.Machine
end

