-- ==== Sys2Proof/Machine/DmaRows.lean ====
section
/-! DEFINITION. The DMA rows (10) and the memory-side rows they reach (16): TRANSFER_BEGIN, ELEMENT_BATCH, TRANSLATION_WALK,
SOURCE_READ_RETURN, WRITE_ACKNOWLEDGED, PAGE_SWAP_IN, the timeouts of host and far-tier accesses, and memory-side adds. -/

namespace Sys2Proof.Machine

/-! ### TRANSFER_BEGIN (R203, R209) -/

/-- The scratchpad address of the descriptor in a DMA slot (R159). -/
def dmaDaddr (w : Nat) : Nat := bits w 27 19 * 64

/-- The transfer with its descriptor read: registers are added modulo 2^64 (R203). -/
def Xfer.load (q : Xfer) (bs : List Byte) (sparse : Nat → Nat) : Xfer :=
  let hdr := leAt bs 0 8
  { q with
    hdr := hdr
    src := (leAt bs 8 8 + q.i.d0) % 2 ^ 64
    dst := (leAt bs 16 8 + q.i.d1) % 2 ^ 64
    cnt := leAt bs 24 8
    s := [sgn 32 (leAt bs 32 4), sgn 32 (leAt bs 36 4), sgn 32 (leAt bs 40 4)]
    d := [sgn 32 (leAt bs 44 4), sgn 32 (leAt bs 48 4), sgn 32 (leAt bs 52 4)]
    opx := leAt bs 56 8
    form := bits (sparse (bits hdr 30 4)) 112 2 }

/-- Whether a stride of a dimension within dims is not a multiple of the element size (R209). -/
def Xfer.strideBad (q : Xfer) (st : List Int) (from_ : Nat) : Bool :=
  (List.range' from_ (q.dims + 1 - from_)).any (fun k => decide (st.getD k 0 % (q.es : Int) ≠ 0))

/-- The descriptor checks of R209 that end a transfer with ST_BAD_COMMAND. -/
def Xfer.bad (q : Xfer) : Bool :=
  let h := q.hdr
  let o := q.opx
  decide (4 < q.op) || bits h 57 3 = 7 || q.dims = 3 || bit h 48 || bits h 0 14 ≠ 0 || bits q.cnt 48 16 ≠ 0 ||
  (if q.op = 2 then decide (2 < q.rop) else q.rop ≠ 0) ||
  (q.op ≠ 3 && bits h 30 4 ≠ 0) || (!q.remote && (q.node ≠ 0 || q.xtag ≠ 0)) ||
  (q.op ≠ 1 && !(q.op = 2 && q.rop = 2) && o ≠ 0) ||
  (q.op = 1 && (q.dims ≠ 2 || decide (8 < q.es) || bits o 60 4 ≠ 0 || bits o 24 12 = 0 ||
    q.n 1 ≠ (bits o 20 4 + 1) * (bits o 16 4 + 1) || q.s.getD 0 0 ≠ (q.es : Int))) ||
  (q.op = 2 && (q.es ≠ (if q.rop = 1 then 8 else 4) || (q.rop = 2 && q.dstLocal))) ||
  (q.op = 3 && (q.es ≠ 8 || !q.srcLocal || q.elems % 1024 ≠ 0 || q.d.any (fun x => x ≠ 0) || decide (4096 < q.elems / 1024)
    || q.form = 3)) ||
  (q.op = 4 && (q.es ≠ 2 || q.dims ≠ 1 || q.n 0 ≠ 40)) ||
  q.src % q.es ≠ 0 || q.dst % q.es ≠ 0 || q.strideBad q.s 0 || (q.op ≠ 3 && q.strideBad q.d (if q.op = 4 then 1 else 0)) ||
  (q.remote && q.dstLocal) || decide (2 ^ 52 ≤ q.src) || decide (2 ^ 52 ≤ q.dst)

/-- TRANSFER_BEGIN: the transfer at the head of a queue reads and checks its descriptor (R203, R209, R217). -/
def execTransferBegin (t : Byte) (queue : BitVec 2) (upsets : List Upset) (s : State) :
    Host.Outcome State Fault Refusal :=
  let t := t.toNat
  match (s.tile t).headX queue.toNat with
  | none => .next s
  | some q =>
    if q.st ≠ .queued || !s.mayRun t then .next s
    else
      let r := (s.modTile t (fun x => x.strike upsets)).spRead t (dmaDaddr q.i.word) 64
      let s := r.2.2
      if !r.2.1.isEmpty then .next (s.endX t q 0 .poisoned 0 false)
      else
        let q := { q.load r.1 (fun i => NMap.get 0 (s.tile t).sparse i) with st := .running }
        if q.bad then .next (s.endX t q 0 .badCommand 0 false)
        else .next (s.modTile t (fun x => x.modX q.ticket (fun _ => q)))

/-! ### Sources (R205, R207, R208, R214) -/

/-- Bytes read for a transfer at a resolved place, with the hidden positions of a KV run as 0 (R269, R273). -/
def State.srcPiece (s : State) (t : Nat) (va pa n key : Nat) (ext : Ext) : MemRead :=
  let m := match s.zone pa with
    | .sp u off =>
      let r := s.spRead u off n
      let s := if u = t then r.2.2 else r.2.2.count (0x300000 + 64 * u + 48) n
      { bytes := r.1, bad := !r.2.1.isEmpty, fault := false, st := s }
    | .host h =>
      let m := s.physRead pa n key ext
      let kept := ((s.tlbFind t (((s.tile t).ctx).getD 0) va).map (fun e => bit e.2 6)).getD false
      { m with st := (if kept then unitsOf h n else []).foldl State.cacheLine (m.st.count 0x304228 n) }
    | _ => let m := s.physRead pa n key ext; { m with st := m.st.countTier pa (s.stored pa n) false }
  if inKv va then
    match s.kvCheck (some t) (((s.tile t).ctx).getD 0) va false with
    | .run a r _ off =>
      { m with bytes := m.bytes.zipIdx.map (fun e =>
          a.show (fun p => s.kvVisible t (kvSlot va) (40 * r + p)) (off + e.2) e.1) }
    | _ => m
  else m

/-- The pieces of a unit read one after another: bytes, whether any reads poisoned, whether a compressed group is invalid. -/
def State.srcRead (s : State) (t : Nat) (ps : List (Nat × Nat × Nat × Nat)) (ext : Ext) : MemRead :=
  let m := ps.foldl (fun (m : MemRead) p =>
    let x := m.st.srcPiece t p.1 p.2.1 p.2.2.1 p.2.2.2 ext
    let st := (x.st.countRoute (daleAt p.2.1) (some (daleOf t)) p.2.2.1).count (0x300000 + 64 * t + 32) p.2.2.1
    { bytes := m.bytes ++ x.bytes, bad := m.bad || x.bad, fault := m.fault || x.fault, st := st })
    { bytes := [], bad := false, fault := false, st := s }
  m

/-- The source pieces of a unit resolved: (address, place, bytes, key) of each, or the failure or miss of the first that does
not resolve. -/
def State.srcPlaces (s : State) (t : Nat) (q : Xfer) (u : Nat) :
    Except (Option (Status × Nat)) (List (Nat × Nat × Nat × Nat)) :=
  (q.srcOf u).mapM (fun p => match s.resolve t q q.srcLocal p.1 p.2 false with
    | .ok pa key => .ok (p.1, pa, p.2, key)
    | .miss => .error none
    | .fails st => .error (some (st, p.1)))

/-! ### Output of a unit (R204 to R208, R232) -/

/-- One stored lane-row in a structured form, or none when a group has more than N non-zero trits (R226, R232, R233). -/
def packRow (n : Nat) (row : List Nat) : Option (List Byte) :=
  let groups := row.map (fun b => ((List.range 5).filter (fun i => trit b i ≠ 0)).map (fun i =>
    i * 4 + (if trit b i = 1 then 1 else 3)))
  if groups.any (fun g => decide (n < g.length)) then none
  else
    let v := (groups.zipIdx.map (fun e => (e.1.zipIdx.map (fun p => p.1 * 2 ^ (5 * (n * e.2 + p.2)))).sum)).sum
    some (leBytes (5 * n) v)

/-- The record of a weight block: none on a format fault, empty for a zero block (R225, R232, R233). -/
def packBlock (form : Nat) (bs : List Byte) : Option (List Byte) :=
  let rows := (List.range 1024).map (fun l => ((bs.drop (8 * l)).take 8).map BitVec.toNat)
  let kept := rows.map (fun r => r.any (fun b => b ≠ 121))
  if bs.any (fun b => !t5Valid b.toNat) then none
  else if !kept.any id then some []
  else
    let map0 := (List.range 128).map (fun i => BitVec.ofNat 8 ((List.range 8).map (fun j =>
      if kept.getD (8 * i + j) false then 2 ^ j else 0)).sum)
    ((rows.filter (fun r => r.any (fun b => b ≠ 121))).mapM (fun r =>
      if form = 0 then some (r.map (fun b => BitVec.ofNat 8 b)) else packRow form r)).map (fun rs =>
        let body := map0 ++ rs.flatten
        body ++ List.replicate ((8 - body.length % 8) % 8) 0)

/-- The front of an image of `b` blocks from its block records (R224, R232). -/
def packFront (b : Nat) (dir : NMap (Nat × Nat)) : List Byte :=
  let has := fun n => (NMap.get? dir n).isSome
  let bitmap := fun (n words : Nat) (f : Nat → Bool) => (List.range (8 * words)).map (fun i =>
    BitVec.ofNat 8 ((List.range 8).map (fun j => if decide (8 * i + j < n) && f (8 * i + j) then 2 ^ j else 0)).sum)
  bitmap ((b + 63) / 64) 1 (fun g => (List.range 64).any (fun k => has (64 * g + k))) ++
  bitmap b ((b + 63) / 64) has ++
  (List.range (2 * ((b + 1) / 2))).flatMap (fun n => match NMap.get? dir n with
    | some e => leBytes 4 ((frontBytes b + e.1) / 8)
    | none => leBytes 4 0)

/-- What a unit writes from its source bytes; none is ST_FORMAT_FAULT. -/
def Xfer.output (q : Xfer) (u : Nat) (bs : List Byte) : Option (List Byte) :=
  if q.op = 3 then
    if q.elems / 1024 ≤ u then some (packFront (q.elems / 1024) q.dir) else packBlock q.form bs
  else if q.op = 4 then
    (toB16 ((List.range 40).map (fun i => leAt bs (2 * i) 2))).map (fun r => b16Bytes r.1 r.2)
  else if q.op = 1 && bs.isEmpty then some (List.replicate q.es 0)
  else if bs.length = q.perUnit * q.es then some bs
  else none

/-- The bytes a unit writes, as far as they are known without its source. -/
def Xfer.outLen (q : Xfer) : Nat := if q.op = 4 then 88 else q.es

/-- A write of a resolved piece as an outstanding one. -/
def State.outW (s : State) (q : Xfer) (u va pa key : Nat) (data : List Byte) (poison : Bool) : OutW :=
  let kind := if q.remote then 3 else if q.op = 2 then (if q.rop = 2 then 2 else 1)
    else if ((s.regionAt pa).map (·.compressed)).getD false then 4 else 0
  let r := (s.regionAt pa).getD default
  { idx := u, kind := kind, va := va, pa := if q.remote then va else pa, key := key, data := data, poison := poison,
    grp := if kind = 4 then r.base + (pa - r.base) / 192 * 128 else 0,
    off := if kind = 4 then (pa - r.base) % 192 else 0, serial := none }

/-- The pieces of a unit's output resolved. -/
def State.dstPlaces (s : State) (t : Nat) (q : Xfer) (u n : Nat) :
    Except (Option (Status × Nat)) (List (Nat × Nat × Nat × Nat)) :=
  (q.dstPieces u n).mapM (fun p =>
    if q.remote then (if 2 ^ 52 ≤ p.1 then .error (some (.translationFault, p.1)) else .ok (p.1, 0, p.2, 0))
    else match s.resolve t q q.dstLocal p.1 p.2 true with
      | .ok pa key => .ok (p.1, pa, p.2, key)
      | .miss => .error none
      | .fails st => .error (some (st, p.1)))

/-- A failing access: its status and the address it was made at. -/
abbrev Failing := Status × Nat

/-- The first of two failures at one element in the order of R221. -/
def firstFail (a b : Option Failing) : Option Failing :=
  match a, b with
  | some x, some y => if statusRank x.1 ≤ statusRank y.1 then some x else some y
  | some x, none => some x
  | none, y => y

/-- What an access that the caches miss ends with, by the walk it needs (R201, R269). -/
def State.missFails (s : State) (t : Nat) (q : Xfer) (va n : Nat) (write : Bool) : Option Status :=
  let c := ((s.tile t).ctx).getD 0
  if inKv va then
    match s.kvCheck (some t) c va write with
    | .fails st => some st
    | .run .. => if s.kvMapBad va then some .poisoned else none
    | .swapped => none
  else match (s.walk c va).1 with
    | .leaf pa size pte =>
      match s.checked t q c (s.epochOn t) (pa + va % size) pte n write with
      | .fails st => some st
      | _ => none
    | .malformed => some .translationFault
    | .poisoned => some .poisoned
    | _ => none

/-- What an access of a transfer ends with, if it fails. -/
def State.accFails (s : State) (t : Nat) (q : Xfer) (loc : Bool) (va n : Nat) (write : Bool) : Option Failing :=
  (match s.resolve t q loc va n write with
    | .fails st => some st
    | .miss => if loc then none else s.missFails t q va n write
    | .ok _ _ => none).map (fun st => (st, va))

/-- The failure of a unit on its source side, or on its destination side as far as its output is known (R221). -/
def State.sideFail (s : State) (t : Nat) (q : Xfer) (u : Nat) (write : Bool) : Option Failing :=
  if !write then (q.srcOf u).findSome? (fun p => s.accFails t q q.srcLocal p.1 p.2 false)
  else (q.dstPieces u q.outLen).findSome? (fun p =>
    if q.remote then (if 2 ^ 52 ≤ p.1 then some (.translationFault, p.1) else none)
    else s.accFails t q q.dstLocal p.1 p.2 true)

/-- A transfer ends at the unit it was to issue, with the first of its failures there (R221). -/
def State.endUnit (s : State) (t : Nat) (q : Xfer) (f : Failing) (write : Bool) : State :=
  let w := firstFail (some f) (s.sideFail t q q.nextIssue (!write))
  let f' := w.getD f
  s.endX t q q.nextIssue f'.1 f'.2 (if f' = f then write else !write)

/-! ### ELEMENT_BATCH (R204, R210) -/

/-- Where a piece is written, which tells the pieces of a unit apart. -/
def OutW.place (w : OutW) : Nat := if w.kind = 4 then w.grp else w.pa

/-- A unit issued with its source bytes, none for a compressed group that does not decode: its writes become outstanding, but for
pieces already acknowledged before a stop, or the transfer ends (R204, R215, R221). -/
def State.issueUnit (s : State) (t : Nat) (q : Xfer) (bs : Option (List Byte)) (poison : Bool) : Option State :=
  let u := q.nextIssue
  match bs.bind (q.output u) with
  | none => some (s.endUnit t q (.formatFault, 0) false)
  | some out =>
    match s.dstPlaces t q u out.length with
    | .error none => none
    | .error (some f) => some (s.endUnit t q f true)
    | .ok ps =>
      let base := (ps.head?.map (·.1)).getD 0
      let ws := (ps.map (fun p => s.outW q u p.1 p.2.1 p.2.2.2 ((out.drop (p.1 - base)).take p.2.2.1) poison)).filter
        (fun w => !q.partly.contains (u, w.place))
      let block := q.op = 3 && decide (u < q.elems / 1024)
      let q' := { q with
        nextIssue := u + 1
        outst := q.outst ++ ws
        staged := NMap.del q.staged u
        dir := if block && !out.isEmpty then NMap.put q.dir u (q.outOff, out.length) else q.dir
        outOff := if block then q.outOff + out.length else q.outOff
        anyPoison := q.anyPoison || poison }
      some ((s.modTile t (fun x => x.modX q.ticket (fun _ => q'))).afterAck t q.ticket)

/-- The next unit of the running transfer of a queue issued, if it can be. -/
def State.issueNext (s : State) (t queue : Nat) : Option State :=
  match s.runningX t queue with
  | none => none
  | some q =>
    if q.units ≤ q.nextIssue then none
    else
      let u := q.nextIssue
      match s.srcPlaces t q u with
      | .error e => e.map (fun f => s.endUnit t q f false)
      | .ok ps =>
        if q.srcLocal || ps.isEmpty then
          match s.dstPlaces t q u q.outLen with
          | .error none => if q.op = 3 then
              let m := s.srcRead t ps default
              m.st.issueUnit t q (some m.bytes) m.bad
            else none
          | _ =>
            let m := s.srcRead t ps default
            m.st.issueUnit t q (some m.bytes) m.bad
        else (NMap.get? q.staged u).bind (fun e => s.issueUnit t q e.1 e.2)

/-- Units issued one after another. -/
def State.issueMany (s : State) (t queue : Nat) : Nat → State
  | 0 => s
  | n + 1 => match s.issueNext t queue with
    | some s => s.issueMany t queue n
    | none => s

/-- Whether the engine serves a queue now: it goes round the queues, one batch each, past those with nothing to issue (R210). -/
def State.inTurn (s : State) (t queue : Nat) : Bool :=
  let k := (s.tile t).turn
  (List.range ((queue + 3 - k) % 4)).all (fun i => (s.issueNext t ((k + 1 + i) % 4)).isNone)

/-- ELEMENT_BATCH: up to 32 elements and 128 B of a queue's running transfer; a conversion group or a weight block is issued
whole (R204 to R208, R210, R389). -/
def execElementBatch (t : Byte) (queue : BitVec 2) (n : BitVec 6) (checkFault : Bool) (upsets : List Upset) (s : State) :
    Host.Outcome State Fault Refusal :=
  let t := t.toNat
  match s.runningX t queue.toNat with
  | none => .next s
  | some q =>
    if !s.inTurn t queue.toNat then .next s
    else
      let s := s.modTile t (fun x => { x.strike upsets with turn := queue.toNat })
      if checkFault then .next (s.datapath t q 0)
      else .next (s.issueMany t queue.toNat (if q.perUnit = 1 then min n.toNat (min 32 (128 / q.es)) else min n.toNat 1))

/-! ### SOURCE_READ_RETURN and the read timeouts (R214, R339, R360) -/

/-- The next unit whose source is away from the tile and has not been read: its pieces. -/
def State.nextSource (s : State) (t : Nat) (q : Xfer) : Option (Nat × List (Nat × Nat × Nat × Nat)) :=
  if q.srcLocal then none
  else (List.range' q.nextIssue (min 32 (q.units - q.nextIssue))).findSome? (fun u =>
    if (NMap.get? q.staged u).isSome then none
    else match s.srcPlaces t q u with
      | .ok ps => if ps.isEmpty then none else some (u, ps)
      | .error _ => none)

/-- Source data staged for a unit; none where a compressed group does not decode (R54, R214). -/
def State.stage (_s : State) (t : Nat) (q : Xfer) (u : Nat) (m : MemRead) (poison : Bool) : State :=
  m.st.modTile t (fun x => x.modX q.ticket (fun p =>
    { p with staged := NMap.put p.staged u (if m.fault then none else some m.bytes, m.bad || poison) }))

/-- What host memory answers for the pieces of a unit: the bytes the row brought, in order. -/
def hostExt (s : State) (ps : List (Nat × Nat × Nat × Nat)) (data : List Byte) : Ext :=
  let r := ps.foldl (fun (a : List (Nat × Byte) × List Byte) p => match s.zone p.2.1 with
    | .host h => ((List.range p.2.2.1).foldl (fun m i => NMap.put m (h + i) (a.2.getD i 0)) a.1, a.2.drop p.2.2.1)
    | _ => a) ([], data)
  { cells := r.1, poison := [] }

/-- SOURCE_READ_RETURN: the data of the next source element that lies away from the tile arrives (R214, R331, R332). -/
def execSourceReadReturn (t : Byte) (queue : BitVec 2) (data : List Byte) (poison : Bool) (upsets : List Upset)
    (s : State) : Host.Outcome State Fault Refusal :=
  let t := t.toNat
  match s.runningX t queue.toNat with
  | none => .next s
  | some q =>
    match s.nextSource t q with
    | none => .next s
    | some (u, ps) =>
      let s := s.strikeHbm upsets
      .next (s.stage t q u (s.srcRead t ps (hostExt s ps data)) poison)

/-- A read that never completes: its data is poisoned, its bytes free values (R339, R360). -/
def State.readTimeout (s : State) (t queue : Nat) (hit : Zone → Bool) (ev : Nat → State → Ev) : State :=
  match s.runningX t queue with
  | none => s
  | some q =>
    match s.nextSource t q with
    | none => s
    | some (u, ps) =>
      match ps.find? (fun p => hit (s.zone p.2.1)) with
      | none => s
      | some p =>
        let n := (ps.map (fun p => p.2.2.1)).sum
        let m : MemRead := { bytes := (List.range n).map (fun i => BitVec.ofNat 8 (s.fv i)), bad := true, fault := false,
                             st := s.used n }
        (s.stage t q u m true).raise (ev p.2.1 s)

/-- FAR_READ_TIMEOUT (R339). -/
def execFarReadTimeout (t : Byte) (queue : BitVec 2) (s : State) : Host.Outcome State Fault Refusal :=
  .next (s.readTimeout t.toNat queue.toNat (fun z => match z with | .far _ => true | _ => false)
    (fun pa _ => evUnit 4 ((pa - farBase) / farSpan) 0x07 1 [(24, 1, 0), (32, 8, pa)]))

/-- HOST_READ_TIMEOUT (R360). -/
def execHostReadTimeout (t : Byte) (queue : BitVec 2) (s : State) : Host.Outcome State Fault Refusal :=
  .next (s.readTimeout t.toNat queue.toNat (fun z => match z with | .host _ => true | _ => false)
    (fun pa s => { s.evTile t.toNat 0x08 1 [(24, 8, pa - hostBase)] with unit := 0, index := 0, gen := 0 }))

/-! ### TRANSLATION_WALK (R197 to R201, R268, R269) -/

/-- The first address of a transfer that its caches miss: the unit, the address, whether it is written. -/
def State.nextMiss (s : State) (t : Nat) (q : Xfer) : Option (Nat × Nat × Bool) :=
  (List.range' q.nextIssue (min 32 (q.units - q.nextIssue))).findSome? (fun u =>
    let src := if q.srcLocal || (NMap.get? q.staged u).isSome then none
      else ((q.srcOf u).find? (fun p => s.resolve t q false p.1 p.2 false = .miss)).map (fun p => (u, p.1, false))
    let n := if q.op = 3 then
        (((q.output u (((q.srcOf u).map (fun p => Bytes.rd (s.tile t).sp p.1 p.2)).flatten)).map (·.length)).getD 0)
      else q.outLen
    let dst := if q.dstLocal || q.remote || (q.op = 3 && u ≠ q.nextIssue) then none
      else ((q.dstPieces u n).find? (fun p => s.resolve t q false p.1 p.2 true = .miss)).map (fun p => (u, p.1, true))
    src.orElse (fun _ => dst))

/-- A translation cached in the KV look-aside buffer, which keeps 64 runs (R268). -/
def Tile.kvbAdd (x : Tile) (c va pa size : Nat) : Tile :=
  { x with kvb := ({ ctx := c, va := va, size := size, pa := pa, leaf := 0, gen := 0 } :: x.kvb).take 64 }

/-- The KV map entry of an aperture address found uncorrectable: it is marked poisoned, with its event. Where the entry lies is not
architectural, so the event's address is a free value (R201, R268, R332). -/
def State.strikeKvMap (s : State) (va : Nat) : State :=
  match s.kvRun va, s.kvAttn (kvSlot va) (kvLayer va) with
  | some r, some a =>
    if r.bad then s
    else
      let s := (s.raise (evUnit 3 0 0x04 1 [(24, 8, s.fv 0), (32, 1, 1)])).used 1
      s.modSeq (kvSlot va) (fun q =>
        { q with runs := NMap.put q.runs (runKey (kvLayer va) (kvOff va / a.runBytes)) { r with bad := true } })
  | _, _ => s

/-- TRANSLATION_WALK: the next missing translation of a queue's transfer is walked. A failure ends or suspends the transfer
only at the element it is to issue next. An upset at or beyond the HBM's size strikes the KV map entry (R201, R268). -/
def execTranslationWalk (t : Byte) (queue : BitVec 2) (checkFault : Bool) (upsets : List Upset) (s : State) :
    Host.Outcome State Fault Refusal :=
  let t := t.toNat
  match s.walkingX t queue.toNat with
  | none => .next s
  | some q =>
    match s.nextMiss t q with
    | none => .next s
    | some (u, va, write) =>
      let c := ((s.tile t).ctx).getD 0
      let now := decide (u = q.nextIssue)
      let fail := fun (s : State) (st : Status) => if now && q.st = .running then s.endUnit t q (st, va) write else s
      let fault := fun (s : State) (reason : Nat) => if now then s.faultX t q reason va write else s
      if checkFault then .next (if q.st = .running then s.datapath t q 1 else s)
      else if inKv va then
        let s := if upsets.any (fun e => decide (hbmSize ≤ e.off) && e.double) then s.strikeKvMap va else s
        match s.kvCheck (some t) c va write with
        | .fails st => .next (fail s st)
        | .swapped => .next (fault s 2)
        | .run a _ pa off =>
          if s.kvMapBad va then .next (fail s .poisoned)
          else .next (s.modTile t (fun x => x.kvbAdd c (va - off) pa a.runBytes))
      else
        let w := (s.strikeHbm upsets).walkTile t c va
        match w.1 with
        | .leaf pa size pte => .next (w.2.tlbAdd t c va pa size pte)
        | .absent => .next (fault w.2 1)
        | .swapped => .next (fault w.2 2)
        | .malformed => .next (fail w.2 .translationFault)
        | .poisoned => .next (fail w.2 .poisoned)

/-! ### PAGE_SWAP_IN (R218, R279, R444) -/

/-- The faults of a context that a range resolves are struck off, and the context resumes when none is left. -/
def State.resolveFaults (s : State) (c reason lo n : Nat) : State :=
  let hit := fun (f : Nat × Nat × Nat) => f.2.2 = reason && (s.tile f.1).xfers.any (fun q =>
    q.ticket = f.2.1 && decide (lo ≤ q.faultVa) && decide (q.faultVa < lo + n))
  (s.modCtx c (fun x => { x with susp := x.susp.filter (fun f => !hit f) })).resumeCtx c

/-- PAGE_SWAP_IN: the page or KV run of a swapped fault is brought back and the context resumes. -/
def execPageSwapIn (ctx : Byte) (va : W64) (tagsOk : Bool) (s : State) : Host.Outcome State Fault Refusal :=
  let c := ctx.toNat
  let va := va.toNat
  if inKv va then
    let slot := kvSlot va
    match s.kvAttn slot (kvLayer va) with
    | some a =>
      let r := kvOff va / a.runBytes
      if (s.seq slot).ctx = c && decide (s.kvCheck none c va false = .swapped) then
        match s.runIn slot (runKey (kvLayer va) r) (fun _ => !tagsOk) with
        | some s => .next (s.resolveFaults c 2 (va - kvOff va % a.runBytes) a.runBytes)
        | none => .next s
      else .next s
    | none => .next s
  else
    match (s.ctx? c).bind (fun x => x.swappedAt va), s.pageIn c va (fun _ => !tagsOk) with
    | some e, some s => .next (s.resolveFaults c 2 e.1 e.2.2.2)
    | _, _ => .next s

/-! ### Writes applied (R211 to R214) -/

/-- Integer addition of R115 on bytes. -/
def addBytes (a b : List Byte) : List Byte := leBytes a.length ((leVal a + leVal b) % 256 ^ a.length)

/-- A write to host memory ends the retry safety of the tile's work (R415). -/
def State.markDirty (s : State) (t pa : Nat) : State :=
  match s.zone pa with
  | .host _ => (s.worksOn t).foldl (fun s w => s.modWork w (fun x => { x with dirty := true })) s
  | _ => s

/-- An invocation any of whose transfers leaves a cell it wrote marked ends poisoned (R188, R332, R414). -/
def State.noteMarks (s : State) (t pa n : Nat) : State :=
  let marked := match s.zone pa with
    | .sp u off => (cellsOf off n).any (fun c => (s.tile u).poison.contains c)
    | .hbm _ => (unitsOf pa n).any (fun u => s.mem.hbmPoison.contains u)
    | .far _ => (unitsOf pa n).any (fun u => s.mem.farPoison.contains u)
    | _ => false
  if marked then s.modCore t (fun c => { c with poisonSeen := true }) else s

/-- An integer operand added at its destination as one act (R115, R184, R346). -/
def State.applyAdd (s : State) (pa : Nat) (data : List Byte) (key : Nat) (poison : Bool) : State :=
  let m := s.physRead pa data.length key default
  m.st.physWrite pa (addBytes m.bytes data) key (poison || m.bad)

/-- Outstanding writes settled: they leave the transfer. A piece at or above next_elem is kept in mind, so that a resumed transfer
does not write it again (R215). -/
def Xfer.ack (q : Xfer) (p : OutW → Bool) : Xfer :=
  let q' := { q with outst := q.outst.filter (fun w => !p w) }
  { q' with partly := (q.partly ++ (q.outst.filter p).map (fun w => (w.idx, w.place))).filter (fun e =>
      decide (q'.nextUnit ≤ e.1)) }

/-- Outstanding writes of a transfer acknowledged. -/
def State.dropOut (s : State) (t ticket : Nat) (p : OutW → Bool) : State :=
  s.modTile t (fun x => x.modX ticket (fun q => q.ack p))

/-- Outstanding writes that a test picks fail with a status and are not applied: the lowest of them is where the transfer ends
(R215, R220, R407). -/
def State.failOuts (s : State) (t : Nat) (q : Xfer) (p : OutW → Bool) (st : Status) : State :=
  match q.outst.filter p with
  | [] => s
  | w :: ws =>
    let low := ws.foldl (fun (b : OutW) v => if v.idx < b.idx then v else b) w
    s.endX t { q with outst := q.outst.filter (fun v => !p v) } low.idx st low.va true

/-- A write that its target turned away: its element fails (R220, R407). -/
def State.failOut (s : State) (t : Nat) (q : Xfer) (w : OutW) (st : Status) : State :=
  s.failOuts t q (fun v => v.idx = w.idx) st

/-- The target's answer to a write that was issued: one under a disable still completes (R314); the tile's own scratchpad always
takes it (R334, R339, R407), but for a block that has become resident meanwhile (R192). -/
def State.turnedAway (s : State) (t pa : Nat) : Option Status :=
  match s.zone pa with
  | .sp u off =>
    if (s.tile u).residentAt off 1 then some .permission
    else if u = t then none
    else if (s.tile u).inReset then some .targetReset
    else if (s.quad (quadOf u)).off then some .targetOff else none
  | .far p => if (s.far p).failed || !(s.far p).enabled then some .targetOff else none
  | _ => s.targetFails pa true

/-- The pieces of an element written and acknowledged. -/
def State.ackElem (s : State) (t : Nat) (q : Xfer) (w : OutW) : State :=
  let ws := q.outst.filter (fun v => v.idx = w.idx && v.kind = w.kind)
  match ws.findSome? (fun v => s.turnedAway t v.pa) with
  | some st => s.failOut t q w st
  | none =>
    let s := ws.foldl (fun s v =>
      (((if v.kind = 1 then s.applyAdd v.pa v.data v.key v.poison else s.physWrite v.pa v.data v.key v.poison).countWrite t
        v.pa v.data.length).markDirty t v.pa).noteMarks t v.pa v.data.length) s
    (s.dropOut t q.ticket (fun v => v.idx = w.idx && v.kind = w.kind)).afterAck t q.ticket

/-- A complete compressed group encoded and written (R213, R344). -/
def State.ackGroup (s : State) (t : Nat) (q : Xfer) (w : OutW) : State :=
  let ws := groupParts q.outst w.grp
  match s.turnedAway t w.grp, s.regionAt w.pa with
  | some st, _ => s.failOut t q w st
  | none, none => s.failOut t q w .permission
  | none, some r =>
    let bs := (List.range 192).map (fun i =>
      (((ws.filter (fun v => decide (v.off ≤ i) && decide (i < v.off + v.data.length))).getLast?).map (fun v =>
        v.data.getD (i - v.off) 0)).getD 0)
    let g := s.groupWrite r ((w.grp - r.base) / 128) bs w.key (ws.any (fun v => v.poison))
    if g.1 then ((g.2.countWriteAs t w.grp 192 128).dropOut t q.ticket (fun v => v.kind = 4 && v.grp = w.grp)).afterAck t q.ticket
    else s.failOuts t q (fun v => v.kind = 4 && v.grp = w.grp) .formatFault

/-- Whether WRITE_ACKNOWLEDGED settles an outstanding write: plain bytes, integer adds in scratchpad, complete groups. -/
def State.ackable (s : State) (q : Xfer) (w : OutW) : Bool :=
  w.kind = 0 || (w.kind = 1 && (match s.zone w.pa with | .sp _ _ => true | _ => false)) ||
  (w.kind = 4 && groupComplete q.outst w.grp)

/-- WRITE_ACKNOWLEDGED: the lowest outstanding element of a queue's transfer is written and acknowledged, or the compressed group
it belongs to; the last one adds the signal and completes the ticket. A group that is still incomplete when everything has been
issued ends the transfer (R211 to R217, R221). -/
def execWriteAcknowledged (t : Byte) (queue : BitVec 2) (s : State) : Host.Outcome State Fault Refusal :=
  let t := t.toNat
  match (s.tile t).headX queue.toNat with
  | none => .next s
  | some q =>
    match q.outst.head? with
    | none => .next s
    | some w =>
      if s.ackable q w then (if w.kind = 4 then .next (s.ackGroup t q w) else .next (s.ackElem t q w))
      else if w.kind = 4 && q.st = .running && decide (q.units ≤ q.nextIssue) then
        .next (s.endX t q w.idx .formatFault w.va true)
      else .next s

/-! ### Memory-side arithmetic (R346 to R350) -/

/-- The lowest outstanding write of a queue's transfer, if it is an operand for memory-side arithmetic of a kind. -/
def State.operandOf (s : State) (t queue kind : Nat) : Option (Xfer × OutW) :=
  match (s.tile t).headX queue with
  | none => none
  | some q =>
    match q.outst.head? with
    | some w => if w.kind = kind && !s.ackable q w then some (q, w) else none
    | none => none

/-- The event of a memory-side adder whose check fails (R389). -/
def evAdder (pa : Nat) : Ev := evUnit 3 (stackOf pa) 0x26 1 [(24, 1, 3), (32, 8, pa)]

/-- INT_ADD_OPERAND: a memory-side integer add, as one indivisible act (R115, R346). -/
def execIntAddOperand (t : Byte) (queue : BitVec 2) (checkFault : Bool) (s : State) : Host.Outcome State Fault Refusal :=
  let t := t.toNat
  match s.operandOf t queue.toNat 1 with
  | none => .next s
  | some (q, w) =>
    match s.turnedAway t w.pa with
    | some st => .next (s.failOut t q w st)
    | none =>
      let s := if checkFault then s.raise (evAdder w.pa) else s
      let s := ((s.applyAdd w.pa w.data w.key (w.poison || checkFault)).countWrite t w.pa w.data.length).noteMarks t w.pa
        w.data.length
      .next ((s.dropOut t q.ticket (fun v => v.idx = w.idx)).afterAck t q.ticket)

/-- Bytes that the open trees of a stack hold (R348). -/
def Stack.reserved (x : Stack) : Nat := (x.trees.map (fun r => 16 + 4 * r.n)).sum

/-- An fp32 operand for a destination, with its index and count field: the status it is refused with, or the state with it
applied and the flags raised (R347 to R350). An unordered add acts on arrival in a reference-mode context too (DESIGN CHOICE, log
entry 166). -/
def State.fp32Operand (s : State) (c pa opx : Nat) (data : List Byte) (key : Nat) (poison : Bool) :
    Except Status (State × Nat) :=
  let k := stackOf pa
  let i := bits opx 32 32
  let cf := bits opx 0 32
  let n := cf + 1
  let x := leVal data
  if cf = 0xFFFFFFFF then
    let m := s.physRead pa 4 key default
    let v := fAdd (leVal m.bytes) x
    .ok (m.st.physWrite pa (leBytes 4 v.1) key (poison || m.bad), v.2)
  else if 0xFFFF < cf || n ≤ i then .error .formatFault
  else
    let st := s.stack k
    let isT := fun (r : Tree) => r.ctx = c && r.dst = pa && r.n = n
    let tr := st.trees.find? isT
    if (tr.bind (fun r => NMap.get? r.leaves i)).isSome then .error .formatFault
    else if tr.isNone && decide ((s.redArea k).2 < st.reserved + 16 + 4 * n) then .error .noResource
    else
      let r : Tree := tr.getD { ctx := c, dst := pa, n := n, leaves := [] }
      let r := { r with leaves := NMap.put r.leaves i (x, poison) }
      let rest := st.trees.filter (fun r => !isT r)
      if r.leaves.length < n then .ok (s.modStack k (fun st => { st with trees := rest ++ [r] }), 0)
      else
        let root := fixedSum (r.leaves.map (fun e => e.2.1))
        let m := (s.modStack k (fun st => { st with trees := rest })).physRead pa 4 key default
        let v := fAdd (leVal m.bytes) root.1
        .ok (m.st.physWrite pa (leBytes 4 v.1) key (m.bad || r.leaves.any (fun e => e.2.2)), root.2 ||| v.2)

/-- Whether the operand's tree still waits for others, so that its destination is not written yet (R347, R348). -/
def State.treeOpen (s : State) (c pa opx : Nat) : Bool :=
  decide (bits opx 0 32 ≠ 0xFFFFFFFF) &&
    (s.stack (stackOf pa)).trees.any (fun r => r.ctx = c && r.dst = pa && r.n = bits opx 0 32 + 1)

/-- An fp32 operand of a tile's transfer applied: the ticket's element is acknowledged, its flags are sticky on the sending
tile (R350). -/
def State.fp32Row (s : State) (t queue : Nat) (unordered checkFault : Bool) : State :=
  match s.operandOf t queue 2 with
  | none => s
  | some (q, w) =>
    if (bits q.opx 0 32 = 0xFFFFFFFF) != unordered then s
    else match s.turnedAway t w.pa with
      | some st => s.failOut t q w st
      | none =>
        let s := if checkFault then s.raise (evAdder w.pa) else s
        match s.fp32Operand (((s.tile t).ctx).getD 0) w.pa q.opx w.data w.key (w.poison || checkFault) with
        | .error st => s.failOut t q w st
        | .ok (s, fl) =>
          let s := (s.modCore t (fun c => { c with sticky := c.sticky ||| fl })).countWrite t w.pa 4
          let s := if s.treeOpen (((s.tile t).ctx).getD 0) w.pa q.opx then s else s.noteMarks t w.pa 4
          (s.dropOut t q.ticket (fun v => v.idx = w.idx)).afterAck t q.ticket

/-- FP32_TREE_OPERAND (R347, R348, R350). -/
def execFp32TreeOperand (t : Byte) (queue : BitVec 2) (checkFault : Bool) (s : State) :
    Host.Outcome State Fault Refusal :=
  .next (s.fp32Row t.toNat queue.toNat false checkFault)

/-- UNORDERED_ADD (R349, R350). -/
def execUnorderedAdd (t : Byte) (queue : BitVec 2) (checkFault : Bool) (s : State) : Host.Outcome State Fault Refusal :=
  .next (s.fp32Row t.toNat queue.toNat true checkFault)

/-! ### FAR_WRITE_FAILURE (R339) -/

/-- Whether a write goes to a far-tier port. -/
def State.toFar (s : State) (p : Nat) (w : OutW) : Bool := w.kind ≠ 3 && decide (s.zone w.pa = .far p)

/-- The device bytes that a write stores: those of its group, or those it carries. -/
def OutW.places (w : OutW) : List Nat := if w.kind = 4 then List.range' w.grp 128 else List.range' w.pa w.data.length

/-- Every transfer with a write outstanding to a port ends with ST_TARGET_OFF; the bytes those writes were to store are lost. -/
def State.failFarWrites (s : State) (p : Nat) : State :=
  (NMap.keysOf s.tiles (fun _ _ => true)).foldl (fun s t =>
    ((s.tile t).xfers.filter (fun q => q.outst.any (s.toFar p))).foldl (fun s q =>
      let lost := (q.outst.filter (s.toFar p)).flatMap OutW.places
      let s := { s with mem := { s.mem with farLost := lost.foldl insertNat s.mem.farLost } }
      s.failOuts t q (s.toFar p) .targetOff) s) s

/-- A far-tier port put into the failed state with its event (R339, R400). -/
def State.failFar (s : State) (p cause addr : Nat) : State :=
  let s := (s.modFar p (fun f => { f with failed := true })).raise (evUnit 4 p 0x07 1 [(24, 1, cause), (32, 8, addr)])
  s.failFarWrites p

/-- FAR_WRITE_FAILURE: a write with no completion, or any completion with an error status. -/
def execFarWriteFailure (p : BitVec 1) (errorCompletion : Bool) (addr : W64) (s : State) :
    Host.Outcome State Fault Refusal :=
  let p := p.toNat
  if !(s.far p).present || (s.far p).failed then .next s
  else .next (s.failFar p (if errorCompletion then 2 else 1) addr.toNat)

end Sys2Proof.Machine
end

