-- ==== Sys2Proof/Machine/Bundle.lean ====
section
/-! DEFINITION. Wide bundles (08, R155 to R163), waits of the sync slot (R161, R319 to R323), the resolution of branches
(R171), stops of a core (R167). -/

namespace Sys2Proof.Machine

/-! ### The header (R156) -/

/-- A bad header, or a slot that is not present and holds a bit (R156). -/
def headerBad (v : Nat) : Bool :=
  bits v 13 3 ≠ 0 || bit v 7 || bits v 8 5 = 0 || (!hasArray v && bnArray v ≠ 0) || (!hasVector v && bnVector v ≠ 0) ||
  (!hasDma v && bnDma v ≠ 0) || (!hasSync v && bnSync v ≠ 0) || (!hasScalar v && bnScalar v ≠ 0)

/-! ### The array slot (R78, R85, R99, R111) -/

/-- Whether a step operation's value is legal. -/
def stepLegal (w : Nat) : Bool :=
  decide (stBase w + stCount w ≤ 256) && bits w 0 10 = 0 &&
  (if stMode w = 1 then
    stPlaneN w ≠ 0 && stTag w = 2 && !stOutlier w && decide (stSlot w + planeSlots (stPlaneN w + 1) ≤ 16)
  else stPlaneN w = 0 && decide (stTag w < 2)) &&
  (!stOutlier w || (stG w = 1 && decide (stBase w + 2 * stCount w ≤ 256)))

/-- Whether a load's value is legal. -/
def loadLegal (w : Nat) : Bool :=
  let n := planeSlots (stPlaneN w + 1)
  if stMode w = 1 then
    stPlaneN w ≠ 0 && decide (ldForm w < 2) && !ldPatch w && decide (stSlot w + n ≤ 16) && bits w 0 22 = 0 &&
    decide (ldWblock w + n + ldForm w ≤ 2304)
  else stPlaneN w = 0 && decide (ldWblock w ≤ 2303) && bits w 0 30 = 0

/-- Whether a drain's value is legal (R111). -/
def drainLegal (w : Nat) : Bool :=
  decide (drForm w ≤ 4) && drRound w ≠ 3 && (drDest w || drForm w = 0) && (drForm w ≠ 0 || (!drWscale w && !drTscale w)) &&
  decide (drBase w + (if drFold w then 2 * drCount w else drCount w) ≤ 256) && bits w 0 17 = 0

/-- Whether an array-slot value is legal. -/
def arrayLegal (w : Nat) : Bool :=
  match arKind w with
  | 0 => stepLegal w
  | 1 => loadLegal w
  | 2 => drainLegal w
  | _ => false

/-! ### The DMA slot (R159) -/

def dmGa (w : Nat) : Nat := bits w 22 5
def dmGb (w : Nat) : Nat := bits w 17 5
def dmSig (w : Nat) : Bool := bit w 16
def dmGs (w : Nat) : Nat := bits w 11 5
def dmQueue (w : Nat) : Nat := bits w 9 2

/-- Whether a DMA-slot value is legal. -/
def dmaLegal (w : Nat) : Bool :=
  bits w 46 2 = 0 && bits w 0 9 = 0 && (dmSig w || dmGs w = 0) && inSp (dmaDaddr w) 64

/-! ### The sync slot (R160) -/

/-- Whether a sync-slot value is legal with the value of its ga register, and the engines' issued counts (R160, R163). -/
def syncLegal (w id : Nat) (issued : Nat → Nat) : Bool :=
  let k := syKind w
  bits w 0 5 = 0 && decide (1 ≤ k) && decide (k ≤ 5) &&
  (k = 1 || (syMask w = 0 && !syAll w)) &&
  (k = 2 || k = 3 || syGb w = 0) &&
  (k = 1 || k = 2 || k = 5 || (syPd w = 0 && !syPdEn w)) &&
  (k = 2 || k = 5 || syLim w = 0) &&
  decide (syLim w ≤ 40) && (syLim w = 0 || syPdEn w) &&
  (k ≠ 1 || (if syAll w then !syPdEn w
    else (syMask w = 1 || syMask w = 2 || syMask w = 4) && decide (id ≤ issued (syEngine w)))) &&
  !((k = 2 || k = 3) && decide (16384 ≤ id)) && !((k = 4 || k = 5) && decide (4096 ≤ id))

/-- Whether the object a sync slot names exists (R160). -/
def State.syncObject (s : State) (c w id : Nat) : Bool :=
  if syKind w = 2 || syKind w = 3 then (NMap.get? s.signals (objKey c id)).isSome
  else if syKind w = 4 || syKind w = 5 then (NMap.get? s.barriers (objKey c id)).isSome
  else true

/-! ### The scalar slot (R147, R155) -/

/-- A scalar instruction by its word. -/
def scalarOp (t : Nat) (late : Bool) (len w : Nat) : State → SRes :=
  let rd := bits w 27 5
  let ra := bits w 22 5
  let rb := bits w 17 5
  let rc := bits w 12 5
  let fn := bits w 7 5
  let imm := bits w 7 15
  let im := bits w 10 12
  let sz := bits w 7 3
  match w % 128 with
  | 0x01 => sAlu t late rd ra rb rc fn w
  | 0x02 => sUnary t late rd ra (fun a => wrap 64 ((a : Int) + sgn 15 imm))
  | 0x03 => sUnary t late rd ra (fun a => a &&& imm)
  | 0x04 => sUnary t late rd ra (fun a => a ||| imm)
  | 0x05 => sUnary t late rd ra (fun a => a ^^^ imm)
  | 0x06 => sShi t late rd ra imm w
  | 0x07 => sLi t late rd (bits w 7 20)
  | 0x08 => sLis t late rd (bits w 7 20)
  | 0x10 => sLd t late rd ra im sz w
  | 0x11 => sSt t rd ra im sz w
  | 0x12 => sLdf t late rd ra im sz w
  | 0x13 => sStf t rd ra im sz w
  | 0x18 => sCmp t late rd ra rb rc fn w
  | 0x19 => sCmpi t late rd ra imm
  | 0x1A => sPlog t late rd ra rb rc fn w
  | 0x20 => sBranch t false (bits w 29 3) (bit w 28) (bit w 27) (bits w 7 20) len
  | 0x21 => sBranch t true (bits w 29 3) (bit w 28) (bit w 27) (bits w 7 20) len
  | 0x22 => sJr t rd ra rb rc fn w
  | 0x28 => sFop t late rd ra rb rc fn w
  | 0x29 => sFcmp t late rd ra rb rc fn w
  | 0x2A => sFmv t late rd ra rb rc fn w
  | 0x30 => sHash t late rd ra rb rc fn w
  | 0x34 =>
    if fn = 0 then sRdraw t late rd ra rb rc w
    else if fn = 1 then sRctr t late rd ra rb rc w
    else if fn = 2 then sRctw t rd ra rb rc w
    else fun _ => illegal w
  | 0x38 => sCsrr t late rd ra imm w
  | 0x39 => sCsrw t rd ra imm w
  | 0x3A => sCntr t late rd ra rb rc fn w
  | 0x3B => sSvc t rd ra imm w
  | 0x3C => sHalt t rd ra rb rc fn w
  | 0x3D => sDescw t rd ra rb rc fn w
  | 0x3E => sTkstat t late rd ra rb rc fn w
  | _ => fun _ => illegal w

/-- Whether a word standing alone is no instruction of the table: an unlisted major opcode, or RNG with an unlisted fn. -/
def wordUnlisted (w : Nat) : Bool :=
  !([0x01, 0x02, 0x03, 0x04, 0x05, 0x06, 0x07, 0x08, 0x10, 0x11, 0x12, 0x13, 0x18, 0x19, 0x1A, 0x20, 0x21, 0x22, 0x28, 0x29,
    0x2A, 0x30, 0x34, 0x38, 0x39, 0x3A, 0x3B, 0x3C, 0x3D, 0x3E, 0x7F].contains (w % 128)) ||
  (w % 128 = 0x34 && decide (2 < bits w 7 5))

/-! ### Registers of a bundle, and step 1 (R157) -/

/-- The registers that the engine and sync slots read. -/
def bnReads (v : Nat) : List Dst :=
  let d := bnDma v
  let y := bnSync v
  (if hasDma v then [.g (dmGa d), .g (dmGb d), .g (dmGs d)] else []) ++
  (if hasSync v then
    (if syKind y = 1 && syAll y then [] else [.g (syGa y)]) ++ (if syKind y = 2 || syKind y = 3 then [.g (syGb y)] else [])
  else [])

/-- The tile as the checks of an engine slot see it: an operation reads the descriptors in force when it issues, so those that
the bundle's own scalar slot writes before that count (R121, R154, R157; assumption log entry 15). -/
def State.slotsSeen (s : State) (t v : Nat) : Tile :=
  if hasScalar v && bnScalar v % 128 = 0x3D then
    match scalarOp t false 32 (bnScalar v) s with
    | .done s' _ => s'.tile t
    | _ => s.tile t
  else s.tile t

/-- The exception of step 1 (R157, R166): the header, then the slots in order, then the sync object. An illegal slot's detail
is its value with the slot's number (0 array, 1 vector, 2 DMA, 3 sync) above 64 bits. -/
def State.bundleCheck (s : State) (t v : Nat) : Option (Nat × Nat) :=
  let x := s.slotsSeen t v
  let w := bnVector v
  let y := bnSync v
  let id := x.core.rg (syGa y)
  if headerBad v then some (3, bnHeader v)
  else if hasArray v && !arrayLegal (bnArray v) then some (4, bnArray v)
  else if hasVector v && !vecLegal w ((List.range 8).map (fun i => NMap.get 0 x.chain (8 * vChain w + i)))
      (fun i => NMap.get 0 x.vdesc i) then some (4, w + 2 ^ 64)
  else if hasDma v && !dmaLegal (bnDma v) then some (4, bnDma v + 2 * 2 ^ 64)
  else if hasSync v && !syncLegal y id (fun e => (x.tk e).issued) then some (4, y + 3 * 2 ^ 64)
  else if hasSync v && !s.syncObject (x.ctx.getD 0) y id then some (5, id)
  else none

/-! ### Issue (R154, R157, R158, R162) -/

/-- The place of the next issue in the tile's program order (R60). -/
def Tile.nextOrd (x : Tile) : Nat := x.tkA.issued + x.tkV.issued + x.tkD.issued + 1

/-- An operation issued to the array takes its ticket. -/
def Tile.issueA (x : Tile) (i : Issue) : Tile :=
  let k := x.tkA.issue
  let o : AOp :=
    { ticket := k.issued, i := { i with ord := x.nextOrd }, begun := false, next := 0, sub := 0, skip := false, res := .ok,
      flags := 0, poisonRows := [], scales := [], scaleBad := false, word := 0, left := 0 }
  { x with tkA := k, aops := x.aops ++ [o] }

/-- An operation issued to the vector engine. -/
def Tile.issueV (x : Tile) (i : Issue) : Tile :=
  let k := x.tkV.issue
  let o : VOp :=
    { ticket := k.issued, i := { i with ord := x.nextOrd }, begun := false, beat := 0, qrow := none, qdone := 0, acc := [],
      flags := 0, poison := false, reject := false, once := [], split := [], word := 0, left := 0 }
  { x with tkV := k, vops := x.vops ++ [o] }

/-- A transfer issued to the DMA engine: Queued (R217). -/
def Tile.issueD (x : Tile) (i : Issue) : Tile :=
  let k := x.tkD.issue
  let q : Xfer :=
    { ticket := k.issued, queue := dmQueue i.word, i := { i with ord := x.nextOrd }, st := .queued, hdr := 0, src := 0,
      dst := 0, cnt := 0, s := [], d := [], opx := 0, form := 0, nextIssue := 0, staged := [], dir := [], outst := [], partly := [], outOff := 0,
      reason := 0, ended := none, endAt := 0, faultVa := 0, access := false, anyPoison := false }
  { x with tkD := k, xfers := x.xfers ++ [q] }

/-- The operation an array slot issues, with the descriptors it names. -/
def Tile.arrayIssue (x : Tile) (w : Nat) : Issue :=
  let i : Issue := { word := w, d0 := 0, d1 := 0, d2 := 0, chain := [], vdesc := [], ord := 0 }
  match arKind w with
  | 0 => { i with d0 := NMap.get 0 x.act (bits w 49 4) }
  | 1 => { i with d0 := NMap.get 0 x.patch (bits w 34 4), d1 := NMap.get 0 x.sparse (bits w 30 4) }
  | _ => { i with d0 := NMap.get 0 x.drain (bits w 28 4) }

/-- The operation a vector slot issues, with its chain and descriptors. -/
def Tile.vectorIssue (x : Tile) (w : Nat) : Issue :=
  { word := w, d0 := 0, d1 := 0, d2 := 0, chain := (List.range 8).map (fun i => NMap.get 0 x.chain (8 * vChain w + i)),
    vdesc := x.vdesc, ord := 0 }

/-- The operation a DMA slot issues, with the registers it names as they stood before the bundle. -/
def dmaIssue (c : Core) (w : Nat) : Issue :=
  { word := w, d0 := c.rg (dmGa w), d1 := c.rg (dmGb w), d2 := c.rg (dmGs w), chain := [], vdesc := [], ord := 0 }

/-- Whether every engine a bundle names has room, provisional operations counted (R158, R170). -/
def Tile.room (x : Tile) (v : Nat) : Bool :=
  let held := fun (p : Prov → Bool) => (x.core.prov.filter p).length
  (!hasArray v || decide (x.aops.length + held (fun p => match p with | .array _ => true | _ => false) < 8)) &&
  (!hasVector v || decide (x.vops.length + held (fun p => match p with | .vector _ => true | _ => false) < 8)) &&
  (!hasDma v || decide (x.xfers.length + held (fun p => match p with | .dma _ => true | _ => false) < 16))

/-- The engine slots of a bundle issued, in order; provisional ones are held without a ticket (R157, R170). -/
def Tile.issueAll (x : Tile) (v : Nat) (old : Core) : Tile :=
  let a := x.arrayIssue (bnArray v)
  let w := x.vectorIssue (bnVector v)
  let d := dmaIssue old (bnDma v)
  if x.core.ahead then
    { x with core :=
      let c := x.core
      let c := if hasArray v then c.push (.array a) else c
      let c := if hasVector v then c.push (.vector w) else c
      if hasDma v then c.push (.dma d) else c }
  else
    let x := if hasArray v then x.issueA a else x
    let x := if hasVector v then x.issueV w else x
    if hasDma v then x.issueD d else x

/-! ### Steps 2 to 5 (R157) -/

/-- Steps 4 and 5 of a bundle after its scalar slot: the engine slots issue with the registers `old` from before the bundle, and
a non-waiting sync kind is performed; none without room (R157, R158). -/
def State.bundleIssue (s : State) (t v : Nat) (old : Core) : Option State :=
  if !(s.tile t).room v then none
  else
    let y := bnSync v
    let id := old.rg (syGa y)
    let s := s.modTile t (fun z => z.issueAll v old)
    some (if !hasSync v then s
      else if syKind y = 3 then s.act t id (old.rg (syGb y)) false
      else if syKind y = 4 then s.act t id 1 true
      else s)

/-- Steps 3 to 5 of a bundle, with the outcome of its wait. A branch on a pending predicate follows the prediction once the
bundle's other slots are performed (R157, R168). -/
def State.bundleRest (s : State) (t v : Nat) (late : Bool) (pd : Nat) : State :=
  let y := bnSync v
  let x := s.tile t
  let s0 := s.modCore t (fun c => { c with run := .running })
  let s1 := if hasSync v && syPdEn y then s0.modCore t (fun c => c.result false [] (.p (syPd y)) pd) else s0
  let op := if hasScalar v then scalarOp t late 32 (bnScalar v) else fun s => .done s none
  match op s1 with
  | .stall => s
  | .exc cause detail => s0.exceptAt t cause detail
  | .ahead _ =>
    match s1.bundleIssue t v x.core with
    | none => s
    | some s2 => s2.finishScalar t 32 (op s2)
  | .done s2 taken =>
    match s2.bundleIssue t v x.core with
    | none => s
    | some s3 => s3.commit t 32 taken

/-- A bundle whose checks have passed, at step 2. An arrive-and-wait counts its arrival as the wait begins; while an epoch holds
the arrival no phase can release the wait (R157, R281, R319). The first outcome of a wait is kept (R320). -/
def State.bundleGo (s : State) (t v : Nat) (late : Bool) : State :=
  let y := bnSync v
  let x := s.tile t
  match x.core.run with
  | .syncWait b since phase done =>
    match done.orElse (fun _ => s.syncOver t v phase) with
    | none => s
    | some pd => (s.modCore t (fun c => { c with run := .syncWait b since phase (some pd) })).bundleRest t v late pd
  | _ =>
    if !hasSync v then s.bundleRest t v late 1
    else
      let id := x.core.rg (syGa y)
      let b := NMap.get? s.barriers (objKey (x.ctx.getD 0) id)
      let held := s.epochOn t ≠ 0 && s.commitBound (x.ctx.getD 0) id true
      let phase := if syKind y = 5 && !held then b.map (·.phase) else none
      let s := if syKind y = 5 && !((b.map (·.broken)).getD true) then s.act t id 1 true else s
      if (s.tile t).core.run ≠ .running then s
      else
        let wait := fun done => s.modCore t (fun c => { c with run := .syncWait v s.clk.now phase done })
        match s.syncOver t v phase with
        | none => wait none
        | some pd => (wait (some pd)).bundleRest t v late pd

/-- A bundle at the pc with its checks (step 1). A bundle that fails them and whose scalar slot would raise an exception of a
lower number raises that one (R166). -/
def State.bundleAt (s : State) (t v : Nat) (late : Bool) : State :=
  let c := (s.tile t).core
  if c.waits (bnReads v) || (c.ahead && hasSync v) then s
  else match s.bundleCheck t v with
    | none => s.bundleGo t v late
    | some e =>
      if hasScalar v then
        match scalarOp t late 32 (bnScalar v) s with
        | .stall => s
        | .exc cause detail => if cause < e.1 then s.exceptAt t cause detail else s.exceptAt t e.1 e.2
        | _ => s.exceptAt t e.1 e.2
      else s.exceptAt t e.1 e.2

/-- Whether a core may go on with the bundle it waits in. -/
def State.waitsIn (s : State) (t : Nat) : Option Nat :=
  match (s.tile t).core.run with
  | .syncWait v .. => if (s.modCore t (fun c => { c with run := .running })).issues t then some v else none
  | _ => none

/-- BUNDLE (R155 to R163): the bundle at the pc, or the one the core waits in. The row also covers a word at the pc that is no
instruction: it raises ILLEGAL_INSTRUCTION (R147, R155). -/
def execBundle (t : Byte) (late : Bool) (value : BitVec 256) (upsets : List Upset) (s : State) :
    Host.Outcome State Fault Refusal :=
  let t := t.toNat
  let v := value.toNat
  let w := v % 2 ^ 32
  let pc := (s.tile t).core.pc
  match s.waitsIn t with
  | some u => if u = v then .next ((s.modTile t (fun x => x.strike upsets)).bundleGo t v late) else .next s
  | none =>
    if !s.issues t || s.libAt t pc then .next s
    else if pc ≥ 0x20000 then .next (s.exceptAt t 1 pc)
    else
      let whole := w % 128 = 0x7F && pc % 32 = 0
      let f := s.fetch t pc (if whole then 32 else 4)
      if f.1 then .next (f.2.exceptAt t 2 pc)
      else if whole then
        if leVal (Bytes.rd (s.tile t).core.istore pc 32) = v then
          .next ((f.2.modTile t (fun x => x.strike upsets)).bundleAt t v late)
        else .next s
      else if (s.tile t).core.iword pc = w && (w % 128 = 0x7F || wordUnlisted w) then .next (f.2.exceptAt t 3 w)
      else .next s

/-- SYNC_WAIT_EXPIRY (R161, R320): the limit has passed and nothing has ended the wait: its outcome is fixed, and the bundle goes
on. -/
def execSyncWaitExpiry (t : Byte) (s : State) : Host.Outcome State Fault Refusal :=
  let t := t.toNat
  match (s.tile t).core.run with
  | .syncWait v since phase none =>
    let n := syLim (bnSync v)
    if n ≠ 0 && decide (since + 2 ^ n ≤ s.clk.now) && (s.syncOver t v phase).isNone then
      let s := s.modCore t (fun c => { c with run := .syncWait v since phase (some 0) })
      .next (if (s.waitsIn t).isSome then s.bundleRest t v false 0 else s)
    else .next s
  | _ => .next s

/-! ### BRANCH_RESOLVE (R168, R171) -/

/-- A provisional effect that commits. The number is the target of a transfer of control still to be committed, plus one. -/
def State.release (t : Nat) (r : State × Nat) (p : Prov) : State × Nat :=
  let s := r.1
  match p with
  | .store off n v => (s.storeNow t off n v, r.2)
  | .read off n => (s.countSp t off n false, r.2)
  | .array i => (s.modTile t (fun x => x.issueA i), r.2)
  | .vector i => (s.modTile t (fun x => x.issueV i), r.2)
  | .dma i => (s.modTile t (fun x => x.issueD i), r.2)
  | .sticky fl => (s.modCore t (fun c => { c with sticky := c.sticky ||| fl }), r.2)
  | .exc cause pc detail => (s.except t cause pc detail, r.2)
  | .flow a => (s, a + 1)
  | .commit => (s.traceCommit t (if r.2 = 0 then none else some (r.2 - 1)), 0)

/-- The oldest branch resolved: its commit, then the provisional work it held, or the other path. -/
def State.resolveBranch (s : State) (t : Nat) (k : Ckpt) (rest : List Ckpt) : State :=
  let taken := (k.pred = 0 || bit k.p k.pred) != k.neg
  if taken = k.predicted then
    let c := (s.tile t).core
    let n := match rest with | j :: _ => j.provLen | [] => c.prov.length
    let items := c.prov.take n
    let s := s.modCore t (fun c => { c with prov := c.prov.drop n, ckpts := rest.map (fun j => { j with provLen := j.provLen - n }) })
    let s := s.traceCommit t (if taken then some k.target else none)
    let s := (items.foldl (State.release t) (s, 0)).1
    s.modCore t (fun c => { c with ckpts := c.ckpts.map (fun j => { j with commits := c.commits }) })
  else
    let s := s.modCore t (fun c =>
      let c := { c with g := k.g, f := k.f, p := k.p, pend := k.pend, pc := k.otherPc, ckpts := [], prov := [] }
      if k.callee && taken then c.result false [] (.g 31) k.link else c)
    s.traceCommit t (if taken then some k.target else none)

/-- BRANCH_RESOLVE. -/
def execBranchResolve (t : Byte) (s : State) : Host.Outcome State Fault Refusal :=
  let t := t.toNat
  match (s.tile t).core.ckpts with
  | [] => .next s
  | k :: rest =>
    if k.pend.any (fun e => decide (e.dst = .p k.pred)) || (s.tile t).core.frozen then .next s
    else .next (s.resolveBranch t k rest)

/-! ### CORE_STOP (R167, R218) -/

/-- CORE_STOP: the steward stops the cores of the tile's context for pre-emption, or lets them run on. -/
def execCoreStop (t : Byte) (resume : Bool) (s : State) : Host.Outcome State Fault Refusal :=
  match (s.tile t.toNat).ctx with
  | none => .next s
  | some c => .next (if resume then s.resumeCtx c else s.suspendCtx c)

end Sys2Proof.Machine
end

