-- ==== Sys2Proof/Machine/Kv.lean ====
section
/-! DEFINITION. The KV pool's accounts (13): pages held and reserved (R264, R265, R276, R306), eviction (R276), room for
swapped memory (R278), the runs of a slot as its lengths change (R272, R274, R282). -/

namespace Sys2Proof.Machine

/-! ### Finding room in a range -/

/-- Whether two ranges meet. -/
def overlap (a n b m : Nat) : Bool := decide (a < b + m) && decide (b < a + n)

/-- The lowest place for `n` bytes in `[lo, hi)` that meets none of the occupied ranges. -/
def fitLow (lo hi n : Nat) (occ : List (Nat × Nat)) : Option Nat :=
  let ok := fun a => decide (lo ≤ a) && decide (a + n ≤ hi) && !occ.any (fun o => overlap a n o.1 o.2)
  ((lo :: occ.map (fun o => o.1 + o.2)).filter ok).foldl (fun (b : Option Nat) a => some (min (b.getD a) a)) none

/-- The highest place for `n` bytes in `[lo, hi)`, on 4 KiB boundaries, that meets none of the occupied ranges. -/
def fitHigh (lo hi n : Nat) (occ : List (Nat × Nat)) : Option Nat :=
  let ok := fun a => decide (lo ≤ a) && decide (a + n ≤ hi) && !occ.any (fun o => overlap a n o.1 o.2)
  (((hi :: occ.map (·.1)).map (fun e => (e - n) / 4096 * 4096)).filter ok).foldl
    (fun (b : Option Nat) a => some (max (b.getD a) a)) none

/-! ### Pages held and reserved -/

/-- Bytes of a partition's KV pool. -/
def State.kvPool (s : State) (part : Nat) : Nat :=
  ((s.kvRegions part).map Region.size).sum

/-- Pages of a set of runs entered in a table of page sizes by base. -/
def State.addPages (s : State) (part m : Nat) (rs : NMap Run) (t : NMap Nat) : NMap Nat :=
  rs.foldl (fun t e =>
    match e.2.pa.bind (s.pageOf m e.1) with
    | some p => if ((s.regionAt p.1).map (·.owner)) = some part then NMap.put t p.1 p.2 else t
    | none => t) t

/-- The pages of a partition's pool that hold runs, apart from the private runs of slots chosen for pre-emption, which are
about to be freed (R276, R277). -/
def State.kvPages (s : State) (part : Nat) : NMap Nat :=
  let t := s.seqs.foldl (fun t e =>
    s.addPages part e.2.model (if e.2.victim then e.2.runs.filter (fun r => r.2.shared) else e.2.runs) t) []
  s.prefixes.foldl (fun t p => s.addPages part p.model p.runs t) t

/-- Pages that a layer of a slot needs in all: those of its runs at the maximum length, less the runs shared from a prefix
(R306). -/
def Seq.need (q : Seq) (a : Attn) : Nat := ((q.maxLen + 39) / 40 - q.inh + a.perPage - 1) / a.perPage

/-- Page groups of a layer that a slot's own runs occupy. -/
def Seq.have_ (q : Seq) (a : Attn) : Nat :=
  (((q.runs.filter (fun e => e.1 / 2 ^ 26 = a.layer && decide (q.inh ≤ e.1 % 2 ^ 26) && e.2.pa.isSome &&
    !(q.fresh && e.2.shared))).map (fun e => (e.1 % 2 ^ 26 - q.inh) / a.perPage)).foldl insertNat []).length

/-- The attention layers of a slot's model. -/
def State.layersOf (s : State) (q : Seq) : List Attn := ((NMap.get? s.models q.model).map (·.attn)).getD []

/-- The bytes of the pages a slot needs in all: its reservation (R306). -/
def State.reservation (s : State) (q : Seq) : Nat := ((s.layersOf q).map (fun a => q.need a * a.page)).sum

/-- The bytes reserved for a slot and not yet in use. -/
def State.owed (s : State) (q : Seq) : Nat := ((s.layersOf q).map (fun a => (q.need a - q.have_ a) * a.page)).sum

/-- The partition of a slot. -/
def State.partOfSeq (s : State) (q : Seq) : Option Nat := (s.ctx? q.ctx).map (·.part)

/-- Bytes of a partition's pool that are neither in use nor reserved. -/
def State.kvFree (s : State) (part : Nat) : Nat :=
  let held := ((s.kvPages part).map (·.2)).sum
  let owed := ((s.seqs.filter (fun e => e.2.state != 0 && e.2.reserved != 0 && !e.2.victim && s.partOfSeq e.2 = some part)).map
    (fun e => s.owed e.2)).sum
  s.kvPool part - (held + owed)

/-! ### Eviction of prefixes (R276) -/

/-- The least recently used prefix of a partition evicted. -/
def State.evictOne (s : State) (part : Nat) : State :=
  let mine := s.prefixes.filter (fun p => (s.ctx? p.ctx).map (·.part) = some part)
  match mine.foldl (fun (b : Option Prefix) p => match b with
      | none => some p
      | some x => if p.used < x.used then some p else b) none with
  | none => s
  | some p => { s with prefixes := s.prefixes.filter (fun x => !(x.ctx = p.ctx && x.handle = p.handle)) }

/-- Prefixes evicted until a reservation fits, on their number. -/
def State.evictFor (s : State) (part need : Nat) : Nat → State
  | 0 => s
  | n + 1 => if need ≤ s.kvFree part then s else (s.evictOne part).evictFor part need n

/-! ### Room for swapped runs (R278) -/

/-- The private runs of a slot that are in the pool. -/
def Seq.private_ (q : Seq) : NMap Run := q.runs.filter (fun e => !e.2.shared && e.2.pa.isSome)

/-- The bytes of a slot's private runs, in pages of 4 KiB each. -/
def State.privateLen (s : State) (q : Seq) : Nat :=
  (q.private_.map (fun e => (s.runLen q.model (e.1 / 2 ^ 26) + 4095) / 4096 * 4096)).sum

/-- Ranges that swapped memory occupies: swapped runs and pages, in whole frames with their tags. -/
def State.swapRanges (s : State) : List (Nat × Nat) :=
  let fr := fun (n : Nat) => (n + 4095) / 4096 * 4112
  s.seqs.flatMap (fun e => (e.2.runs.filter (fun r => r.2.pa.isNone)).map (fun r =>
    (r.2.swap, fr (s.runLen e.2.model (r.1 / 2 ^ 26))))) ++
  s.ctxs.flatMap (fun e => e.2.swapped.map (fun p => (p.2.1, fr p.2.2.2)))

/-- Room on an enumerated far-tier port outside every region and swapped range. -/
def State.farRoom (s : State) (p n : Nat) : Option Nat :=
  let f := s.far p
  if !f.present || f.failed || !f.enabled || s.isDisabled 2 p then none
  else fitLow (farBase + p * farSpan) (farBase + p * farSpan + f.capacity) n
    (s.regions.map (fun r => (r.base, r.size)) ++ s.swapRanges)

/-- The place for a slot's private runs: a far-tier port if one has room, else the context's host swap area (R278). -/
def State.swapDest (s : State) (q : Seq) : Option Nat :=
  let n := s.privateLen q
  ((s.farRoom 0 n).orElse (fun _ => s.farRoom 1 n)).orElse (fun _ =>
    match s.ctx? q.ctx with
    | some x =>
      if x.swapBase = 0 then none
      else fitLow (hostBase + x.swapBase) (hostBase + x.swapBase + x.swapSize) (n / 4096 * 4112) s.swapRanges
    | none => none)

/-! ### The runs of a slot -/

/-- A run's positions that a test hides, numbered from 0, become 0 (R274, R282). -/
def State.zeroPositions (s : State) (pa key : Nat) (a : Attn) (keep : Nat → Bool) : State :=
  let m := s.hbmRead pa a.runBytes key
  m.st.hbmWrite pa (m.bytes.zipIdx.map (fun e => a.show keep e.2 e.1)) key m.bad

/-- A run copied to another place with some positions hidden (R274, R275). -/
def State.copyRun (s : State) (src dst key : Nat) (a : Attn) (keep : Nat → Bool) : State :=
  let m := s.hbmRead src a.runBytes key
  m.st.hbmWrite dst (m.bytes.zipIdx.map (fun e => a.show keep e.2 e.1)) key m.bad

/-- The memory key of a context. -/
def State.keyOf (s : State) (c : Nat) : Nat := ((s.ctx? c).map (·.key)).getD 0

/-- One run of a slot given a place where it has none (R265, R272). -/
def State.growRun (s : State) (slot : Nat) (a : Attn) (r : Nat) : Option State :=
  let q := s.seq slot
  let k := runKey a.layer r
  if (NMap.get? q.runs k).isSome then some s
  else match s.ctx? q.ctx with
    | none => none
    | some x => (s.placeRun x.part x.key q.runs q.inh a a.layer r).map (fun p =>
        p.2.modSeq slot (fun q => { q with runs := NMap.put q.runs k { pa := some p.1, shared := false, swap := 0, bad := false } }))

/-- The runs that positions below a length need, in every layer. -/
def State.growTo (s : State) (slot len : Nat) : Option State :=
  (s.layersOf (s.seq slot)).foldlM (fun s a => (List.range ((len + 39) / 40)).foldlM (fun s r => s.growRun slot a r) s) s

/-- The last run of the prefix a slot was opened with, copied into a private run of the slot, in every layer, when the prefix
does not end with a whole run (R275). -/
def State.copyPartial (s : State) (slot : Nat) : Option State :=
  let q := s.seq slot
  (s.layersOf q).foldlM (fun s a =>
    let k := runKey a.layer q.inh
    match NMap.get? (s.seq slot).runs k, s.ctx? q.ctx with
    | some run, some x =>
      match run.shared, run.pa with
      | true, some pa =>
        (s.placeRun x.part x.key (NMap.del (s.seq slot).runs k) q.inh a a.layer q.inh).map (fun p =>
          (p.2.copyRun pa p.1 x.key a (fun _ => true)).modSeq slot (fun q =>
            { q with runs := NMap.put q.runs k { pa := some p.1, shared := false, swap := 0, bad := false } }))
      | _, _ => some s
    | _, _ => some s) s

/-- Runs wholly at or beyond the appended length freed, and positions at or beyond it in kept private runs zeroised
(R282). -/
def State.trimRuns (s : State) (slot : Nat) : State :=
  let q := s.seq slot
  let s := s.modSeq slot (fun q => { q with runs := q.runs.filter (fun e => decide (40 * (e.1 % 2 ^ 26) < q.a)) })
  (s.seq slot).runs.foldl (fun s e =>
    match e.2.pa, s.kvAttn slot (e.1 / 2 ^ 26) with
    | some pa, some a =>
      if e.2.shared || decide (40 * (e.1 % 2 ^ 26) + 40 ≤ q.a) then s
      else s.zeroPositions pa (s.keyOf q.ctx) a (fun p => decide (40 * (e.1 % 2 ^ 26) + p < q.a))
    | _, _ => s) (s.invalidateKv q.ctx slot)

/-- A slot freed: its unshared runs and its reservation go with it (R308); its serial stays (R303). -/
def State.freeSlot (s : State) (slot : Nat) : State :=
  let q := s.seq slot
  (s.invalidateKv q.ctx slot).modSeq slot (fun q => { Seq.free with serial := q.serial })

end Sys2Proof.Machine
end

