-- ==== Sys2Proof/Machine/HostCmds.lean ====
section
/-! DEFINITION. Host commands for the device, contexts, memory, variants and adapters (14), and for signals and barriers
(15). Each row is the command taken and, with its checks made, answered. -/

namespace Sys2Proof.Machine

/-! ### Targets of commands (R293 check 5, R314, R407) -/

/-- A glen on which no work can start: disabled, failed or off. -/
def State.glenDown (s : State) (g : Nat) : Bool :=
  s.isDisabled 0 g || s.glenFailed g || (List.range 4).any (fun i => (s.quad (4 * g + i)).off)

/-- Whether a partition is in reset (R401). -/
def State.partInReset (s : State) (p : Nat) : Bool :=
  s.resets.any (fun r => (r.level = .partition && r.target = p) || r.level = .chip || r.level = .power)

/-- Whether a reset of a context is in progress: it accepts no work (R401). -/
def State.ctxInReset (s : State) (c : Nat) : Bool := s.resets.any (fun r => r.ctxs.contains c)

/-- The status of work on tiles that cannot run it (R293, R314, R407). -/
def State.tilesRefuse (s : State) (ts : List Nat) : Option Status :=
  if ts.any (fun t => (s.tile t).inReset) then some .targetReset
  else if ts.any (fun t => s.glenDown (glenOf t)) then some .targetOff
  else none

/-! ### DEVICE_QUERY and DEVICE_NOP (R294) -/

/-- DEVICE_QUERY: free contexts, free slots, free KV pool bytes. -/
def execDeviceQuery (h : Pkt) (s : State) : Host.Outcome State Fault Refusal :=
  .next (s.host h true false true (fun _ s =>
    let slots := (s.seqs.filter (fun e => e.2.state != 0)).length
    let kv := ((List.range 16).map s.kvFree).sum
    s.reply h .ok ((256 - s.ctxs.length) + (1024 - slots) * 2 ^ 16) kv))

/-- DEVICE_NOP. -/
def execDeviceNop (h : Pkt) (s : State) : Host.Outcome State Fault Refusal :=
  .next (s.host h false false true (fun _ s => s.replyS h .ok))

/-! ### Contexts (R296, R297) -/

/-- A new context: generation counter 1 (R253), new keys (R442). -/
def Ctx.fresh (seed part : Nat) (refMode : Bool) (swapBase swapSize key : Nat) : Ctx :=
  { seed := seed, part := part, refMode := refMode, swapBase := swapBase, swapSize := swapSize, stickyCol := false,
    sticky := [], suspended := false, susp := [], root := 0, gen := 1, key := key, tables := [], image := [], tiles := [],
    closed := [], swapped := [], vault := [], vaultPoison := [], variants := [], adapters := [] }

/-- CTX_CREATE (R296, R452, R462): the lowest free number. -/
def execCtxCreate (h : Pkt) (seed : W64) (part : Byte) (refMode : Bool) (swapBase swapSize : W64) (s : State) :
    Host.Outcome State Fault Refusal :=
  .next (s.host h true false (part.toNat < 16 && swapBase.toNat % 4096 = 0) (fun _ s =>
    if s.partInReset part.toNat then s.replyS h .targetReset
    else if s.boot.testMode then s.replyS h .permission
    else match (List.range 256).find? (fun c => (s.ctx? c).isNone) with
      | none => s.replyS h .noResource
      | some c =>
        if (NMap.get? s.parts part.toNat).isNone then s.replyS h .rejected
        else
          let x := Ctx.fresh seed.toNat part.toNat refMode swapBase.toNat swapSize.toNat s.boot.keyNext
          { s with
            ctxs := NMap.put s.ctxs c x
            ctrs := NMap.del s.ctrs (0x305000 + 8 * c)
            boot := { s.boot with keyNext := s.boot.keyNext + 1 } }.reply h .ok c 0))

/-- The sticky status of a context: its tiles' parts and the col die's (R136, R141, R318). -/
def State.stickyOf (s : State) (c : Nat) : Nat :=
  match s.ctx? c with
  | none => 0
  | some x =>
    let live := (s.tilesBound c).foldl (fun f t => f ||| (s.tile t).core.sticky) 0
    (x.sticky.foldl (fun f e => f ||| e.2) live ||| (if x.stickyCol then fOverflow else 0)) % 32

/-- The sticky status cleared. -/
def State.stickyClear (s : State) (c : Nat) : State :=
  (s.tilesBound c).foldl (fun s t => s.modCore t (fun k => { k with sticky := 0 }))
    (s.modCtx c (fun x => { x with sticky := [], stickyCol := false }))

/-- CTX_QUERY (R297). -/
def execCtxQuery (h : Pkt) (clear : Bool) (s : State) : Host.Outcome State Fault Refusal :=
  .next (s.host h false false true (fun c s =>
    match s.ctx? c with
    | none => s.replyS h .permission
    | some x =>
      let b := fun (p : Bool) (i : Nat) => if p then 2 ^ i else 0
      let r0 := s.stickyOf c + b x.suspended 8 + b (x.susp.any (fun f => f.2.2 = 1)) 9 + b x.refMode 10
      let n := (s.seqs.filter (fun e => e.2.state != 0 && e.2.ctx = c)).length
      (if clear then s.stickyClear c else s).reply h .ok r0 n))

/-- Whether a not-present fault of a context awaits host software. -/
def State.faultPending (s : State) (c : Nat) : Bool := ((s.ctx? c).map (fun x => x.susp.any (fun f => f.2.2 = 1))).getD false

/-- The not-present faults of a context struck off, and the context resumed if no swapped fault is left (R218). -/
def State.resumeFaults (s : State) (c : Nat) : State :=
  (s.modCtx c (fun x => { x with susp := x.susp.filter (fun f => f.2.2 ≠ 1) })).resumeCtx c

/-- CTX_RESUME (R297). -/
def execCtxResume (h : Pkt) (s : State) : Host.Outcome State Fault Refusal :=
  .next (s.host h false false true (fun c s =>
    if s.faultPending c then (s.resumeFaults c).replyS h .ok else s.replyS h .rejected))

/-- CTX_FAULT_ABORT (R220, R297): the faulting transfers end with ST_TRANSLATION_FAULT, then the context resumes. -/
def execCtxFaultAbort (h : Pkt) (s : State) : Host.Outcome State Fault Refusal :=
  .next (s.host h false false true (fun c s =>
    if !s.faultPending c then s.replyS h .rejected
    else
      let fs := ((s.ctx? c).map (fun x => x.susp.filter (fun f => f.2.2 = 1))).getD []
      let s := fs.foldl (fun s f =>
        match (s.tile f.1).xfers.find? (fun q => q.ticket = f.2.1) with
        | some q => s.abortX f.1 q .translationFault
        | none => s) s
      (s.resumeFaults c).replyS h .ok))

/-! ### Mappings (R197 to R202, R298) -/

/-- The present leaves below a table: (virtual base, size, entry). -/
def leavesF : Nat → State → Nat → Nat → List (Nat × Nat × Nat)
  | 0, _, _, _ => []
  | l + 1, s, table, va =>
    (List.range (if l = 4 then 16 else 512)).flatMap (fun i =>
      let p := Bytes.le s.mem.hbm (table + 8 * i) 8
      let a := va + i * 2 ^ levelShift l
      if !bit p 0 then [] else if pteLeaf l p then [(a, 2 ^ levelShift l, p)] else leavesF l s (pteAddr p) a)

/-- The present leaves of a context. -/
def State.leaves (s : State) (c : Nat) : List (Nat × Nat × Nat) :=
  match s.ctx? c with
  | some x => if x.root = 0 then [] else leavesF 5 s x.root 0
  | none => []

/-- Whether a physical range holds an address that R201 would not let the context reach, looked at in steps of 2 MiB. -/
def State.rangeDenied (s : State) (c pa len : Nat) : Bool :=
  match s.zone pa, s.zone (pa + len - 1) with
  | .host _, .host _ => false
  | _, _ =>
    decide (2 ^ 42 < len) ||
    (List.range ((pa + len - 1) / 0x200000 - pa / 0x200000 + 1)).any (fun i =>
      let a := max pa ((pa / 0x200000 + i) * 0x200000)
      decide (s.zone a = .hole) || (inTiers a && !s.given c a) ||
      (decide (a < 0x200000000) && decide (s.partOf (a / 0x2000000) ≠ (s.ctx? c).map (·.part))))

/-- Entries written for a range of pages. -/
def State.mapPages (s : State) (c va pa size pte n : Nat) : Option State :=
  (List.range n).foldlM (fun s i => s.mapEntry c (va + i * size) (levelOf size) (pa + i * size + pte)) s

/-- MEM_MAP (R298). -/
def execMemMap (h : Pkt) (va pa len : W64) (pageSize leaf : Byte) (s : State) : Host.Outcome State Fault Refusal :=
  let va := va.toNat
  let pa := pa.toNat
  let len := len.toNat
  let ps := pageSize.toNat
  let size := if ps = 0 then 4096 else if ps = 1 then 0x200000 else 0x40000000
  let lf := leaf.toNat
  let ok := decide (ps < 3) && decide (lf < 32) && decide (lf / 8 < 2) && decide (va + len ≤ 2 ^ 52) &&
    va % size = 0 && pa % size = 0 && len % size = 0
  .next (s.host h true false ok (fun c s =>
    if (s.ctx? c).isNone then s.replyS h .permission
    else if len = 0 then s.replyS h .ok
    else if decide (kvBase < va + len) || s.rangeDenied c pa len then s.replyS h .permission
    else if (s.leaves c).any (fun e => overlap va len e.1 e.2.1) then s.replyS h .rejected
    else
      let pte := 1 + (if 1 ≤ ps then 2 else 0) + bits lf 0 2 * 4 + bits lf 2 1 * 64 + bits lf 3 2 * 128
      match s.mapPages c va pa size pte (len / size) with
      | none => s.replyS h .noResource
      | some s => (s.modCtx c (fun x =>
          { x with swapped := x.swapped.filter (fun e => !overlap va len e.1 e.2.2.2) })).replyS h .ok))

/-- Whether a range covers only part of a mapped large page, present or swapped out (R298). -/
def State.partPage (s : State) (c va len : Nat) : Bool :=
  ((s.leaves c).map (fun e => (e.1, e.2.1)) ++ (((s.ctx? c).map (·.swapped)).getD []).map (fun e => (e.1, e.2.2.2))).any (fun e =>
    overlap va len e.1 e.2 && !(decide (va ≤ e.1) && decide (e.1 + e.2 ≤ va + len)))

/-- Whether an element of a transfer that was translated through one of the pages is still to be acknowledged: one written, or one
whose source is read (R202). -/
def Xfer.through (q : Xfer) (ls : List (Nat × Nat × Nat)) : Bool :=
  let hit := fun (va : Nat) => ls.any (fun e => decide (e.1 ≤ va) && decide (va < e.1 + e.2.1))
  let src := fun (u : Nat) => !q.srcLocal && (q.srcOf u).any (fun p => hit p.1)
  q.outst.any (fun w => (w.kind ≠ 3 && !q.dstLocal && hit w.va) || src w.idx) || q.staged.any (fun e => src e.1)

/-- Whether an element translated through one of the pages of a context is still to be acknowledged (R202). -/
def State.writesThrough (s : State) (c : Nat) (ls : List (Nat × Nat × Nat)) : Bool :=
  (s.tilesBound c).any (fun t => (s.tile t).xfers.any (fun q => q.through ls))

/-- The leaves of a context that a range covers. -/
def State.leavesIn (s : State) (c va len : Nat) : List (Nat × Nat × Nat) :=
  (s.leaves c).filter (fun e => overlap va len e.1 e.2.1)

/-- Leaves replaced by an entry made from each. -/
def State.rewriteLeaves (s : State) (c : Nat) (ls : List (Nat × Nat × Nat)) (f : Nat → Nat) : State :=
  ls.foldl (fun s e => (s.mapEntry c e.1 (levelOf e.2.1) (f e.2.2)).getD s) s

/-- A command on a range of a context's memory that cannot complete yet is not taken (R202). -/
def State.memReady (s : State) (h : Pkt) (va len : Nat) : Bool :=
  !(s.mayTake h && s.writesThrough (s.pktCtx h) (s.leavesIn (s.pktCtx h) va len))

/-- MEM_UNMAP (R202, R298). -/
def execMemUnmap (h : Pkt) (va len : W64) (s : State) : Host.Outcome State Fault Refusal :=
  let va := va.toNat
  let len := len.toNat
  if !s.memReady h va len then .next s
  else .next (s.host h true false (va % 4096 = 0 && len % 4096 = 0) (fun c s =>
    if (s.ctx? c).isNone then s.replyS h .permission
    else if s.partPage c va len then s.replyS h .badCommand
    else
      let s := (s.rewriteLeaves c (s.leavesIn c va len) (fun _ => 0)).invalidate c va len
      let sw := ((s.ctx? c).map (fun x => x.swapped.filter (fun e => overlap va len e.1 e.2.2.2))).getD []
      let s := sw.foldl (fun s e => (s.mapEntry c e.1 (levelOf e.2.2.2) 0).getD s) s
      (s.modCtx c (fun x => { x with swapped := x.swapped.filter (fun e => !overlap va len e.1 e.2.2.2) })).replyS h .ok))

/-- A leaf swapped out: its page copied, its entry marked, the backing recorded. -/
def State.swapPage (s : State) (c va backing : Nat) (e : Nat × Nat × Nat) : State :=
  let off := e.1 - va
  let b := match s.zone backing with
    | .host _ => backing + off / 4096 * 4112
    | _ => backing + off
  let pte := e.2.2 - 1 + 32
  let s := s.swapTo c (pteAddr e.2.2) b e.2.1 (s.leafKey c (pteAddr e.2.2) e.2.2)
  let s := (s.mapEntry c e.1 (levelOf e.2.1) pte).getD s
  s.modCtx c (fun x => { x with swapped := NMap.put x.swapped e.1 (b, e.2.2, e.2.1) })

/-- The status of a backing that cannot take a range (R298, R339). -/
def State.backingFails (s : State) (backing len : Nat) : Option Status :=
  match s.zone backing with
  | .far p =>
    if len ≠ 0 && decide (s.zone (backing + len - 1) ≠ .far p) then some .badCommand
    else if !s.backingReady backing then some .targetOff else none
  | .host _ => none
  | _ => some .badCommand

/-- MEM_SWAP_OUT (R298, R444). -/
def execMemSwapOut (h : Pkt) (va len backing : W64) (s : State) : Host.Outcome State Fault Refusal :=
  let va := va.toNat
  let len := len.toNat
  let b := backing.toNat
  if !s.memReady h va len then .next s
  else .next (s.host h true false (va % 4096 = 0 && len % 4096 = 0) (fun c s =>
    if (s.ctx? c).isNone then s.replyS h .permission
    else match s.backingFails b len with
      | some st => s.replyS h st
      | none =>
        let ls := s.leavesIn c va len
        if s.partPage c va len then s.replyS h .badCommand
        else if ls.any (fun e => !inTiers (pteAddr e.2.2)) then s.replyS h .rejected
        else (ls.foldl (fun s e => s.swapPage c va b e) (s.invalidate c va len)).replyS h .ok))

/-! ### Variants and adapters (R238, R239, R300) -/

/-- Whether a model is placed where a context can use it. -/
def State.modelFor (s : State) (c m : Nat) : Bool :=
  match NMap.get? s.models m, s.ctx? c with
  | some x, some y => x.part = y.part
  | _, _ => false

/-- VARIANT_LOAD: every tile's part lies inside the image (R300, R505). A load whose image cannot be reached yet is not taken (R191,
R314). -/
def execVariantLoad (h : Pkt) (model variant : W16) (va len : W64) (ext : Ext) (s0 : State) :
    Host.Outcome State Fault Refusal :=
  let m := model.toNat
  let v := variant.toNat
  let n := len.toNat
  .next (s0.host h false false (v ≠ 0) (fun c s =>
    if !s.modelFor c m || (((s.ctx? c).map (·.variants)).getD []).any (fun e => e.2.1 = v) then s.replyS h .rejected
    else if n < 4096 then s.replyS h .formatFault
    else if s.stewardWaits c va.toNat 4096 then s0
    else State.orStatus h (s.stewardRead c va.toNat 4096 ext) (fun dir s =>
      let bad := (List.range 256).any (fun t => decide (n < leAt dir (16 * t) 8 + leAt dir (16 * t + 8) 8))
      if bad then s.replyS h .formatFault
      else (s.modCtx c (fun x => { x with variants := x.variants ++ [(m, v, va.toNat, n)] })).replyS h .ok)))

/-- Whether an open slot of a context names a variant (true) or adapter (false) of a model. -/
def State.named (s : State) (c m id : Nat) (variant : Bool) : Bool :=
  s.seqs.any (fun e => e.2.state != 0 && e.2.ctx = c && e.2.model = m &&
    (if variant then e.2.variant = id else e.2.ads.contains id))

/-- VARIANT_REMOVE (R300). -/
def execVariantRemove (h : Pkt) (model variant : W16) (s : State) : Host.Outcome State Fault Refusal :=
  let m := model.toNat
  let v := variant.toNat
  .next (s.host h false false true (fun c s =>
    let vs := ((s.ctx? c).map (·.variants)).getD []
    if !vs.any (fun e => e.1 = m && e.2.1 = v) || s.named c m v true then s.replyS h .rejected
    else (s.modCtx c (fun x => { x with variants := x.variants.filter (fun e => !(e.1 = m && e.2.1 = v)) })).replyS h .ok))

/-- The fields of a BN2 adapter record. -/
structure Bn2 where
  r : Nat
  dIn : Nat
  dOut : Nat
  scale : Nat
  layer : Nat
  aOff : Nat
  bOff : Nat
  deriving DecidableEq, Repr, Inhabited

/-- A record's header, or none where R238 refuses it. -/
def bn2 (bs : List Byte) (n : Nat) : Option Bn2 :=
  let x : Bn2 := { r := leAt bs 2 2, dIn := leAt bs 4 4, dOut := leAt bs 8 4, scale := leAt bs 12 2, layer := leAt bs 14 2,
                   aOff := leAt bs 16 8, bOff := leAt bs 24 8 }
  if leAt bs 0 2 ≠ 2 || x.r = 0 || decide (64 < x.r) || x.dIn = 0 || x.dOut = 0 || decide (n < x.aOff + 2 * x.r * x.dIn) ||
      decide (n < x.bOff + 2 * x.r * x.dOut) || bits x.scale 7 8 = 255 then none
  else some x

/-- A B16 plane block with its exponent record from the 40 bf16 inputs of each lane (R84, R85, R239); lanes without inputs are
0. -/
def b16Block (lane : Nat → List Nat) : List Byte :=
  let gs := (List.range 1024).map (fun l => (toB16 ((List.range 40).map (fun i => (lane l).getD i 0))).getD (1, []))
  let str := gs.map (fun g => (List.range 16).flatMap (fun j =>
    leBytes 5 ((List.range 40).map (fun i => if bit (wrap 16 (g.2.getD i 0)) j then 2 ^ i else 0)).sum))
  (List.range 10).flatMap (fun sl => str.flatMap (fun b => (b.drop (8 * sl)).take 8)) ++
  gs.map (fun g => BitVec.ofNat 8 g.1) ++ List.replicate 7168 0

/-- The lanes of each block of an adapter image, in order: the down blocks, then the up blocks of each group of 1,024 outputs
(R239). -/
def adapterBlocks (x : Bn2) (bs : List Byte) : List (Nat → List Nat) :=
  let a := fun (j i : Nat) => if i < x.dIn then leAt bs (x.aOff + 2 * (j * x.dIn + i)) 2 else 0
  let b := fun (o j : Nat) => if j < x.r then leAt bs (x.bOff + 2 * (o * x.r + j)) 2 else 0
  let down := (List.range ((x.dIn + 39) / 40)).map (fun k l =>
    if l < x.r then (List.range 40).map (fun i => a l (40 * k + i)) else [])
  let up := (List.range ((x.dOut + 1023) / 1024)).flatMap (fun g =>
    (if 40 < x.r then [0, 40] else [0]).map (fun j0 l =>
      if 1024 * g + l < x.dOut then (List.range 40).map (fun i => b (1024 * g + l) (j0 + i)) else []))
  down ++ up

/-- The adapter image of R239. -/
def adapterImage (x : Bn2) (bs : List Byte) : List Byte := (adapterBlocks x bs).flatMap b16Block

/-- The e_ref of each block: the largest exponent of its lanes (R208, R239). -/
def adapterRefs (x : Bn2) (bs : List Byte) : List Nat :=
  (adapterBlocks x bs).map (fun lane =>
    ((List.range 1024).map (fun l => ((toB16 ((List.range 40).map (fun i => (lane l).getD i 0))).getD (1, [])).1)).foldl max 0)

/-- Whether a matrix of bf16 holds an infinity or a NaN. -/
def anyNonFinite (bs : List Byte) (off n : Nat) : Bool := (List.range n).any (fun i => bits (leAt bs (off + 2 * i) 2) 7 8 = 255)

/-- ADAPTER_LOAD (R238, R239, R300, R505). -/
def execAdapterLoad (h : Pkt) (model adapter : W16) (va len outVa : W64) (ext : LayerExt) (s0 : State) :
    Host.Outcome State Fault Refusal :=
  let m := model.toNat
  let v := adapter.toNat
  let n := len.toNat
  .next (s0.host h false false (v ≠ 0) (fun c s =>
    if !s.modelFor c m || (((s.ctx? c).map (·.adapters)).getD []).any (fun e => e.id = v) then s.replyS h .rejected
    else if n < 32 then s.replyS h .formatFault
    else if s.stewardWaits c va.toNat n then s0
    else State.orStatus h (s.stewardRead c va.toNat n ext.ext) (fun bs s =>
      match bn2 bs n with
      | none => s.replyS h .formatFault
      | some x =>
        if anyNonFinite bs x.aOff (x.r * x.dIn) || anyNonFinite bs x.bOff (x.r * x.dOut) then s.replyS h .formatFault
        else if !ext.fits then s.replyS h .rejected
        else
          let img := adapterImage x bs
          if s.stewardWaits c outVa.toNat img.length then s0
          else State.orStatus h (s.stewardWrite c outVa.toNat img (badFrame ext.ext)) (fun _ s =>
            let a : Adapter := { model := m, id := v, va := outVa.toNat, len := img.length, layer := x.layer, scale := x.scale,
                                 rank := x.r, dIn := x.dIn, dOut := x.dOut, eRefs := adapterRefs x bs }
            (s.modCtx c (fun y => { y with adapters := y.adapters ++ [a] })).reply h .ok img.length 0))))

/-- ADAPTER_REMOVE (R300). -/
def execAdapterRemove (h : Pkt) (model adapter : W16) (s : State) : Host.Outcome State Fault Refusal :=
  let m := model.toNat
  let v := adapter.toNat
  .next (s.host h false false true (fun c s =>
    let vs := ((s.ctx? c).map (·.adapters)).getD []
    if !vs.any (fun e => e.model = m && e.id = v) || s.named c m v false then s.replyS h .rejected
    else (s.modCtx c (fun x => { x with adapters := x.adapters.filter (fun e => !(e.model = m && e.id = v)) })).replyS h .ok))

/-! ### Signals and barriers (R317 to R327) -/

/-- Identifiers of a kind, and objects of a kind that a package holds at most (R317). -/
def kindLimit (kind : Nat) : Nat := if kind = 0 then 16384 else 4096

/-- The fields of SYNC_CREATE that are outside their range (R324, R325). -/
def syncBad (kind flags ident count initial home model : Nat) : Bool :=
  decide (1 < kind) || decide (3 < flags) || decide (kindLimit kind ≤ ident) ||
  (if kind = 0 then count ≠ 0 || bit flags 1 else initial ≠ 0 || decide (1048575 < count)) ||
  (!bit flags 1 && (home ≠ 0 || model ≠ 0))

/-- The node of a job-scope barrier's home, if the model, the home and this package's place in its list exist (R322, R325). -/
def State.homeFor (s : State) (model home : Nat) : Option Nat :=
  match NMap.get? s.models model with
  | some m => if (s.position model).isSome then m.pkgs[home]? else none
  | none => none

/-- SYNC_CREATE (R317, R319, R322, R325). -/
def execSyncCreate (h : Pkt) (kind flags : Byte) (ident : W16) (count : W32) (initial : W64) (home model : W16)
    (s : State) : Host.Outcome State Fault Refusal :=
  let k := kind.toNat
  let f := flags.toNat
  let i := ident.toNat
  .next (s.host h false false (!syncBad k f i count.toNat initial.toNat home.toNat model.toNat) (fun c s =>
    let key := objKey c i
    let used := if k = 0 then (NMap.get? s.signals key).isSome else (NMap.get? s.barriers key).isSome
    let job := bit f 1
    let hm := s.homeFor model.toNat home.toNat
    if used || (job && hm.isNone) then s.replyS h .rejected
    else if kindLimit k ≤ (if k = 0 then s.signals.length else s.barriers.length) then s.replyS h .noResource
    else if k = 0 then
      let g : Signal := { count := initial.toNat, commitBound := bit f 0 }
      { s with signals := NMap.put s.signals key g }.replyS h .ok
    else
      let b : Barrier := { p := count.toNat + 1, arrived := 0, phase := 0, broken := false, commitBound := bit f 0,
                           home := if job then hm else none, lastSent := none }
      { s with barriers := NMap.put s.barriers key b }.replyS h .ok))

/-- Whether an object exists. -/
def State.hasObject (s : State) (c kind ident : Nat) : Bool :=
  if kind = 0 then (NMap.get? s.signals (objKey c ident)).isSome else (NMap.get? s.barriers (objKey c ident)).isSome

/-- Whether a sync-slot wait of a tile of the context is pending on an object: one whose outcome is decided has ended (R161,
R325). -/
def State.slotWaits (s : State) (c kind ident : Nat) : Bool :=
  (s.tilesBound c).any (fun t =>
    match (s.tile t).core.run with
    | .syncWait v _ phase none =>
      let y := bnSync v
      hasSync v && syKind y = (if kind = 0 then 2 else 5) && (s.tile t).core.rg (syGa y) = ident && (s.syncOver t v phase).isNone
    | _ => false)

/-- SYNC_DESTROY (R325). -/
def execSyncDestroy (h : Pkt) (kind : Byte) (ident : W16) (s : State) : Host.Outcome State Fault Refusal :=
  let k := kind.toNat
  let i := ident.toNat
  .next (s.host h false false (decide (k < 2) && decide (i < kindLimit k)) (fun c s =>
    if !s.hasObject c k i then s.replyS h .permission
    else if s.slotWaits c k i || (k = 0 && s.waits.any (fun w => w.ctx = c && w.ident = i)) ||
        s.held.any (fun e => e.ctx = c && e.ident = i && e.barrier = (k != 0)) then s.replyS h .rejected
    else if k = 0 then { s with signals := NMap.del s.signals (objKey c i) }.replyS h .ok
    else { s with barriers := NMap.del s.barriers (objKey c i) }.replyS h .ok))

/-- SIGNAL_ADD (R318, R324, R325). -/
def execSignalAdd (h : Pkt) (ident : W16) (amount : W64) (s : State) : Host.Outcome State Fault Refusal :=
  .next (s.host h false false (decide (ident.toNat < 16384)) (fun c s =>
    if s.hasObject c 0 ident.toNat then (s.signalAdd c ident.toNat amount.toNat).replyS h .ok
    else s.replyS h .permission))

/-- SIGNAL_WAIT (R324, R325). -/
def execSignalWait (h : Pkt) (ident : W16) (target : W64) (limitUs : W32) (s : State) : Host.Outcome State Fault Refusal :=
  .next (s.host h false false (decide (ident.toNat < 16384)) (fun c s =>
    match NMap.get? s.signals (objKey c ident.toNat) with
    | none => s.replyS h .permission
    | some g =>
      if target.toNat ≤ g.count then s.reply h .ok g.count 0
      else if limitUs.toNat = 0 then s.reply h .timeout g.count 0
      else if 1024 ≤ s.waits.length then s.replyS h .noResource
      else
        let w : SigWait := { h := h, ctx := c, ident := ident.toNat, target := target.toNat,
                             deadline := s.clk.now + 1000 * limitUs.toNat }
        { s with waits := s.waits ++ [w] }))

/-- SIGNAL_WAIT_LIMIT (R320, R325): the limit has passed. -/
def execSignalWaitLimit (qp : BitVec 12) (cmdId : W32) (s : State) : Host.Outcome State Fault Refusal :=
  match s.waits.find? (fun w => decide (w.h.qp = qp) && decide (w.h.cmdId = cmdId) && decide (w.deadline ≤ s.clk.now)) with
  | none => .next s
  | some w =>
    let n := ((NMap.get? s.signals (objKey w.ctx w.ident)).map (·.count)).getD 0
    .next ({ s with waits := s.waits.erase w }.reply w.h .timeout n 0)

end Sys2Proof.Machine
end

