-- ==== Sys2Proof/Machine/Models.lean ====
section
/-! DEFINITION. Placement of models (R243, R245, R265, R270, R299, R442, R443, R505) and the kernel image of a context (R301). -/

namespace Sys2Proof.Machine

/-! ### The placement record (R299) -/

/-- What a placement record says. -/
structure PRec where
  verify : Nat
  kernel : List Byte
  blocks : List (Nat × Nat × List Byte)
  experts : List (Nat × Nat × List Byte)
  attn : List Attn
  stores : List (Nat × List Byte)
  pkgs : List Nat
  deriving DecidableEq, Repr, Inhabited

/-- Bytes of an entry of a section type. -/
def sectEntry (type : Nat) : Nat :=
  match type with
  | 2 => 16 | 3 => 72 | 4 => 8 | 6 => 2 | _ => 1

/-- The bytes of a range, if it lies within the record. -/
def sub (bs : List Byte) (off n : Nat) : Option (List Byte) :=
  if off + n ≤ bs.length then some ((bs.drop off).take n) else none

/-- A resident block entry. -/
def blockEntry (bs e : List Byte) : Option (Nat × Nat × List Byte) :=
  if leAt e 1 1 ≠ 0 || leAt e 4 4 ≠ 0 || decide (576 ≤ leAt e 2 2) then none
  else (sub bs (leAt e 8 8) 32768).map (fun d => (leAt e 0 1, leAt e 2 2, d))

/-- An expert layer entry. -/
def expertEntry (e : List Byte) : Option (Nat × Nat × List Byte) :=
  if leAt e 1 3 ≠ 0 then none else some (leAt e 0 1, leAt e 4 4, e.drop 8)

/-- An attention layer entry (R264, R299). -/
def attnEntry (e : List Byte) : Option Attn :=
  let a : Attn := { layer := leAt e 0 2, h := leAt e 2 1, d := leAt e 3 2, k4 := decide (leAt e 5 1 = 1) }
  if a.h = 0 || decide (64 < a.h) || a.d = 0 || decide (256 < a.d) || decide (1 < leAt e 5 1) || leAt e 6 2 ≠ 0 then none
  else some a

/-- A store image section: its virtual address, on a page, and its data. -/
def storeEntry (d : List Byte) : Option (Nat × List Byte) :=
  let va := leAt d 0 8
  if d.length < 8 || va % 4096 ≠ 0 || decide (kvBase < va + d.length) then none else some (va, d.drop 8)

/-- A package list entry. -/
def pkgEntry (e : List Byte) : Option Nat := if leAt e 0 2 < 16384 then some (leAt e 0 2) else none

/-- The entries of a section's bytes. -/
def entries (d : List Byte) (size count : Nat) : List (List Byte) :=
  (List.range count).map (fun i => (d.drop (i * size)).take size)

/-- One section taken into a record. -/
def addSection (bs : List Byte) (r : PRec) (s : Nat) : Option PRec :=
  let h := (bs.drop (16 + 16 * s)).take 16
  let ty := leAt h 0 2
  let n := leAt h 4 4
  if leAt h 2 2 ≠ 0 then none
  else match sub bs (leAt h 8 8) (n * sectEntry ty) with
    | none => none
    | some d =>
      let es := entries d (sectEntry ty) n
      match ty with
      | 1 => if r.kernel.isEmpty then some { r with kernel := d } else none
      | 2 => (es.mapM (blockEntry bs)).map (fun x => { r with blocks := r.blocks ++ x })
      | 3 => (es.mapM expertEntry).map (fun x => { r with experts := r.experts ++ x })
      | 4 => (es.mapM attnEntry).map (fun x => { r with attn := r.attn ++ x })
      | 5 => (storeEntry d).map (fun x => { r with stores := r.stores ++ [x] })
      | 6 => (es.mapM pkgEntry).map (fun x => { r with pkgs := r.pkgs ++ x })
      | _ => none

/-- Whether a list holds an element twice. -/
def dup [DecidableEq α] : List α → Bool
  | [] => false
  | a :: r => r.contains a || dup r

/-- A placement record read, or none where it is malformed: its header, its sections, no block or attention layer twice, and
every expert layer record inside a resident block of its tile. -/
def parsePlacement (bs : List Byte) : Option PRec :=
  let n := leAt bs 6 2
  if bs.length < 16 || leAt bs 0 4 ≠ 0x34424C50 || leAt bs 4 2 ≠ 1 || n = 0 || decide (64 < n) || leAt bs 9 7 ≠ 0 ||
      decide (bs.length < 16 + 16 * n) then none
  else
    let r0 : PRec := { verify := leAt bs 8 1, kernel := [], blocks := [], experts := [], attn := [], stores := [], pkgs := [] }
    match (List.range n).foldlM (addSection bs) r0 with
    | none => none
    | some r =>
      let home := fun (e : Nat × Nat × List Byte) =>
        r.blocks.any (fun b => b.1 = e.1 && decide (b.2.1 * 32768 ≤ e.2.1) && decide (e.2.1 + 64 ≤ (b.2.1 + 1) * 32768))
      if dup (r.blocks.map (fun b => (b.1, b.2.1))) || dup (r.attn.map (·.layer)) || !r.experts.all home then none
      else some r

/-- The data of a resident block with the expert layer records that lie in it (R243). -/
def PRec.blockData (r : PRec) (b : Nat × Nat × List Byte) : List Byte :=
  r.experts.foldl (fun d e =>
    if e.1 = b.1 && e.2.1 / 32768 = b.2.1 then
      let o := e.2.1 % 32768
      d.take o ++ e.2.2 ++ d.drop (o + 64)
    else d) b.2.2

/-- Where a kernel image of a partition must end: below the KV library, below the routing kernel, or at 128 KiB (R245, R270,
R301). `attn` and `experts`: the model about to be placed has such layers. -/
def State.imageLimit (s : State) (part : Nat) (attn experts : Bool) : Nat :=
  let ms := s.models.filter (fun e => e.2.part = part)
  if attn || ms.any (fun e => !e.2.attn.isEmpty) then 0x1E000
  else if experts || ms.any (fun e => !e.2.experts.isEmpty) then 0x1F000
  else 0x20000

/-! ### MODEL_PLACE (R299) -/

/-- The bytes of the record, by the staging key from HBM or as host memory answers (R442). -/
def State.recordRead (s : State) (pa n : Nat) (ext : Ext) : Answer (List Byte) :=
  let read := fun (m : MemRead) => (if m.bad then .error .poisoned else .ok m.bytes, m.st)
  match s.zone pa with
  | .hbm _ => read (s.hbmRead pa n s.boot.stagingKey)
  | .host _ => read (s.physRead pa n 0 ext)
  | _ => (.error .badCommand, s)

/-- Ranges of HBM that a placement must not use: other placements' copies and pages that a context maps. -/
def State.placedRanges (s : State) : List (Nat × Nat) :=
  s.models.flatMap (fun e => e.2.blocks.map (fun b => (b.2.2, 32768)) ++
    e.2.stores.map (fun r => (r.2.1, (r.2.2 + 4095) / 4096 * 4096))) ++
  s.ctxs.flatMap (fun e => (s.leaves e.1).map (fun l => (pteAddr l.2.2, l.2.1)))

/-- The highest room for `n` bytes in the partition's uncompressed data regions in HBM. -/
def State.dataRoom (s : State) (part n : Nat) (occ : List (Nat × Nat)) : Option Nat :=
  ((s.regions.filter (fun r => r.kind = 0 && r.owner = part && !r.compressed && decide (r.base < hbmBase + hbmSize))).filterMap
    (fun r => fitHigh r.base (r.base + r.size) n occ)).foldl (fun (b : Option Nat) a => some (max (b.getD a) a)) none

/-- Room for several ranges, one after another, or none. -/
def State.rooms (s : State) (part : Nat) : List Nat → List (Nat × Nat) → Option (List Nat)
  | [], _ => some []
  | n :: r, occ =>
    match s.dataRoom part n occ with
    | none => none
    | some a => (s.rooms part r ((a, n) :: occ)).map (fun as => a :: as)

/-- The model's golden copies, resident blocks and store images written (R192, R299, R442). -/
def State.placeModel (s : State) (id part : Nat) (r : PRec) (as : List Nat) : State :=
  let key := s.boot.keyNext
  let s := { s with boot := { s.boot with keyNext := key + 1 } }
  let data := r.blocks.map r.blockData
  let ga := as.take r.blocks.length
  let sa := as.drop r.blocks.length
  let s := (ga.zip data).foldl (fun s e => s.hbmWrite e.1 e.2 key false) s
  let s := (r.blocks.zip data).foldl (fun s e =>
    s.modTile e.1.1 (fun x => { x.storeBytes (e.1.2.1 * 32768) e.2 false with resid := insertNat x.resid e.1.2.1 })) s
  let s := (sa.zip r.stores).foldl (fun s e => s.hbmWrite e.1 e.2.2 key false) s
  let m : Model := { part := part, verify := r.verify, blocks := (r.blocks.zip ga).map (fun e => (e.1.1, e.1.2.1, e.2)),
                     experts := r.experts.map (fun e => (e.1, e.2.1)), attn := r.attn,
                     stores := (r.stores.zip sa).map (fun e => (e.1.1, e.2, e.1.2.length)), pkgs := r.pkgs, key := key,
                     kernel := r.kernel }
  { s with models := NMap.put s.models id m }

/-- The checks of a placement record against the package, in the order of R299; what is left is room. -/
def State.placeChecked (s : State) (id part : Nat) (r : PRec) : Except Status (List Nat) :=
  if r.blocks.any (fun b => s.partOf b.1 ≠ some part) then .error .formatFault
  else if let some st := s.tilesRefuse (r.blocks.map (·.1)) then .error st
  else if (NMap.get? s.models id).isSome || r.attn.any (fun a => decide (0x200000 < a.runBytes)) ||
      decide (s.imageLimit part (!r.attn.isEmpty) (!r.experts.isEmpty) < r.kernel.length) then .error .rejected
  else if decide (64 ≤ s.models.length) || r.blocks.any (fun b => (s.tile b.1).resid.contains b.2.1) then .error .noResource
  else match s.rooms part (r.blocks.map (fun _ => 32768) ++ r.stores.map (fun e => (e.2.length + 4095) / 4096 * 4096))
      s.placedRanges with
    | none => .error .noResource
    | some as => .ok as

/-- MODEL_PLACE. Its blocks go to tiles that are neither in reset nor off (R293, R407); under the scrub pass of a quad that they lie
in it is not taken yet (R191). -/
def execModelPlace (h : Pkt) (recPa recLen : W64) (part : Byte) (model : W16) (ext : Ext) (s0 : State) :
    Host.Outcome State Fault Refusal :=
  let p := part.toNat
  let m := model.toNat
  .next (s0.host h true false (decide (p < 16) && m ≠ 0) (fun _ s =>
    if s.partInReset p then s.replyS h .targetReset
    else if s.boot.testMode then s.replyS h .permission
    else if (NMap.get? s.parts p).isNone then s.replyS h .rejected
    else State.orStatus h (s.recordRead recPa.toNat recLen.toNat ext) (fun bs s =>
      match parsePlacement bs with
      | none => s.replyS h .formatFault
      | some r =>
        match s.placeChecked m p r with
        | .error st => s.replyS h st
        | .ok as =>
          if r.blocks.any (fun b => (s.quad (quadOf b.1)).scrubPass) then s0
          else (s.placeModel m p r as).replyS h .ok)))

/-! ### MODEL_REMOVE (R299, R443) -/

/-- Whether a slot, frame or other work uses a model. -/
def State.modelUsed (s : State) (m : Nat) : Bool :=
  s.seqs.any (fun e => e.2.state != 0 && e.2.model = m) || s.works.any (fun e => e.2.model = m)

/-- The leaves of a context that map store pages of a model (R299). -/
def State.storeLeaves (s : State) (m : Model) (c : Nat) : List (Nat × Nat × Nat) :=
  (s.leaves c).filter (fun l => pteKey l.2.2 = 1 &&
    m.stores.any (fun r => decide (r.2.1 ≤ pteAddr l.2.2) && decide (pteAddr l.2.2 < r.2.1 + (r.2.2 + 4095) / 4096 * 4096)))

/-- The store pages of a model taken out of the contexts that map them (R202). -/
def State.unmapStores (s : State) (m : Model) : State :=
  s.ctxs.foldl (fun s e =>
    let ls := s.storeLeaves m e.1
    ls.foldl (fun s l => s.invalidate e.1 l.1 l.2.1) (s.rewriteLeaves e.1 ls (fun _ => 0))) s

/-- MODEL_REMOVE: masks cleared, the model key gone. A swapped page keeps its record. It is not taken while an element that was
translated through a page of its stores is to be acknowledged (R202). -/
def execModelRemove (h : Pkt) (model : W16) (s0 : State) : Host.Outcome State Fault Refusal :=
  let m := model.toNat
  .next (s0.host h true false (m ≠ 0) (fun _ s =>
    match NMap.get? s.models m with
    | none => s.replyS h .rejected
    | some x =>
      if s.modelUsed m then s.replyS h .rejected
      else if s.ctxs.any (fun e => s.writesThrough e.1 (s.storeLeaves x e.1)) then s0
      else
        let s := s.unmapStores x
        let s := x.blocks.foldl (fun s b => s.modTile b.1 (fun t =>
          { t with resid := t.resid.erase b.2.1, reload := t.reload.erase b.2.1, lostGold := t.lostGold.erase b.2.1 })) s
        ({ s with
            models := NMap.del s.models m
            prefixes := s.prefixes.filter (fun p => p.model ≠ m) }).replyS h .ok))

/-! ### Store images in contexts (R299) -/

/-- A model's store images mapped read-only with key_sel 0b01 in a context that begins to use it; pages that the context maps
itself stay; none when the table regions are full. -/
def State.mapStores (s : State) (c m : Nat) : Option State :=
  ((NMap.get? s.models m).map (·.stores)).getD [] |>.foldlM (fun (s : State) r =>
    (List.range ((r.2.2 + 4095) / 4096)).foldlM (fun (s : State) i =>
      match s.entryOf c (r.1 + 4096 * i) with
      | some _ => some s
      | none => s.mapEntry c (r.1 + 4096 * i) 0 (r.2.1 + 4096 * i + 0x85)) s) s

/-! ### KERNEL_LOAD (R301) -/

/-- KERNEL_LOAD. A load whose image cannot be reached yet is not taken (R191, R314). -/
def execKernelLoad (h : Pkt) (va len : W64) (ext : Ext) (s0 : State) : Host.Outcome State Fault Refusal :=
  .next (s0.host h false false true (fun c s =>
    let part := ((s.ctx? c).map (·.part)).getD 0
    if s.imageLimit part false false < len.toNat then s.replyS h .rejected
    else if s.stewardWaits c va.toNat len.toNat then s0
    else State.orStatus h (s.stewardRead c va.toNat len.toNat ext) (fun img s =>
      (s.modCtx c (fun x => { x with image := img })).replyS h .ok)))

end Sys2Proof.Machine
end

