-- ==== Sys2Proof/Machine/Routing.lean ====
section
/-! DEFINITION. Return windows (12, R253 to R257, R280), the routing kernel's entries (R243 to R251, R261 to R263) and the KV
library's (R270, R271, R280). An entry runs as one act: the core stands at its address and returns by JR g31. -/

namespace Sys2Proof.Machine

/-! ### Return windows -/

/-- The window limit of a context (R254, R460). -/
def State.windowLimit (s : State) (c : Nat) : Nat :=
  match s.cfg.active with
  | some a => NMap.get 64 a.wlim c
  | none => 64

/-- Whether a tag may not be opened or drawn now: an open window has it, one closed less than 1 ms ago had it (R253, R254). -/
def State.tagBusy (s : State) (c tag : Nat) : Bool :=
  s.windows.any (fun w => w.ctx = c && w.tag = tag) ||
  (((s.ctx? c).map (·.closed)).getD []).any (fun e => e.1 = tag && decide (s.clk.now < e.2 + 1000000))

/-- Whether a value is that of an open epoch of the context. -/
def State.epochBusy (s : State) (c v : Nat) : Bool := s.seqs.any (fun e => e.2.state ≠ 0 && e.2.ctx = c && e.2.epoch = v)

/-- The next value of a generation counter, skipping 0. -/
def genNext (v : Nat) : Nat := if v + 1 < 65536 then v + 1 else 1

/-- The first free value from a counter on (R253), on fuel. -/
def State.genFind (s : State) (c : Nat) : Nat → Nat → Option Nat
  | 0, _ => none
  | n + 1, v => if s.tagBusy c v || s.epochBusy c v then s.genFind c n (genNext v) else some v

/-- A value drawn from a context's generation counter, which then stands at the next one (R253, R280). -/
def State.genDraw (s : State) (c : Nat) : Option (Nat × State) :=
  match s.ctx? c with
  | none => none
  | some x => (s.genFind c 65535 x.gen).map (fun v => (v, s.modCtx c (fun x => { x with gen := genNext v })))

/-- Whether a context may open one more window (R254). -/
def State.windowFree (s : State) (c : Nat) : Bool :=
  decide (s.windows.length < 1024) && decide ((s.windows.filter (fun w => w.ctx = c)).length < s.windowLimit c)

/-- A window closing with a status code; the first cause decides (R257). -/
def Window.close (w : Window) (code : Nat) : Window := { w with closing := some (w.closing.getD code) }

/-- The windows that satisfy a test closed with a status. -/
def State.closeWindows (s : State) (p : Window → Bool) (st : Status) : State :=
  { s with windows := s.windows.map (fun w => if p w then w.close st.code else w) }

/-- A window opened (R254, R280); one that expects no byte closes with ST_OK at once. -/
def State.openWindow (s : State) (w : Window) : State :=
  { s with windows := s.windows ++ [if w.expect = 0 then w.close Status.ok.code else w] }

/-- WINDOW_DEADLINE (R257): the deadline has passed. -/
def execWindowDeadline (ctx : Byte) (tag : W16) (s : State) : Host.Outcome State Fault Refusal :=
  .next (s.closeWindows (fun w => w.ctx = ctx.toNat && w.tag = tag.toNat && decide (w.deadline ≤ s.clk.now)) .timeout)

/-- A tag closed now: it is not opened again for 1 ms (R254). -/
def State.retireTag (s : State) (c tag : Nat) : State :=
  s.modCtx c (fun x => { x with closed := (tag, s.clk.now) :: x.closed.filter (fun e => decide (s.clk.now < e.2 + 1000000)) })

/-- The window status byte written by the col die; a tile in reset or off, or a block that is resident by now, takes no write (R192,
R257, R407). -/
def State.writeStatus (s : State) (w : Window) : State :=
  match w.status with
  | none => s
  | some a =>
    if (s.targetFails (w.tile * 0x2000000) true).isSome || (s.tile w.tile).residentAt a 1 then s
    else ((s.countRoute none (some (daleOf w.tile)) 1).count (0x300000 + 64 * w.tile + 48) 1).spWrite w.tile a
      (leBytes 1 (w.closing.getD 0)) false

/-- WINDOW_CLOSE_COMPLETE (R257): the status byte is written, then the signal is added. The generation is not reopened for
1 ms (R254). Under the scrub pass of its tile's quad the window waits (R191). -/
def execWindowCloseComplete (ctx : Byte) (tag : W16) (s : State) : Host.Outcome State Fault Refusal :=
  match s.windows.find? (fun w => w.ctx = ctx.toNat && w.tag = tag.toNat && w.closing.isSome) with
  | none => .next s
  | some w =>
    if w.status.isSome && (s.quad (quadOf w.tile)).scrubPass then .next s
    else
      let s := { s with windows := s.windows.filter (fun v => !(v.ctx = w.ctx && v.tag = w.tag)) }
      .next (((s.writeStatus w).retireTag w.ctx w.tag).signalAdd w.ctx w.sig 1)

/-! ### Calls and returns of an entry (R245, R246) -/

/-- Whether a core stands at an entry, able to run it, with its arguments there. -/
def State.atEntry (s : State) (t pc : Nat) : Bool :=
  let c := (s.tile t).core
  s.issues t && s.libAt t pc && decide (c.pc = pc) && !c.ahead && c.pend.isEmpty

/-- Operations that an entry issued and waited for: how many, the spec does not say. -/
def Tickets.burn (k : Tickets) (n : Nat) : Tickets := (List.range n).foldl (fun k _ => k.issue.finish (k.issued + 1) .ok 0) k

/-- The return of an entry with a status code in g1: g2 to g19, f0 to f7 and p1 to p4 hold undefined values (R246). -/
def State.libReturn (s : State) (t code flags : Nat) : State :=
  let f := fun n => s.fv n
  let s' := s.modTile t (fun x =>
    { x with
      tkV := x.tkV.burn (f 40)
      tkD := x.tkD.burn (f 41)
      core :=
        let c := (List.range 18).foldl (fun (c : Core) i => c.wr (.g (i + 2)) (f i)) (x.core.wr (.g 1) code)
        let c := (List.range 8).foldl (fun (c : Core) i => c.wr (.f i) (f (18 + i))) c
        let c := (List.range 4).foldl (fun (c : Core) i => c.wr (.p (i + 1)) (f (26 + i))) c
        { c with sticky := c.sticky ||| flags } })
  let s' := s'.used 42
  let c := (s'.tile t).core
  if c.rg 31 % 4 ≠ 0 then s'.except t 1 c.pc (c.rg 31)
  else (s'.modCore t (fun c => { c with pc := c.rg 31 % 2 ^ 32 })).traceCommit t (some (c.rg 31 % 2 ^ 32))

/-- A return with a status and no flags. -/
def State.libStatus (s : State) (t : Nat) (st : Status) : State := s.libReturn t st.code 0

/-- Whether a range lies in the populated, non-resident scratchpad of a tile (R244, R247). -/
def Tile.freeArea (x : Tile) (a n : Nat) : Bool := inSp a n && !x.residentAt a n

/-! ### The expert layer record (R243) -/

/-- The record's fields. -/
structure ExpRec where
  e : Nat
  k : Nat
  cap : Nat
  layer : Nat
  push : Bool
  probe : Bool
  renorm : Bool
  key : Nat
  dOut : Nat
  out : Nat
  limit : Nat
  sig : Nat
  deriving DecidableEq, Repr, Inhabited

/-- A record read from its 64 bytes, or none where R247 rejects a field. -/
def expRec (bs : List Byte) : Option ExpRec :=
  let h := leAt bs 0 8
  let r : ExpRec :=
    { e := bits h 52 12 + 1, k := bits h 49 3 + 1, cap := bits h 41 8 + 1, layer := bits h 25 16, push := bit h 24,
      probe := bit h 23, renorm := bit h 22, key := leAt bs 8 8, dOut := leAt bs 28 2, out := bits (leAt bs 40 4) 0 25,
      limit := leAt bs 44 2, sig := leAt bs 46 2 }
  if bits h 0 22 ≠ 0 || leAt bs 30 2 ≠ 0 || bits (leAt bs 40 4) 25 7 ≠ 0 || leAt bs 48 16 ≠ 0 || r.dOut = 0 ||
      decide (16384 < r.dOut) || r.out % 8 ≠ 0 || decide ((leAt bs 32 8 = 0) = (r.push = true)) ||
      (r.push && (r.limit = 0 || decide (16384 ≤ r.sig))) then none
  else some r

/-- Bytes of the result region (R248). -/
def ExpRec.regionSize (r : ExpRec) (n : Nat) : Nat := 64 + 32 * n + 4 * r.e + 2 * r.e * r.cap

/-- Bytes of the expert output area (R244). -/
def ExpRec.areaSize (r : ExpRec) : Nat := r.e * r.cap * 4 * r.dOut

/-! ### The capacity pass (R249, R250) -/

/-- What the pass has done: fills, bucket lists, entries, and the header's counts. -/
structure RouteAcc where
  fill : NMap Nat
  lists : NMap (List Nat)
  ents : List Nat
  kept : Nat
  dropped : Nat
  replaced : Nat
  dup : Nat
  empty : Nat
  deriving DecidableEq, Repr, Inhabited

/-- A choice table entry (R248). -/
def choiceEntry (state probed index x pos : Nat) : Nat := state * 2 ^ 30 + probed * 2 ^ 29 + index * 2 ^ 25 + x * 2 ^ 12 + pos

/-- A token put into an expert's bucket. -/
def RouteAcc.keep (a : RouteAcc) (b x : Nat) : RouteAcc :=
  { a with
    fill := NMap.put a.fill x (NMap.get 0 a.fill x + 1)
    lists := NMap.put a.lists x (NMap.get [] a.lists x ++ [b])
    kept := a.kept + 1 }

/-- The probe of a dropped choice: the index used and its expert, and the next index (on fuel). -/
def probeF (r : ExpRec) (tok : Nat) (chosen : List Nat) (fill : NMap Nat) : Nat → Nat → Option (Nat × Nat) × Nat
  | 0, nx => (none, nx)
  | n + 1, nx =>
    if r.k + 1 < nx then (none, nx)
    else
      let y := hash64 tok r.layer nx r.key % r.e
      if !chosen.contains y && decide (NMap.get 0 fill y < r.cap) then (some (nx, y), nx + 1)
      else probeF r tok chosen fill n (nx + 1)

/-- One choice of a token: the pass, the chosen set, the next probe index, the token's entries. -/
def choice (r : ExpRec) (tok b : Nat) (st : RouteAcc × List Nat × Nat × List Nat) (j : Nat) :
    RouteAcc × List Nat × Nat × List Nat :=
  let (a, chosen, nx, es) := st
  let x := hash64 tok r.layer j r.key % r.e
  if chosen.contains x then ({ a with dup := a.dup + 1 }, chosen, nx, es ++ [choiceEntry 3 0 j x 0])
  else
    let chosen := x :: chosen
    let f := NMap.get 0 a.fill x
    if f < r.cap then (a.keep b x, chosen, nx, es ++ [choiceEntry 1 0 j x f])
    else
      let a := { a with dropped := a.dropped + 1 }
      match if r.probe then probeF r tok chosen a.fill 3 nx else (none, nx) with
      | (some (i, y), nx) =>
        ({ a.keep b y with replaced := a.replaced + 1 }, y :: chosen, nx,
          es ++ [choiceEntry 1 1 i y (NMap.get 0 a.fill y)])
      | (none, nx) => (a, chosen, nx, es ++ [choiceEntry 2 0 j x 0])

/-- The pass over the tokens of a batch. -/
def routePass (r : ExpRec) (toks : List Nat) : RouteAcc :=
  toks.zipIdx.foldl (fun a e =>
    let t := (List.range r.k).foldl (choice r e.1 e.2) (a, [], r.k, [])
    let a' := { t.1 with ents := t.1.ents ++ t.2.2.2 ++ List.replicate (8 - r.k) 0 }
    if a'.kept = a.kept then { a' with empty := a'.empty + 1 } else a')
    { fill := [], lists := [], ents := [], kept := 0, dropped := 0, replaced := 0, dup := 0, empty := 0 }

/-- The header, choice table and fill table of a result (R248). -/
def RouteAcc.bytes (a : RouteAcc) (e gen : Nat) : List Byte :=
  [a.kept, a.dropped, a.replaced, a.dup, a.empty].flatMap (leBytes 4) ++ leBytes 2 gen ++ List.replicate 42 0 ++
  a.ents.flatMap (leBytes 4) ++ (List.range e).flatMap (fun x => leBytes 4 (NMap.get 0 a.fill x))

/-- The bucket lists of a result; places past an expert's fill hold 0, so that equal inputs give equal bytes (R248, R251). -/
def RouteAcc.buckets (a : RouteAcc) (e cap : Nat) : List Byte :=
  (List.range e).flatMap (fun x =>
    let l := NMap.get [] a.lists x
    (List.range cap).flatMap (fun p => leBytes 2 (l.getD p 0)))

/-- A result written into its region on the routing tile. -/
def State.writeResult (s : State) (t g5 gen : Nat) (r : ExpRec) (a : RouteAcc) : State :=
  s.spWrite t g5 (a.bytes r.e gen ++ a.buckets r.e r.cap) false

/-! ### ROUTE (R245 to R251, R253, R254) -/

/-- Whether the callers of a ROUTE form one call: each at the entry, in the same context, with the same arguments and its
rank. -/
def State.oneCall (s : State) (ts : List Nat) : Bool :=
  let t0 := ts.headD 0
  let c0 := (s.tile t0).core
  ts.zipIdx.all (fun e =>
    let x := s.tile e.1
    s.atEntry e.1 0x1F000 && decide (x.ctx = (s.tile t0).ctx) && decide (bits (x.core.rg 7) 0 8 = e.2) &&
    decide (bits (x.core.rg 7) 8 8 = ts.length) && [2, 3, 4, 5, 6].all (fun i => decide (x.core.rg i = c0.rg i)))

/-- All callers return with a status. -/
def State.allReturn (s : State) (ts : List Nat) (st : Status) : State := ts.foldl (fun s t => s.libStatus t st) s

/-- The token identifiers of a batch put into the token table of a caller, where the commands that run there carry as many tokens as the
call has (R248; assumption log entry 116). -/
def State.putTokens (s : State) (t g3 n : Nat) : State :=
  let toks := (s.batchOn t).flatMap (fun e => e.2.toks)
  if toks.length = n && inSp g3 (8 * n) && !(s.tile t).residentAt g3 (8 * n) then s.spWrite t g3 (toks.flatMap (leBytes 8)) false
  else s

/-- The tokens of a call: caller b mod count reads token b from its own table (R246, R247). With whether any reads poisoned. -/
def State.readTokens (s : State) (ts : List Nat) (g3 n : Nat) : List Nat × Bool × State :=
  (List.range n).foldl (fun (a : List Nat × Bool × State) b =>
    let m := a.2.2.spRead (ts.getD (b % ts.length) 0) (g3 + 8 * b) 8
    (a.1 ++ [leVal m.1], a.2.1 || !m.2.1.isEmpty, m.2.2)) ([], false, s)

/-- The record of a layer read by every caller, over the remote port where it is not its own (R243, R246). -/
def State.readRecord (s : State) (ts : List Nat) (u g2 : Nat) : List Byte × List Nat × State :=
  ts.tail.foldl (fun (m : List Byte × List Nat × State) t => (m.1, m.2.1, (m.2.2.pull t u g2 64).2.2)) (s.spRead u g2 64)

/-- The barrier that ROUTE's callers meet at: one phase of it passes. -/
def State.routeBarrier (s : State) (c ident : Nat) (ts : List Nat) : State :=
  match NMap.get? s.barriers (objKey c ident) with
  | some b => if b.p = ts.length && !b.broken then s.arriveN c ident ts.length else s
  | none => s

/-- The window of a push-mode ROUTE, with its generation, where one may be opened. -/
def State.routeWindow (s : State) (t c g5 : Nat) (r : ExpRec) (a : RouteAcc) : Option (Nat × State) :=
  if !s.windowFree c then none
  else (s.genDraw c).map (fun p =>
    (p.1, p.2.openWindow
      { ctx := c, tag := p.1, tile := t, off := r.out, len := r.areaSize, expect := 4 * r.dOut * a.kept, count := 0,
        sig := r.sig, deadline := s.clk.now + 1000 * r.limit, epoch := s.epochOn t, status := some (g5 + 22),
        closing := none }))

/-- One ROUTE call. -/
def State.routeCall (s : State) (ts : List Nat) : State :=
  let t := ts.headD 0
  let x := s.tile t
  let c := x.ctx.getD 0
  let g := x.core.rg
  let n := g 4
  let m := s.readRecord ts t (g 2)
  if !inSp (g 2) 64 then s.allReturn ts .badCommand
  else if !m.2.1.isEmpty then m.2.2.allReturn ts .poisoned
  else match expRec m.1 with
    | none => m.2.2.allReturn ts .badCommand
    | some r =>
      if n = 0 || decide (16384 < n) || !x.freeArea (g 5) (r.regionSize n) || !x.freeArea r.out r.areaSize ||
          !inSp (g 3) (8 * n) then m.2.2.allReturn ts .badCommand
      else
        let k := (ts.foldl (fun (s : State) u => s.putTokens u (g 3) n) m.2.2).readTokens ts (g 3) n
        if k.2.1 then k.2.2.allReturn ts .poisoned
        else
          let a := routePass r k.1
          let s := k.2.2.routeBarrier c (g 6) ts
          if !r.push then (s.writeResult t (g 5) 0 r a).allReturn ts .ok
          else match s.routeWindow t c (g 5) r a with
            | none => (s.writeResult t (g 5) 0 r a).allReturn ts .noResource
            | some (gen, s) => (s.writeResult t (g 5) gen r a).allReturn ts .ok

/-- Whether a caller's own count or rank is out of range (R247). -/
def State.badCaller (s : State) (t : Nat) : Bool :=
  let g7 := (s.tile t).core.rg 7
  s.atEntry t 0x1F000 && (bits g7 8 8 = 0 || decide (16 < bits g7 8 8) || decide (bits g7 8 8 ≤ bits g7 0 8))

/-- ROUTE: the callers in rank order. Callers whose own count or rank is out of range return ST_BAD_COMMAND by themselves (R247);
callers that do not form one call wait. -/
def execRoute (callers : List Byte) (s : State) : Host.Outcome State Fault Refusal :=
  let ts := callers.map (fun (t : Byte) => t.toNat)
  if ts.any s.badCaller then .next ((ts.filter s.badCaller).foldl (fun (s : State) t => s.libStatus t .badCommand) s)
  else if !ts.isEmpty && s.oneCall ts then .next (s.routeCall ts)
  else .next s

/-! ### COMBINE and ABANDON (R261 to R263) -/

/-- The routing tile of the layer whose record stands at an offset: the tile the placement names (R243), else the caller. -/
def State.routingTile (s : State) (t off : Nat) : Nat :=
  match s.models.findSome? (fun e => if some e.2.part = s.partOf t then e.2.experts.find? (fun p => p.2 = off) else none) with
  | some p => p.1
  | none => t

/-- What COMBINE does for one token: its row, whether the row is poisoned, its status, the flags, the state. The caller `t` reads
over the remote port of the routing tile `u` (R246). -/
def State.combineToken (s : State) (t u g3 b winSt : Nat) (r : ExpRec) : List Nat × Bool × Nat × Nat × State :=
  let es := (List.range r.k).map (fun j => Bytes.le (s.tile u).sp (g3 + 64 + 32 * b + 4 * j) 4)
  let kept := es.filter (fun e => bits e 30 2 = 1)
  let zero := List.replicate r.dOut 0
  if kept.isEmpty then (zero, false, Status.ok.code, 0, s)
  else if r.push && winSt ≠ Status.ok.code then (zero, false, winSt, 0, s)
  else
    let rows := kept.foldl (fun (a : List (List Byte) × Bool × State) e =>
      let m := a.2.2.pull t u (r.out + (bits e 12 12 * r.cap + bits e 0 8) * 4 * r.dOut) (4 * r.dOut)
      (a.1 ++ [m.1], a.2.1 || !m.2.1.isEmpty, m.2.2)) ([], false, s)
    let w := rneInt 1 (if r.renorm then r.k else kept.length)
    let ys := (List.range r.dOut).map (fun i =>
      let q := fixedSum (rows.1.map (fun bs => leAt bs (4 * i) 4))
      let y := fMul q.1 w.1
      (y.1, q.2 ||| y.2))
    (ys.map (·.1), rows.2.1, if rows.2.1 then Status.poisoned.code else Status.ok.code,
      ys.foldl (fun f y => f ||| y.2) w.2, rows.2.2)

/-- The statuses of a batch's tokens told to their commands: each keeps the first that is not ST_OK; a code that R292 does not list
counts as ST_CANCELLED (R262; assumption log entry 116). -/
def State.tokenStatuses (s : State) (t : Nat) (sts : List Nat) : State :=
  let ws := s.batchOn t
  let keep := fun (s : State) (n : Nat) (l : List Nat) =>
    match l.find? (fun c => c ≠ Status.ok.code) with
    | some c => s.modWork n (fun w => { w with tokSt := some (w.tokSt.getD ((Status.ofCode c).getD .cancelled)) })
    | none => s
  match ws with
  | [e] => keep s e.1 sts
  | _ =>
    if (ws.map (fun e => e.2.toks.length)).sum = sts.length then
      (ws.foldl (fun (a : List Nat × State) e =>
        (a.1.drop e.2.toks.length, keep a.2 e.1 (a.1.take e.2.toks.length))) (sts, s)).2
    else s

/-- COMBINE. -/
def State.combineCall (s : State) (t : Nat) : State :=
  let g := (s.tile t).core.rg
  let u := s.routingTile t (g 2)
  let n := g 4
  let m := s.pull t u (g 2) 64
  if !inSp (g 2) 64 then s.libStatus t .badCommand
  else if !m.2.1.isEmpty then m.2.2.libStatus t .poisoned
  else match expRec m.1 with
    | none => m.2.2.libStatus t .badCommand
    | some r =>
      let x := s.tile u
      let y := s.tile t
      if n = 0 || decide (16384 < n) || !x.freeArea (g 3) (r.regionSize n) || !x.freeArea r.out r.areaSize ||
          !y.freeArea (g 5) (4 * r.dOut * n) || !y.freeArea (g 6) n then m.2.2.libStatus t .badCommand
      else
        let k := m.2.2.pull t u (g 3) (64 + 32 * n)
        if !k.2.1.isEmpty then k.2.2.libStatus t .poisoned
        else
          let win := leAt k.1 22 1
          let z := (List.range n).foldl (fun (a : List Nat × Nat × State) b =>
            let q := a.2.2.combineToken t u (g 3) b win r
            let s := q.2.2.2.2.spWrite t (g 5 + 4 * r.dOut * b) (q.1.flatMap (leBytes 4)) q.2.1
            let s := s.spWrite t (g 6 + b) (leBytes 1 q.2.2.1) false
            (a.1 ++ [q.2.2.1], a.2.1 ||| q.2.2.2.1, s)) ([], 0, k.2.2)
          let first := (z.1.find? (fun c => c ≠ Status.ok.code)).getD Status.ok.code
          (z.2.2.tokenStatuses t z.1).libReturn t first z.2.1

/-- COMBINE: a routing tile in reset or off answers the caller's reads with its status, one whose quad is in its scrub pass makes it
wait (R186, R191, R407). -/
def execCombine (t : Byte) (s : State) : Host.Outcome State Fault Refusal :=
  let u := s.routingTile t.toNat ((s.tile t.toNat).core.rg 2)
  if !s.atEntry t.toNat 0x1F800 then .next s
  else if u = t.toNat then .next (s.combineCall t.toNat)
  else match s.targetFails (u * 0x2000000) false with
    | some st => .next (s.libStatus t.toNat st)
    | none => if (s.quad (quadOf u)).scrubPass then .next s else .next (s.combineCall t.toNat)

/-- ABANDON: the window of the named result region of the calling tile (R246) closes with the code in g3, ST_OK replaced by ST_CANCELLED (R263). -/
def execAbandon (t : Byte) (s : State) : Host.Outcome State Fault Refusal :=
  let t := t.toNat
  if !s.atEntry t 0x1FC00 then .next s
  else
    let x := s.tile t
    let code := x.core.rg 3 % 256
    let code := if code = Status.ok.code then Status.cancelled.code else code
    let hit := fun (w : Window) => some w.ctx = x.ctx && decide (w.status = some (x.core.rg 2 + 22))
    .next ({ s with windows := s.windows.map (fun w => if hit w && w.tile = t then w.close code else w) }.libStatus t .ok)

/-! ### The KV library (R270, R271, R280) -/

/-- The bytes of a position's key in a run: cells of head h, by (offset, bytes) (R84, R264). -/
def Attn.keyCells (a : Attn) (h p : Nat) (ms : List Int) : List (Nat × List Byte) :=
  (List.range a.c).flatMap (fun c =>
    let m := fun i => wrap a.bitsPer (ms.getD (40 * c + i) 0)
    let plane := fun j => ((List.range 40).map (fun i => if bit (m i) j then 2 ^ i else 0)).sum
    let str := (List.range a.bitsPer).flatMap (fun j => leBytes 5 (plane j)) ++ List.replicate 8 0
    (List.range a.ns).map (fun sl => (8 * (((h * a.c + c) * a.ns + sl) * 40 + p), (str.drop (8 * sl)).take 8)))

/-- The bits of a position's value in a run: (byte offset, bit, value) for head h and every dimension. -/
def Attn.valBits (a : Attn) (h p : Nat) (ms : List Int) : List (Nat × Nat × Bool) :=
  (List.range a.d).flatMap (fun d =>
    let m := wrap a.bitsPer (ms.getD d 0)
    (List.range a.bitsPer).map (fun j =>
      let o := 5 * j + p / 8
      (a.kB + 8 * ((h * a.ns + o / 8) * a.d + d) + o % 8, p % 8, bit m j)))

/-- One bit of a run written. -/
def State.writeKvBit (s : State) (pa key : Nat) (poison : Bool) (e : Nat × Nat × Bool) : State :=
  let m := s.hbmRead (pa + e.1) 1 key
  let v := leVal m.bytes
  let v' := (if bit v e.2.1 then v - 2 ^ e.2.1 else v) + (if e.2.2 then 2 ^ e.2.1 else 0)
  m.st.hbmWrite (pa + e.1) (leBytes 1 v') key poison

/-- One head of a position written into its run: key, value, scales; with the flag and poison of its vectors. -/
def State.writeKvHead (s : State) (t pa key p h q : Nat) (a : Attn) (kOff vOff : Nat) : State × Nat × Bool :=
  let at_ := 4 * (q * a.h + h) * a.d
  let k := s.spRead t (kOff + at_) (4 * a.d)
  let v := k.2.2.spRead t (vOff + at_) (4 * a.d)
  let qm := if a.k4 then 7 else 127
  let vals := fun (bs : List Byte) => (List.range a.d).map (fun i => leAt bs (4 * i) 4)
  let kq := kvQuant qm (vals k.1)
  let vq := kvQuant qm (vals v.1)
  let bad := !k.2.1.isEmpty || !v.2.1.isEmpty
  let s := (a.keyCells h p kq.2.1).foldl (fun (s : State) e => s.hbmWrite (pa + e.1) e.2 key bad) v.2.2
  let s := (a.valBits h p vq.2.1).foldl (fun (s : State) e => s.writeKvBit pa key bad e) s
  let sc := a.kB + a.vB + 2 * (40 * h + p)
  let s := s.hbmWrite (pa + sc) (leBytes 2 kq.1) key bad
  let s := s.hbmWrite (pa + sc + 80 * a.h) (leBytes 2 vq.1) key bad
  let s := s.countWrite t pa (8 * a.c * a.ns + a.d * a.bitsPer / 8 + 4)
  (s, if kq.2.2 || vq.2.2 then fInvalid else 0, bad)

/-- The aperture address of a position (R267). -/
def kvAddr (slot layer r len : Nat) : Nat := kvBase + slot % 1024 * 2 ^ 38 + layer % 128 * 2 ^ 31 + r * len

/-- Positions written one after another: the status, flags and state; on the number of positions left. A swapped run is brought
back first. -/
def State.appendF (s : State) (t : Nat) (g : Nat → Nat) (a : Attn) (done flags : Nat) (bad : Bool) :
    Nat → Status × Nat × State
  | 0 => (if bad then .poisoned else .ok, flags, s)
  | n + 1 =>
    let pos := g 4 + done
    let c := ((s.tile t).ctx).getD 0
    let slot := g 2 % 1024
    let va := kvAddr slot (g 3) (pos / 40) a.runBytes
    let s := if s.kvCheck (some t) c va true = .swapped then
      (s.runIn slot (runKey (g 3 % 128) (pos / 40)) goodTags).getD s else s
    match s.kvCheck (some t) c va true with
    | .fails st => (st, flags, s)
    | .swapped => (.translationFault, flags, s)
    | .run _ _ pa _ =>
      match (if s.kvMapBad va then some .poisoned else s.targetFails pa true) with
      | some st => (st, flags, s)
      | none =>
        let key := ((s.ctx? c).map (·.key)).getD 0
        let r := (List.range a.h).foldl (fun (r : State × Nat × Bool) h =>
          let w := r.1.writeKvHead t pa key (pos % 40) h done a (g 6) (g 7)
          (w.1, r.2.1 ||| w.2.1, r.2.2 || w.2.2)) (s, flags, bad)
        r.1.appendF t g a (done + 1) r.2.1 r.2.2 n

/-- KV_APPEND. -/
def State.appendCall (s : State) (t : Nat) : State :=
  let x := s.tile t
  let g := x.core.rg
  let n := g 5
  if n = 0 || decide (64 < n) || decide (1024 ≤ g 2) ||
      !(s.carriers t (g 2)).any (fun e => decide (e.2.1 ≤ g 4) && decide (g 4 + n ≤ e.2.2)) then s.libStatus t .badCommand
  else match s.kvAttn (g 2) (g 3) with
    | none =>
      match s.kvCheck (some t) (x.ctx.getD 0) (kvAddr (g 2) (g 3) 0 0) true with
      | .fails st => s.libStatus t st
      | _ => s.libStatus t .translationFault
    | some a =>
      if !inSp (g 6) (4 * n * a.h * a.d) || !inSp (g 7) (4 * n * a.h * a.d) then s.libStatus t .translationFault
      else
        let r := s.appendF t g a 0 0 false n
        r.2.2.libReturn t r.1.code r.2.1

def execKvAppend (t : Byte) (s : State) : Host.Outcome State Fault Refusal :=
  if s.atEntry t.toNat 0x1E000 then .next (s.appendCall t.toNat) else .next s

/-- KV_RECV_OPEN. -/
def State.recvOpen (s : State) (t : Nat) : State :=
  let x := s.tile t
  let c := x.ctx.getD 0
  let g := x.core.rg
  if g 2 = 0 || decide (65536 ≤ g 2) || decide (16384 ≤ g 6) || g 7 = 0 || decide (65535 < g 7) || !x.freeArea (g 3) (g 4) then
    s.libStatus t .badCommand
  else if s.tagBusy c (g 2) || !s.windowFree c then s.libStatus t .noResource
  else (s.openWindow
    { ctx := c, tag := g 2, tile := t, off := g 3, len := g 4, expect := g 5, count := 0, sig := g 6,
      deadline := s.clk.now + 1000 * g 7, epoch := g 2, status := none, closing := none }).libStatus t .ok

def execKvRecvOpen (t : Byte) (s : State) : Host.Outcome State Fault Refusal :=
  if s.atEntry t.toNat 0x1E800 then .next (s.recvOpen t.toNat) else .next s

end Sys2Proof.Machine
end

