-- ==== Sys2Proof/Machine/Slots.lean ====
section
/-! DEFINITION. Sequence slots (13, 14): the order of a slot's commands (R295, R303), SEQ_OPEN (R304 to R306), steps (R307),
cancels and closes (R308), prefixes (R274, R275, R309), epochs (R280 to R283), pre-emption (R277 to R279). -/

namespace Sys2Proof.Machine

/-! ### Handles and waiting commands (R295, R303) -/

/-- The slot a handle of a context names, if it is not Free (R303). -/
def State.slotFor (s : State) (c handle : Nat) : Option Nat :=
  let n := handle % 1024
  let q := s.seq n
  if bits handle 10 6 = 0 && q.state ≠ 0 && q.serial = handle / 65536 && q.ctx = c then some n else none

/-- The handle of a slot. -/
def Seq.handle (q : Seq) (n : Nat) : Nat := q.serial * 65536 + n

/-- A command kept until it is answered. -/
def Work.base (h : Pkt) (kind : WKind) (c slot : Nat) : Work :=
  { h := h, kind := kind, ctx := c, items := [], started := false, slot := slot, handle := 0, pos := 0, drafts := 0, j := 0,
    epoch := 0, aOld := 0, aNew := 0, model := 0, verify := 0, resVa := 0, frame := 0, deadline := 0, runLate := false,
    late := false, cls := 0, answer := none, dirty := false, rerun := false, rngSave := [], taken := 0, toks := [], tokSt := none }

/-- A command put behind those taken before it. -/
def State.addWork (s : State) (w : Work) : State :=
  { s with works := NMap.put s.works s.workNext { w with taken := s.clk.now }, workNext := s.workNext + 1 }

/-- A command answered: it leaves, and its reply is written. -/
def State.answerWork (s : State) (n : Nat) (st : Status) (r0 r1 : Nat) : State :=
  match NMap.get? s.works n with
  | some w => { s with works := NMap.del s.works n }.replyLate w.h st r0 r1 w.late
  | none => s

/-- Items for tiles, in ascending order, none started. -/
def itemsFor (ts : List Nat) (entry : Nat) (args : List Nat) : List WItem :=
  ts.map (fun t => { tile := t, entry := entry, args := args, st := .ready })

/-- Stream indices claimed (R312). -/
def claimMeets (a b : W64) : Bool := a &&& b ≠ 0

/-- Whether a claim conflicts with that of a command taken and not answered (R312). A command of the same slot is none. -/
def State.streamBusy (s : State) (h : Pkt) (c slot : Nat) (ts : List Nat) : Bool :=
  s.works.any (fun e => e.2.ctx = c && claimMeets e.2.h.streamClaim h.streamClaim && e.2.items.any (fun i => ts.contains i.tile) &&
    !(e.2.h.sharedStream && h.sharedStream) && !(decide (slot < 1024) && e.2.slot = slot))

/-- The counters of the claimed streams on some tiles, as they stand (R415). -/
def State.saveRng (s : State) (c : Nat) (claim : W64) (ts : List Nat) : NMap Nat :=
  ts.flatMap (fun t => ((List.range 64).filter (fun j => claim.getLsbD j)).map (fun j =>
    let k := c * 16384 + t * 64 + j
    (k, NMap.get 0 s.rng k)))

/-- The steward's plan of the tiles a command runs on: those of the partition, ascending; the verifying tile is among them when
the command carries drafts or the plan names none. -/
def State.planTiles (s : State) (part : Nat) (plan : List Byte) (verify : Nat) (drafts : Bool) : List Nat :=
  let ts := ((plan.map (fun (b : Byte) => b.toNat)).filter (fun t => s.partOf t = some part)).foldl insertNat []
  if drafts || ts.isEmpty then insertNat ts verify else ts

/-! ### Slots freed and steps ended -/

/-- The work items of a command told to end with ST_CANCELLED at their next restartable point (R295, R308, R311). -/
def State.cancelWork (s : State) (n : Nat) : State :=
  match NMap.get? s.works n with
  | none => s
  | some w =>
    let run := (w.items.filter (fun i => i.st = .running)).map (·.tile)
    let s := s.modWork n (fun w => { w with items := w.items.map (fun i =>
      if i.st = .ready then { i with st := .ended .cancelled Status.cancelled.code } else i) })
    run.foldl State.cancelTile s

/-- The command of a slot that runs. -/
def State.runningWork (s : State) (slot : Nat) : Option (Nat × Work) :=
  s.works.find? (fun e => e.2.slot = slot && e.2.started)

/-- Whether every work item of a command has ended. -/
def Work.ended (w : Work) : Bool := w.items.all (fun i => match i.st with | .ended _ _ => true | _ => false)

/-! ### Epochs (R280 to R283) -/

/-- The other packages of a model's job. -/
def State.peers (s : State) (m : Nat) : List Nat :=
  (((NMap.get? s.models m).map (·.pkgs)).getD []).filter (fun n => n ≠ s.links.inst.node)

/-- What a token does on its receipt: a cancel closes the windows of the epoch, and those opened under it, and tells the
epoch's work items to end (R257, R282). -/
def State.onToken (s : State) (c epoch : Nat) (commit : Bool) : State :=
  if commit then s
  else
    let s := s.closeWindows (fun w => w.ctx = c && (w.tag = epoch || w.epoch = epoch)) .cancelled
    (NMap.keysOf s.works (fun _ w => w.ctx = c && w.epoch = epoch)).foldl State.cancelWork s

/-- The first commit or cancel of a slot's open epoch: it decides, and the token goes out (R282, R283). -/
def State.decideEpoch (s : State) (slot : Nat) (commit : Bool) (j : Nat) : State :=
  let q := s.seq slot
  if q.epoch = 0 || q.action.isSome then s
  else
    let ps := s.peers q.model
    let s := s.modSeq slot (fun q => { q with action := some (commit, j), acks := ps, tokenAt := s.clk.now })
    let s := ps.foldl (fun s n => s.send (.token n q.ctx q.epoch commit j)) s
    s.onToken q.ctx q.epoch commit

/-- Held actions of a slot performed in the order first held, or dropped (R281, R282). -/
def State.releaseHeld (s : State) (slot : Nat) (perform : Bool) : State :=
  let hs := s.held.filter (fun e => e.slot = slot)
  let s := { s with held := s.held.filter (fun e => e.slot ≠ slot) }
  if !perform then s
  else hs.foldl (fun s e => if e.barrier then s.arriveN e.ctx e.ident e.amount else s.signalAdd e.ctx e.ident e.amount) s

/-- A decided epoch applied to this package's part of the slot; a token of another package's home is acknowledged (R282, R283). -/
def State.applyEpoch (s : State) (slot : Nat) : State :=
  let q := s.seq slot
  match q.action with
  | none => s
  | some (commit, j) =>
    let c := if commit then q.c + j else q.c
    let s := s.modSeq slot (fun q => { q with c := c, a := c, epoch := 0, tokenHeld := false })
    let s := s.releaseHeld slot commit
    let s := s.closeWindows (fun w => w.ctx = q.ctx && w.tag = q.epoch) .cancelled
    let s := match s.runningWork slot with
      | some (n, _) => s.modWork n (fun w => { w with j := if commit then j else 0 })
      | none => s
    let s := s.trimRuns slot
    if q.tokenHeld then s.send (.tokenAck q.epoch) else s

/-- The verifying item of a step: its status and result. -/
def Work.verdict (w : Work) : Option (Status × Nat) :=
  (w.items.find? (fun i => i.tile = w.verify)).bind (fun i => match i.st with
    | .ended st r => some (st, r)
    | _ => none)

/-- The status of the first work item that did not end ST_OK, in ascending tile order (R295). -/
def Work.failure (w : Work) : Option Status :=
  w.items.findSome? (fun i => match i.st with
    | .ended st _ => if st = .ok then none else some st
    | _ => none)

/-- EPOCH_RESOLVE: a failed item cancels, the verifying item's result commits, a result beyond the drafts cancels with
ST_BAD_COMMAND (R282, R283, R307). -/
def execEpochResolve (slot : BitVec 10) (s : State) : Host.Outcome State Fault Refusal :=
  let n := slot.toNat
  let q := s.seq n
  match s.runningWork n with
  | none => .next s
  | some (k, w) =>
    if q.epoch = 0 || q.action.isSome || w.epoch ≠ q.epoch then .next s
    else if w.failure.isSome || w.tokSt.isSome then .next (s.decideEpoch n false 0)
    else match w.verdict with
      | some (_, j) =>
        if j ≤ q.a - q.c then .next (s.decideEpoch n true j)
        else .next ((s.modWork k (fun w => { w with answer := some .badCommand })).decideEpoch n false 0)
      | none => .next s

/-- EPOCH_TOKEN: a token from the epoch's home. A package without the slot has no work items of the epoch and acknowledges at
once. -/
def execEpochToken (m : MgmtHdr) (ctx : Byte) (epoch : W16) (commit : Bool) (count : BitVec 7) (s : State) :
    Host.Outcome State Fault Refusal :=
  let c := ctx.toNat
  let e := epoch.toNat
  if !s.mgmtOk m false then .next (s.mgmtDrop m)
  else if e = 0 then .next s
  else match s.seqs.find? (fun x => x.2.state != 0 && x.2.ctx = c && x.2.epoch = e) with
    | some (n, q) =>
      if q.action.isSome then .next s
      else .next ((s.modSeq n (fun q => { q with action := some (commit, count.toNat), tokenAt := s.clk.now, tokenHeld := true })).onToken c e
        commit)
    | none =>
      .next (((s.onToken c e commit).closeWindows (fun w => w.ctx = c && w.tag = e) .cancelled).send (.tokenAck e))

/-- EPOCH_TOKEN_APPLY: every work item of the epoch has ended. -/
def execEpochTokenApply (slot : BitVec 10) (s : State) : Host.Outcome State Fault Refusal :=
  let n := slot.toNat
  let q := s.seq n
  if q.epoch = 0 || q.action.isNone || s.works.any (fun e => e.2.ctx = q.ctx && e.2.epoch = q.epoch && !e.2.ended) then .next s
  else .next (s.applyEpoch n)

/-- EPOCH_TOKEN_ACKNOWLEDGEMENT (R283). -/
def execEpochTokenAcknowledgement (m : MgmtHdr) (slot : BitVec 10) (s : State) : Host.Outcome State Fault Refusal :=
  if !s.mgmtOk m false then .next (s.mgmtDrop m)
  else .next (s.modSeq slot.toNat (fun q => { q with acks := q.acks.filter (fun n => n ≠ m.node.toNat) }))

/-- EPOCH_ACK_TIMEOUT: 10 ms without an acknowledgement end the step with ST_TIMEOUT and fail the slot (R283). -/
def execEpochAckTimeout (slot : BitVec 10) (s : State) : Host.Outcome State Fault Refusal :=
  let n := slot.toNat
  let q := s.seq n
  if q.acks.isEmpty || decide (s.clk.now < q.tokenAt + 10000000) then .next s
  else
    let s := s.modSeq n (fun q => { q with acks := [], state := 5 })
    match s.runningWork n with
    | some (k, _) => .next (s.modWork k (fun w => { w with answer := some .timeout }))
    | none => .next s

/-! ### Prefixes (R274, R275) -/

/-- One layer of a slot saved: whole runs shared, the last partial run copied with later positions 0. -/
def State.saveLayer (s : State) (slot len : Nat) (rs : NMap Run) (a : Attn) : Option (NMap Run × State) :=
  let q := s.seq slot
  let whole := (List.range (len / 40)).map (runKey a.layer)
  let share := fun (m : NMap Run) => NMap.mapv m (fun k r => if whole.contains k then { r with shared := true } else r)
  let s := s.modSeq slot (fun q => { q with runs := share q.runs })
  let rs := whole.foldl (fun rs k => match NMap.get? q.runs k with
    | some r => NMap.put rs k { r with shared := true }
    | none => rs) rs
  if len % 40 = 0 then some (rs, s)
  else
    let k := runKey a.layer (len / 40)
    match (NMap.get? q.runs k).bind (·.pa), s.partOfSeq q with
    | some pa, some part =>
      (s.freeKvPage part a.page).map (fun b =>
        let key := s.keyOf q.ctx
        let s := (s.hbmWrite b (List.replicate a.page 0) key false).copyRun pa b key a (fun p => decide (p < len % 40))
        (NMap.put rs k { pa := some b, shared := true, swap := 0, bad := false }, s))
    | _, _ => some (rs, s)

/-- A prefix saved from a slot (R274). -/
def State.savePrefix (s : State) (slot len handle : Nat) : Except Status State :=
  let q := s.seq slot
  if q.c < len || handle = 0 || s.prefixes.any (fun p => p.ctx = q.ctx && p.handle = handle) then .error .rejected
  else if 4096 ≤ s.prefixes.length then .error .noResource
  else
    let part := (s.partOfSeq q).getD 0
    let ls := s.layersOf q
    let need := if len % 40 = 0 then 0 else (ls.map Attn.page).sum
    let s' := s.evictFor part need s.prefixes.length
    if s'.kvFree part < need then .error .noResource
    else match ls.foldlM (fun (r : NMap Run × State) a => r.2.saveLayer slot len r.1 a) ([], s') with
      | none => .error .noResource
      | some (rs, s) =>
        let p : Prefix := { ctx := q.ctx, handle := handle, len := len, model := q.model, used := s.clk.now, runs := rs }
        .ok { (s.invalidateKv q.ctx slot) with prefixes := s.prefixes ++ [p] }

/-! ### The commands of a slot in their order (R295, R302, R308) -/

/-- Whether a slot of a partition waits to be pre-empted: the first steps of newly opened slots wait for it (R306). -/
def State.victimIn (s : State) (part : Option Nat) : Bool := s.seqs.any (fun e => e.2.victim && s.partOfSeq e.2 = part)

/-- A step begun: a advances, runs are allocated, an epoch opens if it carries drafts, its work items are issued (R272, R280,
R307). -/
def State.beginStep (s : State) (n : Nat) (w : Work) : State :=
  let q := s.seq w.slot
  let new := q.a + w.pos
  if q.maxLen < new || (w.drafts ≠ 0 && q.epoch ≠ 0) then s.answerWork n .rejected 0 0
  else match (if q.fresh then s.copyPartial w.slot else some s) with
    | none => s.answerWork n .noResource 0 0
    | some s1 =>
      match (if w.drafts = 0 then some (0, s1) else s1.genDraw q.ctx) with
      | none => s.answerWork n .noResource 0 0
      | some (e, s2) =>
        match (s2.modSeq w.slot (fun q => { q with fresh := false })).growTo w.slot new with
        | none => s.answerWork n .noResource 0 0
        | some s3 =>
          let s4 := s3.modSeq w.slot (fun q =>
            { q with a := new, state := if w.drafts = 0 then 2 else 3, epoch := e, action := none, acks := [] })
          s4.modWork n (fun w =>
            { w with
              started := true
              epoch := e
              aOld := q.a
              aNew := new
              answer := none
              items := w.items.map (fun i =>
                { i with st := .ready, args := i.args.set 4 (q.a * 2 ^ 32 + new) |>.set 5 e }) })

/-- The next command of a slot begun or done, on fuel; it waits behind one that runs, and steps wait while the slot is
pre-empted. -/
def State.advanceSlot (slot : Nat) : Nat → State → State
  | 0, s => s
  | k + 1, s =>
    if (s.runningWork slot).isSome || s.ctxInReset (s.seq slot).ctx then s
    else match s.works.find? (fun e => e.2.slot = slot && e.2.kind ≠ .cancel) with
      | none => s
      | some (n, w) =>
        if s.slotFor w.ctx w.handle ≠ some slot then State.advanceSlot slot k (s.answerWork n .rejected 0 0)
        else
          let q := s.seq slot
          match w.kind with
          | .close => State.advanceSlot slot k ((s.freeSlot slot).answerWork n .ok 0 0)
          | .save =>
            if q.state = 5 || q.state = 6 then State.advanceSlot slot k (s.answerWork n .rejected 0 0)
            else if q.state = 4 || q.victim then s
            else match s.savePrefix slot w.pos w.drafts with
              | .ok s => State.advanceSlot slot k (s.answerWork n .ok 0 0)
              | .error st => State.advanceSlot slot k (s.answerWork n st 0 0)
          | _ =>
            if q.state = 5 then State.advanceSlot slot k (s.answerWork n .rejected 0 0)
            else if q.state = 6 then State.advanceSlot slot k (s.answerWork n .poisoned 0 0)
            else if q.state = 4 || q.victim || (q.fresh && s.victimIn (s.partOfSeq q)) then s
            else State.advanceSlot slot k (s.beginStep n w)

/-- The waiting commands of every slot; a freed victim may release the first step of another slot, hence twice. -/
def State.advanceAll (s : State) : State :=
  let slots := ((s.works.filter (fun e => decide (e.2.slot < 1024))).map (fun e => e.2.slot)).foldl insertNat []
  (slots ++ slots).foldl (fun s n => s.advanceSlot n (s.works.length + 1)) s

/-! ### SEQ_OPEN (R304 to R306) -/

/-- The slots that may be pre-empted for an opener of a class: the lowest class, and in it the most recently opened (R277). -/
def State.nextVictim (s : State) (part cls : Nat) : Option Nat :=
  let cand := s.seqs.filter (fun e => (e.2.state = 1 || e.2.state = 2 || e.2.state = 3) && !e.2.victim && decide (e.2.cls < cls) &&
    s.partOfSeq e.2 = some part && (s.swapDest e.2).isSome)
  (cand.foldl (fun (b : Option (Nat × Seq)) e => match b with
    | none => some e
    | some x => if e.2.cls < x.2.cls || (e.2.cls = x.2.cls && x.2.opened < e.2.opened) then some e else b) none).map (·.1)

/-- Slots chosen for pre-emption until a reservation fits, on fuel. -/
def State.preemptFor (s : State) (part cls need : Nat) : Nat → Option State
  | 0 => if need ≤ s.kvFree part then some s else none
  | n + 1 =>
    if need ≤ s.kvFree part then some s
    else match s.nextVictim part cls with
      | none => none
      | some v => (s.modSeq v (fun q => { q with victim := true })).preemptFor part cls need n

/-- The slot as SEQ_OPEN leaves it, with the runs of its prefix (R275, R303, R304). -/
def Seq.open_ (q : Seq) (c m v : Nat) (ads : List Nat) (cls target maxLen len opened : Nat) (rs : NMap Run) : Seq :=
  { Seq.free with
    state := 1
    serial := if q.serial + 1 < 65536 then q.serial + 1 else 1
    ctx := c, model := m, variant := v, ads := ads, cls := cls, target := target, maxLen := maxLen
    c := len, a := len, opened := opened, inh := len / 40, fresh := true, runs := rs }

/-- The conditions of rule 3 of R306, and a prefix that the slot cannot hold. -/
def State.openRejected (s : State) (c m v : Nat) (ads : List Nat) (target : Nat) (adm : Admission) (q : Seq)
    (p : Option Prefix) : Bool :=
  let x := s.ctx? c
  !s.modelFor c m || (v ≠ 0 && !((x.map (·.variants)).getD []).any (fun e => e.1 = m && e.2.1 = v)) ||
  ads.any (fun i => !((x.map (·.adapters)).getD []).any (fun e => e.model = m && e.id = i)) || q.maxLen = 0 ||
  (s.layersOf q).any (fun a => decide (40 * (2 ^ 31 / a.runBytes) < q.maxLen)) ||
  decide (s.kvPool ((x.map (·.part)).getD 0) < s.reservation q) ||
  (target ≠ 0 && decide (target < adm.aloneUs)) ||
  (p.map (fun p => p.model ≠ m || decide (q.maxLen < p.len))).getD false

/-- SEQ_OPEN. -/
def execSeqOpen (h : Pkt) (model variant : W16) (maxLen : W32) (cls nAds : Byte) (ads : List W16) (target : W32) (pfx : W64)
    (adm : Admission) (s : State) : Host.Outcome State Fault Refusal :=
  let ok := decide (cls.toNat < 4) && decide (nAds.toNat ≤ 4) && decide (nAds.toNat ≤ ads.length)
  .next (s.host h false false ok (fun c s =>
    let part := ((s.ctx? c).map (·.part)).getD 0
    if s.partInReset part || s.ctxInReset c then s.replyS h .targetReset
    else match (List.range 1024).find? (fun n => (s.seq n).state = 0) with
      | none => s.replyS h .noResource
      | some n =>
        let p := s.prefixes.find? (fun p => p.ctx = c && decide (p.handle = pfx.toNat))
        if pfx ≠ 0 && p.isNone then s.replyS h .prefixGone
        else
          let p := if pfx = 0 then none else p
          let as := (ads.take nAds.toNat).map (fun (a : W16) => a.toNat)
          let q := (s.seq n).open_ c model.toNat variant.toNat as cls.toNat target.toNat maxLen.toNat
            ((p.map (·.len)).getD 0) s.openSeq ((p.map (·.runs)).getD [])
          if s.openRejected c model.toNat variant.toNat as target.toNat adm q p then s.replyS h .rejected
          else
            let need := s.reservation q
            let touch := fun (x : Prefix) =>
              if pfx ≠ 0 && x.ctx = c && decide (x.handle = pfx.toNat) then { x with used := s.clk.now } else x
            let s0 := s.modSeq n (fun _ => { q with maxLen := 40 * q.inh })
            let s1 := { s0 with openSeq := s.openSeq + 1, prefixes := s.prefixes.map touch }
            let s2 := s1.evictFor part need s1.prefixes.length
            match (if adm.feasible then s2.preemptFor part cls.toNat need s2.seqs.length else none) with
            | none => s.reply h .deferred 0 adm.hint.toNat
            | some s3 =>
              match (s3.modSeq n (fun _ => { q with reserved := need })).mapStores c model.toNat with
              | none => s.replyS h .noResource
              | some s4 =>
                let s5 := if s4.victimIn (some part) then s4 else
                  ((s4.copyPartial n).map (fun (s : State) => s.modSeq n (fun q => { q with fresh := false }))).getD s4
                s5.reply h .ok (q.handle n) need))

/-! ### SEQ_STEP, SEQ_QUERY (R302, R307) -/

/-- SEQ_STEP. A step whose token identifiers cannot be reached yet is not taken (R191, R314). -/
def execSeqStep (h : Pkt) (handle : W32) (posM1 drafts : BitVec 6) (tokVa outVa argVa : W64) (plan : List Byte) (ext : Ext)
    (s0 : State) : Host.Outcome State Fault Refusal :=
  let pos := posM1.toNat + 1
  .next (s0.host h false true (decide (drafts.toNat < pos)) (fun c s =>
    let part := ((s.ctx? c).map (·.part)).getD 0
    if s.partInReset part || s.ctxInReset c then s.replyS h .targetReset
    else match s.slotFor c handle.toNat with
      | none => s.replyS h .rejected
      | some n =>
        let q := s.seq n
        let verify := ((NMap.get? s.models q.model).map (·.verify)).getD 0
        let ts := s.planTiles part plan verify (drafts.toNat ≠ 0)
        match s.tilesRefuse ts with
        | some st => s.replyS h st
        | none =>
          if q.state = 5 then s.replyS h .rejected
          else if q.state = 6 then s.replyS h .poisoned
          else if s.streamBusy h c n ts then s.replyS h .streamBusy
          else if s.stewardWaits c tokVa.toNat (8 * pos) then s0
          else State.orStatus h (s.stewardRead c tokVa.toNat (8 * pos) ext) (fun bs s =>
            let w := { Work.base h .step c n with
              items := itemsFor ts 0 [handle.toNat, tokVa.toNat, outVa.toNat, argVa.toNat, 0, 0, 0, 0]
              handle := handle.toNat
              pos := pos
              drafts := drafts.toNat
              model := q.model
              verify := verify
              cls := q.cls
              rngSave := s.saveRng c h.streamClaim ts
              toks := (List.range pos).map (fun i => leAt bs (8 * i) 8) }
            (s.addWork w).advanceAll)))

/-- SEQ_QUERY: a failed slot refuses it (R302). -/
def execSeqQuery (h : Pkt) (handle : W32) (s : State) : Host.Outcome State Fault Refusal :=
  .next (s.host h false false true (fun c s =>
    match s.slotFor c handle.toNat with
    | none => s.replyS h .rejected
    | some n =>
      let q := s.seq n
      if q.state = 5 then s.replyS h .rejected
      else s.reply h .ok (q.state + q.cls * 256) (q.c + q.a * 2 ^ 32)))

/-! ### SEQ_CANCEL, SEQ_CLOSE, prefixes (R308, R309) -/

/-- SEQ_CANCEL with scope 0: its reply follows that of the step it cancels. -/
def execSeqCancelEpoch (h : Pkt) (handle : W32) (s : State) : Host.Outcome State Fault Refusal :=
  .next (s.host h false false true (fun c s =>
    match s.slotFor c handle.toNat with
    | none => s.replyS h .rejected
    | some n =>
      let q := s.seq n
      if q.epoch = 0 || q.action.isSome then s.replyS h .ok
      else (s.decideEpoch n false 0).addWork { Work.base h .cancel c n with handle := handle.toNat, pos := 0 }))

/-- Queued steps of a slot answered ST_CANCELLED. -/
def State.cancelQueued (s : State) (slot : Nat) : State :=
  (NMap.keysOf s.works (fun _ w => w.slot = slot && w.kind = .step && !w.started)).foldl (fun s n =>
    s.answerWork n .cancelled 0 0) s

/-- SEQ_CANCEL with scope 1. -/
def execSeqCancelSequence (h : Pkt) (handle : W32) (s : State) : Host.Outcome State Fault Refusal :=
  .next (s.host h false false true (fun c s =>
    match s.slotFor c handle.toNat with
    | none => s.replyS h .rejected
    | some n =>
      let s := (s.decideEpoch n false 0).cancelQueued n
      match s.runningWork n with
      | some (k, _) =>
        (s.cancelWork k).addWork { Work.base h .cancel c n with handle := handle.toNat, pos := 1 }
      | none => ((s.freeSlot n).replyS h .ok).advanceAll))

/-- SEQ_CLOSE: it waits for the steps taken before it. -/
def execSeqClose (h : Pkt) (handle : W32) (s : State) : Host.Outcome State Fault Refusal :=
  .next (s.host h false false true (fun c s =>
    match s.slotFor c handle.toNat with
    | none => s.replyS h .rejected
    | some n => (s.addWork { Work.base h .close c n with handle := handle.toNat }).advanceAll))

/-- PREFIX_SAVE: it runs after the slot's earlier commands. -/
def execPrefixSave (h : Pkt) (handle len : W32) (pfx : W64) (s : State) : Host.Outcome State Fault Refusal :=
  .next (s.host h false false true (fun c s =>
    match s.slotFor c handle.toNat with
    | none => s.replyS h .rejected
    | some n =>
      (s.addWork { Work.base h .save c n with handle := handle.toNat, pos := len.toNat, drafts := pfx.toNat }).advanceAll))

/-- PREFIX_REMOVE. -/
def execPrefixRemove (h : Pkt) (pfx : W64) (s : State) : Host.Outcome State Fault Refusal :=
  .next (s.host h false false true (fun c s =>
    let hit := fun (p : Prefix) => p.ctx = c && decide (p.handle = pfx.toNat)
    if pfx = 0 || !s.prefixes.any hit then s.replyS h .prefixGone
    else { s with prefixes := s.prefixes.filter (fun p => !hit p) }.replyS h .ok))

/-! ### Pre-emption (R277 to R279) -/

/-- The private runs of a slot copied out one after another from a place on. -/
def State.swapRuns (s : State) (slot dst : Nat) : State :=
  let q := s.seq slot
  (q.private_.foldl (fun (r : Nat × State) e =>
    match e.2.pa with
    | none => r
    | some pa =>
      let len := r.2.runLen q.model (e.1 / 2 ^ 26)
      let s := r.2.swapTo q.ctx pa r.1 len (r.2.keyOf q.ctx)
      let step := match s.zone r.1 with
        | .host _ => (len + 4095) / 4096 * 4112
        | _ => (len + 4095) / 4096 * 4096
      (r.1 + step, s.modSeq slot (fun q => { q with runs := NMap.put q.runs e.1 { pa := none, shared := false, swap := r.1, bad := false } })))
    (dst, s)).2

/-- SLOT_PREEMPT: between steps, the runs of a chosen slot leave the pool (R278). If no destination is left, the slot is not
pre-empted. -/
def execSlotPreempt (slot : BitVec 10) (s : State) : Host.Outcome State Fault Refusal :=
  let n := slot.toNat
  let q := s.seq n
  if !q.victim || (s.runningWork n).isSome then .next s
  else match s.swapDest q with
    | none => .next ((s.modSeq n (fun q => { q with victim := false })).advanceAll)
    | some dst =>
      let s := (s.swapRuns n dst).invalidateKv q.ctx n
      let s := s.modSeq n (fun q =>
        { q with state := if q.state = 1 then 4 else q.state, victim := false, reserved := 0, preempted := s.openSeq })
      .next ({ s with openSeq := s.openSeq + 1 }.advanceAll)

/-- The pre-empted slot of a partition that comes first: highest class, then earliest pre-empted (R279). -/
def State.firstPreempted (s : State) (part : Option Nat) : Option Nat :=
  ((s.seqs.filter (fun e => e.2.state = 4 && s.partOfSeq e.2 = part)).foldl (fun (b : Option (Nat × Seq)) e => match b with
    | none => some e
    | some x => if x.2.cls < e.2.cls || (x.2.cls = e.2.cls && e.2.preempted < x.2.preempted) then some e else b) none).map (·.1)

/-- SLOT_RESUME: the reservation fits again, the runs come back, the held steps are released (R279, R444). -/
def execSlotResume (slot : BitVec 10) (tagsOk : Bool) (s : State) : Host.Outcome State Fault Refusal :=
  let n := slot.toNat
  let q := s.seq n
  let part := s.partOfSeq q
  if q.state ≠ 4 || s.firstPreempted part ≠ some n || s.victimIn part then .next s
  else if s.kvFree (part.getD 0) < s.owed q then .next s
  else
    let ks := NMap.keysOf q.runs (fun _ r => r.pa.isNone)
    match ks.foldlM (fun (s : State) k => s.runIn n k (fun _ => !tagsOk)) s with
    | none => .next s
    | some s => .next ((s.modSeq n (fun q => { q with state := 1, reserved := s.reservation q })).advanceAll)

end Sys2Proof.Machine
end

