-- ==== Sys2Proof/Machine/Serving.lean ====
section
/-! DEFINITION. Work (08, 14): frames (R310, R311), KERNEL_LAUNCH (R301), the start of an invocation (R143), the end of a
work command (R272, R295, R301), its re-run (R415). -/

namespace Sys2Proof.Machine

/-! ### Frames (R310, R311) -/

/-- FRAME_SUBMIT. -/
def execFrameSubmit (h : Pkt) (model : W16) (cls : Byte) (runLate : Bool) (frame : W32)
    (deadline inVa outVa argVa predicted : W64) (plan : List Byte) (s : State) : Host.Outcome State Fault Refusal :=
  .next (s.host h false true (decide (cls.toNat < 4)) (fun c s =>
    let part := ((s.ctx? c).map (·.part)).getD 0
    let m := model.toNat
    let verify := ((NMap.get? s.models m).map (·.verify)).getD 0
    let ts := s.planTiles part plan verify false
    if s.partInReset part || s.ctxInReset c then s.replyS h .targetReset
    else match s.tilesRefuse ts with
      | some st => s.replyS h st
      | none =>
        if !s.modelFor c m || (!runLate && (decide (deadline.toNat < s.clk.now) || decide (deadline.toNat < predicted.toNat))) then
          s.replyS h .rejected
        else if 256 ≤ (s.works.filter (fun e => e.2.ctx = c && e.2.kind = .frame)).length then s.replyS h .noResource
        else if s.streamBusy h c 1024 ts then s.replyS h .streamBusy
        else match s.mapStores c m with
          | none => s.replyS h .noResource
          | some s =>
            s.addWork { Work.base h .frame c 1024 with
              items := itemsFor ts 0 [frame.toNat, inVa.toNat, outVa.toNat, argVa.toNat, 0, 0, 0, 0]
              model := m
              verify := verify
              frame := frame.toNat
              deadline := deadline.toNat
              runLate := runLate
              cls := cls.toNat
              rngSave := s.saveRng c h.streamClaim ts }))

/-- Whether a waiting frame is the next of its context and model: ascending deadlines, then the order of the takes. -/
def State.frameFirst (s : State) (n : Nat) (w : Work) : Bool :=
  s.works.all (fun e => !(e.2.kind = .frame && !e.2.started && e.2.ctx = w.ctx && e.2.model = w.model &&
    (decide (e.2.deadline < w.deadline) || (e.2.deadline = w.deadline && decide (e.1 < n)))))

/-- FRAME_START. -/
def execFrameStart (work : Nat) (s : State) : Host.Outcome State Fault Refusal :=
  match NMap.get? s.works work with
  | some w =>
    if w.kind = .frame && !w.started && s.frameFirst work w then .next (s.modWork work (fun w => { w with started := true }))
    else .next s
  | none => .next s

/-- FRAME_DEADLINE: the deadline of a running frame has passed. -/
def execFrameDeadline (work : Nat) (s : State) : Host.Outcome State Fault Refusal :=
  match NMap.get? s.works work with
  | some w =>
    if w.kind ≠ .frame || !w.started || s.clk.now < w.deadline then .next s
    else if w.runLate then .next (s.modWork work (fun w => { w with late := true }))
    else .next ((s.modWork work (fun w => { w with answer := some (w.answer.getD .timeout) })).cancelWork work)
  | none => .next s

/-- FRAME_CANCEL: the earliest taken frame with the number (R311). -/
def execFrameCancel (h : Pkt) (frame : W32) (s : State) : Host.Outcome State Fault Refusal :=
  .next (s.host h false false true (fun c s =>
    match s.works.find? (fun e => e.2.kind = .frame && e.2.ctx = c && decide (e.2.frame = frame.toNat) && e.2.answer.isNone) with
    | none => s.replyS h .rejected
    | some (n, w) =>
      if w.started then
        ((s.modWork n (fun w => { w with answer := some .cancelled })).cancelWork n).replyS h .ok
      else (s.answerWork n .cancelled 0 0).replyS h .ok))

/-! ### KERNEL_LAUNCH (R301) -/

/-- The tiles of a glen mask and a tile mask. -/
def maskTiles (glens tiles : Nat) : List Nat := (List.range 256).filter (fun t => bit glens (t / 16) && bit tiles (t % 16))

/-- KERNEL_LAUNCH. A launch whose arguments cannot be reached yet is not taken (R191, R314). -/
def execKernelLaunch (h : Pkt) (glens tiles : W16) (entry : W32) (argsVa resVa : W64) (ext : Ext) (s0 : State) :
    Host.Outcome State Fault Refusal :=
  let ts := maskTiles glens.toNat tiles.toNat
  .next (s0.host h false true (decide (entry.toNat < 0x20000) && entry.toNat % 4 = 0) (fun c s =>
    let part := ((s.ctx? c).map (·.part)).getD 0
    if s.partInReset part || s.ctxInReset c then s.replyS h .targetReset
    else match s.tilesRefuse ts with
      | some st => s.replyS h st
      | none =>
        if (List.range 16).any (fun g => bit glens.toNat g && s.partOfGlen g ≠ some part) then s.replyS h .permission
        else if s.streamBusy h c 1024 ts then s.replyS h .streamBusy
        else if s.stewardWaits c argsVa.toNat 64 then s0
        else State.orStatus h (s.stewardRead c argsVa.toNat 64 ext) (fun bs s =>
          if ts.isEmpty then s.replyS h .ok
          else s.addWork { Work.base h .launch c 1024 with
            items := itemsFor ts entry.toNat ((List.range 8).map (fun i => leAt bs (8 * i) 8))
            started := true
            resVa := resVa.toNat
            rngSave := s.saveRng c h.streamClaim ts })))

/-! ### WORK_ITEM_START (R143, R172, R245, R270, R305) -/

/-- The kernel image of a work item: the one its context has loaded, else that of its model, else the first of a model in the
context's partition (R299, R301). -/
def State.imageFor (s : State) (w : Work) : List Byte :=
  match s.ctx? w.ctx with
  | none => []
  | some x =>
    if !x.image.isEmpty then x.image
    else match NMap.get? s.models w.model with
      | some m => m.kernel
      | none => ((s.models.find? (fun e => e.2.part = x.part && !e.2.kernel.isEmpty)).map (fun e => e.2.kernel)).getD []

/-- A tile bound to another context: instruction store zero, tables, chain store, look-up slots and accumulators reset,
scratchpad zeroised but for resident blocks; random streams and tickets go on (R143, R193). -/
def Tile.bind (x : Tile) (c sticky : Nat) : Tile :=
  { x with
    ctx := some c
    core := { Core.reset with sticky := sticky }
    act := []
    drain := []
    vdesc := []
    chain := []
    patch := []
    sparse := []
    accA := []
    accB := []
    checks := []
    ftq := []
    luts := [] }.zeroise false

/-- The binding of a tile to a context; the sticky status of the context it leaves stays with that context (R136). -/
def State.bindTile (s : State) (t c : Nat) : State :=
  let x := s.tile t
  if x.ctx = some c then s
  else
    let s := match x.ctx with
      | some o => s.modCtx o (fun y => { y with sticky := NMap.set 0 y.sticky t x.core.sticky })
      | none => s
    let old := ((s.ctx? c).map (fun y => NMap.get 0 y.sticky t)).getD 0
    let s := s.modCtx c (fun y => { y with sticky := NMap.del y.sticky t, tiles := insertNat y.tiles t })
    s.modTile t (fun x => x.bind c old)

/-- The kernel image in the instruction store (R172). -/
def Core.loadImage (k : Core) (img : List Byte) : Core :=
  let st := Bytes.wr [] 0 img
  if k.istore = st then k else { k with istore := st, ipoison := [], ilatent := [] }

/-- The core at the start of an invocation (R143). -/
def Core.invoke (k : Core) (n : Nat) (w : Work) (i : WItem) (frozen : Bool) : Core :=
  Core.bindItem { k with
    run := .running
    frozen := frozen
    pc := i.entry
    g := i.args.zipIdx.foldl (fun g e => NMap.set 0 g (e.2 + 1) (e.1 % 2 ^ 64)) []
    f := []
    p := 1
    pend := []
    ckpts := []
    prov := []
    flow := []
    poisonSeen := false
    commits := 0 } n w

/-- Whether a tile can run the items of commands already taken: it is on, or its glen is being drained (R314). -/
def State.tileRuns (s : State) (t : Nat) : Bool :=
  !s.tileOff t || (!(s.quad (quadOf t)).off && !s.glenFailed (glenOf t) && (s.partOf t).isSome &&
    s.disabling.any (fun d => d.kind = 0 && d.index = glenOf t && !d.abort))

/-- WORK_ITEM_START: an idle tile takes the ready item of a started command. -/
def execWorkItemStart (work : Nat) (tile : Byte) (s : State) : Host.Outcome State Fault Refusal :=
  let t := tile.toNat
  match NMap.get? s.works work with
  | none => .next s
  | some w =>
    match w.items.find? (fun i => i.tile = t && i.st = .ready), s.ctx? w.ctx with
    | some i, some x =>
      let y := s.tile t
      if !w.started || y.core.run ≠ .idle || !y.quiet || y.inReset || !s.tileRuns t || s.ctxInReset w.ctx ||
          (s.quad (quadOf t)).scrubPass || x.suspended || s.earlierWaits t w then
        .next s
      else
        let s := s.bindTile t w.ctx
        let s := s.modCore t (fun k => (k.loadImage (s.imageFor w)).invoke work w i false)
        let s := s.modWork work (fun w => { w with items := w.items.map (fun j => if j = i then { j with st := .running } else j) })
        .next (if s.traced t then s.traceSync t else s)
    | _, _ => .next s

/-! ### WORK_COMMAND_COMPLETE (R272, R295, R301, R311) -/

/-- The status a work command ends with: that of a token of its that COMBINE could not form (R262), of its first failed item, or of
its epoch. -/
def State.workStatus (s : State) (w : Work) : Status :=
  let cancelled := match (s.seq w.slot).action with
    | some (false, _) => decide (w.epoch ≠ 0)
    | _ => false
  match w.answer with
  | some st => st
  | none => w.tokSt.getD (w.failure.getD (if cancelled then .cancelled else .ok))

/-- Whether a command that failed with ST_POISONED is to be re-run (R415). -/
def State.rerunDue (s : State) (w : Work) : Bool :=
  s.workStatus w = .poisoned && (w.kind = .step || w.kind = .frame) && !w.dirty && !w.rerun &&
  (w.kind ≠ .frame || w.runLate || decide (s.clk.now < w.deadline)) &&
  !(s.works.any (fun e => e.2.kind = .cancel && e.2.slot = w.slot))

/-- Whether every work item has ended and the epoch of the command, if it opened one, is applied and acknowledged (R283). -/
def State.workOver (s : State) (w : Work) : Bool :=
  w.started && w.ended &&
  (w.epoch = 0 || ((s.seq w.slot).epoch ≠ w.epoch && (s.seq w.slot).acks.isEmpty))

/-- The slot after a step: without an epoch a success commits, anything else sets a back (R272, R302). -/
def State.endStep (s : State) (w : Work) (st : Status) : State :=
  s.modSeq w.slot (fun q =>
    let q := if w.epoch ≠ 0 then q else if st = .ok then { q with c := q.a } else { q with a := q.c }
    { q with state := if q.state = 2 || q.state = 3 then 1 else q.state, action := none })

/-- The cancels of a slot that wait for its step: answered after it, the slot freed where their scope is the sequence (R308). -/
def State.endCancels (s : State) (slot : Nat) : State :=
  let cs := s.works.filter (fun e => e.2.slot = slot && e.2.kind = .cancel)
  let s := if cs.any (fun e => e.2.pos = 1) then s.freeSlot slot else s
  cs.foldl (fun s e => s.answerWork e.1 .ok 0 0) s

/-- The results of a launch written in ascending tile order (R301, R505). -/
def State.writeResults (s : State) (w : Work) : Answer Unit :=
  let rs := w.items.map (fun i => match i.st with | .ended _ r => r | _ => 0)
  s.stewardWrite w.ctx w.resVa (rs.flatMap (leBytes 8)) goodTags

/-- WORK_COMMAND_COMPLETE; a launch whose results cannot be written yet waits (R191, R314). -/
def execWorkCommandComplete (work : Nat) (s : State) : Host.Outcome State Fault Refusal :=
  match NMap.get? s.works work with
  | none => .next s
  | some w =>
    if !s.workOver w || s.rerunDue w then .next s
    else
      let st := s.workStatus w
      match w.kind with
      | .step =>
        let s := s.endStep w st
        let s := s.answerWork work st (s.seq w.slot).c w.j
        .next ((s.endCancels w.slot).advanceAll)
      | .frame => .next (s.answerWork work st 0 0)
      | .launch =>
        if s.stewardWaits w.ctx w.resVa (8 * w.items.length) then .next s
        else match s.writeResults w with
          | (.ok _, s) => .next (s.answerWork work st w.items.length 0)
          | (.error e, s) => .next (s.answerWork work e w.items.length 0)
      | _ => .next s

/-! ### REQUEST_RERUN (R415) -/

/-- Random stream counters set back to saved values. -/
def State.restoreRng (s : State) (sv : NMap Nat) : State := { s with rng := sv.foldl (fun m e => NMap.set 0 m e.1 e.2) s.rng }

/-- REQUEST_RERUN: the reloads are done; the command's streams go back, and it is released again in its order. -/
def execRequestRerun (work : Nat) (s : State) : Host.Outcome State Fault Refusal :=
  match NMap.get? s.works work with
  | none => .next s
  | some w =>
    if !s.workOver w || !s.rerunDue w || w.items.any (fun i => !(s.tile i.tile).reload.isEmpty) then .next s
    else
      let s := (if w.kind = .step then s.endStep w .poisoned else s).restoreRng w.rngSave
      let s := s.modWork work (fun w =>
        { w with started := false, rerun := true, epoch := 0, j := 0, answer := none, tokSt := none,
                 items := w.items.map (fun i => { i with st := .ready }) })
      let s := s.raise { type := 0x22, kind := 2, ctx := some w.ctx, unit := 7, index := 0, gen := 0,
                         detail := [(24, 4, w.h.cmdId.toNat), (28, 2, w.h.qp.toNat)] }
      .next s.advanceAll

end Sys2Proof.Machine
end

