-- ==== Sys2Proof/Machine/Scrub.lean ====
section
/-! DEFINITION. The remote port and the scrubber (09, R184 to R194), golden-copy reload (19, R410 to R412), patrol and the states
of an HBM stack (16, R332 to R335). -/

namespace Sys2Proof.Machine

/-! ### REMOTE_PORT_REQUEST (R185, R186, R406, R407) -/

/-- The answer of a remote port that refuses a request. -/
def State.portRefuses (s : State) (t off gen : Nat) (write : Bool) : Option Status :=
  let x := s.tile t
  if x.inReset || x.gen ≠ gen then some .targetReset
  else if s.tileOff t then some .targetOff
  else if !inSp off 64 then some .translationFault
  else if write && x.residentAt off 64 then some .permission
  else none

/-- REMOTE_PORT_REQUEST: one transfer of 64 B, aligned to 64 B. Under the scrub pass of its quad the port waits (R191). -/
def execRemotePortRequest (t : Byte) (write : Bool) (off : BitVec 25) (data : List Byte) (gen : Byte) (upsets : List Upset)
    (s : State) : Host.Outcome State Fault Refusal :=
  let t := t.toNat
  let a := off.toNat / 64 * 64
  match s.portRefuses t a gen.toNat write with
  | some st => .next { s with remote := some (st.code, [], false) }
  | none =>
    if (s.quad (quadOf t)).scrubPass then .next s
    else
      let s := (s.modTile t (fun x => x.strike upsets)).count (0x300000 + 64 * t + 48) 64
      if write then .next { s.spWrite t a (data.take 64) false with remote := some (Status.ok.code, [], false) }
      else
        let r := s.spRead t a 64
        .next { r.2.2 with remote := some (Status.ok.code, r.1, !r.2.1.isEmpty) }

/-! ### SCRUB_ACCESS (R172, R187, R189 to R191) -/

/-- Whether the active set turns scrubbing off on a tile (R190, R460). -/
def State.scrubOff (s : State) (t : Nat) : Bool :=
  match s.cfg.active with
  | some c => bit (NMap.get 0 c.modes t) 1
  | none => false

/-- Upsets strike words of the instruction store. -/
def Core.strike (c : Core) (us : List Upset) : Core :=
  us.foldl (fun c u =>
    let k := u.off / 8
    if u.off < 0x20000 && !c.ipoison.contains k then
      { c with ilatent := NMap.put c.ilatent k (u.double || (NMap.get? c.ilatent k).isSome) }
    else c) c

/-- The scrubber reads one word of the instruction store (R172, R187). -/
def State.scrubWord (s : State) (t k : Nat) : State :=
  match NMap.get? (s.tile t).core.ilatent k with
  | none => s
  | some d =>
    let s := s.modCore t (fun c => { c with ilatent := NMap.del c.ilatent k,
                                            ipoison := if d then insertNat c.ipoison k else c.ipoison })
    if d then s.raise (s.evTile t 0x02 1 [(24, 4, k * 8), (28, 1, 6)])
    else s.raise (s.evTile t 0x01 0 [(24, 4, 2 ^ 31 + k * 8)])

/-- The scrubber reads cells of the scratchpad (R189). -/
def State.scrubCells (s : State) (t : Nat) (cs : List Nat) : State :=
  s.afterRead t (cs.foldl CellRead.cell { tile := s.tile t, bad := [], fixed := [], fresh := [] }) true

/-- SCRUB_ACCESS: one row of 64 cells, or one word of the instruction store. -/
def execScrubAccess (t : Byte) (istore : Bool) (row : W16) (upsets : List Upset) (s : State) :
    Host.Outcome State Fault Refusal :=
  let t := t.toNat
  let r := row.toNat
  if (s.quad (quadOf t)).off || s.scrubOff t then .next s
  else if istore then
    let s := s.modCore t (fun c => c.strike upsets)
    .next (if r < 16384 then s.scrubWord t r else s)
  else
    let s := s.modTile t (fun x => x.strike upsets)
    .next (if r < 36864 then s.scrubCells t (List.range' (64 * r) 64) else s)

/-! ### Full passes (R191, R194) -/

/-- Every latent cell of a tile that a test picks, and no word of the instruction store, read by the scrubber. -/
def State.passCells (s : State) (t : Nat) (p : Nat → Bool) : State := s.scrubCells t (NMap.keysOf (s.tile t).latent (fun c _ => p c))

/-- Upsets of several tiles strike. -/
def State.strikeAll (s : State) (us : List (Nat × Upset)) : State :=
  us.foldl (fun s u => s.modTile u.1 (fun x => x.strike [u.2])) s

/-- The set point that a partition's governor starts from (R421, R422). -/
def State.startPoint (s : State) (part : Nat) : Nat := ((NMap.get? s.parts part).map (fun p => p.pol.vFixed)).getD 50

/-- QUAD_RETURN_SCRUB_PASS: the four tiles of a returned quad are read whole, then the quad is given to its governor (R191,
R419). -/
def execQuadReturnScrubPass (q : BitVec 6) (upsets : List (Nat × Upset)) (s : State) : Host.Outcome State Fault Refusal :=
  let q := q.toNat
  if !(s.quad q).scrubPass || (s.quad q).off then .next s
  else
    let s := s.strikeAll (upsets.filter (fun u => quadOf u.1 = q))
    let s := (List.range' (4 * q) 4).foldl (fun s t =>
      (NMap.keysOf (s.tile t).core.ilatent (fun _ _ => true)).foldl (fun s k => s.scrubWord t k) (s.passCells t (fun _ => true))) s
    let v := match s.partOfGlen (q / 4) with
      | some p => if s.partInReset p then (s.quad q).gov else s.startPoint p
      | none => (s.quad q).gov
    .next (s.modQuad q (fun x => { x with scrubPass := false, gov := v }))

/-! ### WEIGHT_RELOAD (R410 to R412) -/

/-- The golden copy of a resident block: its model, address and key. -/
def State.goldenOf (s : State) (t b : Nat) : Option (Nat × Nat × Nat) :=
  s.models.findSome? (fun e => (e.2.blocks.find? (fun k => k.1 = t && k.2.1 = b)).map (fun k => (e.1, k.2.2, e.2.key)))

/-- The record of a reload. -/
def State.reloaded (s : State) (t b m : Nat) (st : Status) : State :=
  s.raise { s.evTile t 0x21 2 [(24, 2, m), (26, 1, t), (28, 2, b), (30, 1, st.code)] with ctx := none }

/-- Whether reloads of a tile wait: its quad is off or has not completed its scrub pass (R191), or a partition reset is under way,
which reloads only where retention was lost (R410, R418). -/
def State.reloadWaits (s : State) (t : Nat) : Bool :=
  s.tileOff t || (s.quad (quadOf t)).scrubPass || ((s.tile t).inReset && !(s.quad (quadOf t)).retLost)

/-- WEIGHT_RELOAD: the golden copy is read and written into the block; if it cannot be read, the block stays poisoned. -/
def execWeightReload (t : Byte) (block : BitVec 10) (s : State) : Host.Outcome State Fault Refusal :=
  let t := t.toNat
  let b := block.toNat
  let x := s.tile t
  if !x.reload.contains b || s.reloadWaits t then .next s
  else match s.goldenOf t b with
    | none => .next s
    | some (m, pa, key) =>
      let r := s.hbmRead pa 32768 key
      let s := r.st.modTile t (fun x => { x with reload := x.reload.erase b })
      if r.bad then .next ((s.modTile t (fun x => { x with lostGold := insertNat x.lostGold b })).reloaded t b m .poisoned)
      else .next ((s.spWrite t (b * 32768) r.bytes false).reloaded t b m .ok)

/-! ### HBM stacks (R332 to R335, R400) -/

/-- The patrol of a stack past a unit: at the unit it waits for it goes on to the next, and after the last a pass has completed (R333,
R335). -/
def Stack.patrolled (x : Stack) (unit : Nat) : Stack :=
  if unit ≠ x.patrolAt then x
  else if unit + 1 = stackSize / 64 then { x with patrolAt := 0, patrolDone := true }
  else { x with patrolAt := unit + 1 }

/-- HBM_PATROL: one unit of a pseudo-channel of a stack read (R328, R333). -/
def execHbmPatrol (k : BitVec 4) (channel : BitVec 5) (unit : BitVec 24) (upsets : List Upset) (s : State) :
    Host.Outcome State Fault Refusal :=
  let k := k.toNat
  let u := channelUnit channel.toNat unit.toNat
  if decide (stackSize / 64 ≤ u) || !(s.stack k).available then .next s
  else
    let s := ((s.strikeHbm upsets).hbmUnit ((hbmBase + k * stackSize) / 64 + u) true).2
    .next (s.modStack k (fun x => x.patrolled u))

/-- A stack made unavailable by its interface (R334). -/
def State.stackDown (s : State) (k : Nat) : State :=
  if !(s.stack k).available then s
  else (s.modStack k (fun x => { x with available := false })).raise (evUnit 3 k 0x06 1 [(24, 1, 1)])

/-- HBM_STACK_UNAVAILABLE (R334). -/
def execHbmStackUnavailable (k : BitVec 4) (s : State) : Host.Outcome State Fault Refusal := .next (s.stackDown k.toNat)

/-- HBM_DOUBLED_REFRESH: the stack's temperature, and doubled refresh above 95 °C (R329, R335). -/
def execHbmDoubledRefresh (k : BitVec 4) (temp : Byte) (s : State) : Host.Outcome State Fault Refusal :=
  .next (s.modStack k.toNat (fun x => { x with temp := temp.toNat, hot := decide (95 < temp.toNat) }))

end Sys2Proof.Machine
end

