-- ==== Sys2Proof/Machine/Resets.lean ====
section
/-! DEFINITION. The reset levels (19, R401 to R409, R413): their scopes, what each does when it begins and when it completes,
escalation, generations; the verifying pass (R194); lockstep (R174) and saddle failures (R389). -/

namespace Sys2Proof

/-- The code of a level in a RESET_DONE record (R397). -/
def RLevel.code : RLevel → Nat
  | .context => 0 | .engine => 1 | .partition => 2 | .chip => 3 | .power => 4

namespace Machine

/-! ### Scopes (R403) -/

/-- Whether what a level and a target name lies inside the scope of a reset. -/
def State.insideReset (s : State) (r : Reset) (l : RLevel) (t : Nat) : Bool :=
  match r.level, l with
  | .chip, _ => true
  | .power, _ => true
  | .partition, .partition => decide (r.target = t)
  | .partition, .engine => decide (s.partOf t = some r.target)
  | .partition, .context => decide (s.partOfCtx t = some r.target)
  | .engine, .engine => r.tiles.contains t
  | _, .context => r.ctxs.contains t
  | _, _ => false

/-- Whether a reset lies inside the scope of another. -/
def State.resetInside (s : State) (outer inner : Reset) : Bool :=
  match inner.level with
  | .engine => inner.tiles.all (fun t => s.insideReset outer .engine t) && inner.ctxs.all (fun c => s.insideReset outer .context c)
  | l => s.insideReset outer l inner.target

/-- A reset asked for: inside one in progress it waits for it, and one that covers others takes them over; the replies go
together (R403). -/
def State.askReset (s : State) (n : Reset) : State :=
  match s.resets.find? (fun r => s.resetInside r n) with
  | some _ =>
    { s with resets := s.resets.map (fun r =>
        if s.resetInside r n then { r with hs := r.hs ++ n.hs, kill := r.kill ++ n.kill } else r) }
  | none =>
    let inner := s.resets.filter (fun r => s.resetInside n r)
    let n := { n with
      hs := inner.flatMap (fun (r : Reset) => r.hs) ++ n.hs
      ctxs := (inner.flatMap (fun (r : Reset) => r.ctxs)).foldl insertNat n.ctxs
      kill := inner.flatMap (fun (r : Reset) => r.kill) ++ n.kill }
    { s with resets := s.resets.filter (fun r => !s.resetInside n r) ++ [n] }

/-- A new reset as asked for, at the present wall time. -/
def State.newReset (s : State) (l : RLevel) (target : Nat) (hs : List Pkt) (tiles ctxs kill : List Nat) : Reset :=
  { level := l, asked := l, target := target, hs := hs, ctxs := ctxs, kill := kill, begun := false, tiles := tiles,
    since := s.clk.wall }

/-! ### Generations (R405, R409) -/

/-- A generation advanced: 1 to 255, then 1 again. -/
def nextGen (g : Nat) : Nat := if g = 255 then 1 else g + 1

/-- The advances of the last millisecond, by what advanced: a tile, or 256 more than a partition. -/
def State.recentAdvances (s : State) : List (Nat × Nat) := s.advances.filter (fun e => decide (s.clk.wall < e.2 + 1000000))

/-- Whether a generation may advance now. -/
def State.mayAdvance (s : State) (k : Nat) : Bool := decide ((s.recentAdvances.filter (fun e => e.1 = k)).length < 254)

/-- The generations of tiles advanced. -/
def State.advanceTiles (s : State) (ts : List Nat) : State :=
  let s := { s with advances := s.recentAdvances ++ ts.map (fun t => (t, s.clk.wall)) }
  ts.foldl (fun s t => s.modTile t (fun x => { x with gen := nextGen x.gen })) s

/-! ### What a reset does when it begins (R402) -/

/-- Writes outstanding that a test picks are answered with a status and not applied; their transfers end (R407). -/
def State.failWrites (s : State) (p : Nat → OutW → Bool) (st : Status) : State :=
  (NMap.keysOf s.tiles (fun _ _ => true)).foldl (fun s t =>
    ((s.tile t).xfers.filter (fun q => q.outst.any (p t))).foldl (fun s q =>
      s.failOuts t q (p t) st) s) s

/-- The tile that a physical address of a scratchpad names. -/
def State.spTile (s : State) (pa : Nat) : Option Nat :=
  match s.zone pa with
  | .sp t _ => some t
  | _ => none

/-- Tickets that are pending end with a status. -/
def Tickets.failAll (k : Tickets) (st : Status) : Tickets :=
  { k with kept := NMap.mapv k.kept (fun _ v => if v = .pending then .done st 0 else v) }

/-- A tile whose engine reset begins: array and vector operations abandoned, transfers told to end. -/
def Tile.abandon (x : Tile) (st : Status) : Tile :=
  { x with aops := [], vops := [], ftq := [], checks := [], tkA := x.tkA.failAll st, tkV := x.tkV.failAll st,
           inReset := true }.stopXfers (fun _ => true) st

/-- The invocation on a tile ended at once. -/
def State.endNow (s : State) (t : Nat) (st : Status) : State :=
  if (s.tile t).core.run = .idle then s else s.endItem t st st.code

/-- Engine resets of tiles begin (R402, R405). -/
def State.beginEngines (s : State) (ts : List Nat) : State :=
  let s := ts.foldl (fun s t => s.modTile t (fun x => x.abandon .targetReset)) (s.advanceTiles ts)
  let s := ts.foldl (fun s t => s.endNow t .targetReset) s
  let s := ts.foldl (fun s t => (s.worksOn t).foldl State.cancelOthers s) s
  let s := s.closeWindows (fun w => ts.contains w.tile) .cancelled
  s.failWrites (fun t w => w.kind ≠ 3 && !ts.contains t && ((s.spTile w.pa).map ts.contains).getD false) .targetReset

/-- Open trees of a context discarded (R348). -/
def State.dropTrees (s : State) (c : Nat) : State :=
  { s with hbms := NMap.mapv s.hbms (fun _ x => { x with trees := x.trees.filter (fun r => r.ctx ≠ c) }) }

/-- Pending SIGNAL_WAIT commands of a context answer ST_CANCELLED (R327). -/
def State.cancelWaits (s : State) (c : Nat) : State :=
  (s.waits.filter (fun w => w.ctx = c)).foldl (fun s w => s.replyS w.h .cancelled)
    { s with waits := s.waits.filter (fun w => w.ctx ≠ c) }

/-- The work of a context told to end: cores, transfers, work items, epochs (R402). -/
def State.cancelCtx (s : State) (c : Nat) : State :=
  let s := s.modCtx c (fun x => { x with susp := [], suspended := false })
  let s := (s.tilesBound c).foldl (fun s t => (s.modCore t (fun k => { k with frozen := false })).cancelTile t) s
  let s := (NMap.keysOf s.works (fun _ w => w.ctx = c && w.started)).foldl State.cancelWork s
  (NMap.keysOf s.seqs (fun _ q => q.ctx = c && q.epoch ≠ 0)).foldl (fun s n => s.decideEpoch n false 0) s

/-- A context reset begins (R327, R402). -/
def State.beginCtx (s : State) (c : Nat) : State :=
  let s := (s.cancelCtx c).closeWindows (fun w => w.ctx = c) .cancelled
  let s := { s with barriers := NMap.mapv s.barriers (fun k b =>
    if k / 65536 = c then { b with arrived := 0, phase := (b.phase + 1) % 2 ^ 32 } else b) }
  (s.cancelWaits c).dropTrees c

/-- The contexts of a partition. -/
def State.ctxsOf (s : State) (p : Nat) : List Nat := NMap.keysOf s.ctxs (fun _ x => decide (x.part = p))

/-- The set point that a partition reset holds its quads at (R419). -/
def State.holdPoint (s : State) (p : Nat) : Nat := min 50 (((NMap.get? s.parts p).map (·.pol.vMax)).getD 50)

/-- The quads of a partition held at their set point; one its regulator switched off returns, unless its glen is disabled
(R315, R418, R419). -/
def State.holdQuads (s : State) (p : Nat) : State :=
  let qs := (List.range 64).filter (fun q => s.partOfGlen (q / 4) = some p)
  qs.foldl (fun s q => s.modQuad q (fun x =>
    if x.off && x.offCause = 2 then
      if s.isDisabled 0 (q / 4) then { x with offCause := 1 }
      else { x with off := false, offCause := 0, scrubPass := true, gov := s.holdPoint p }
    else if x.off then x else { x with gov := s.holdPoint p })) s

/-- A tile whose retention was lost: its contents are zero, its resident blocks are to be reloaded (R418). -/
def Tile.loseSp (x : Tile) : Tile := { x.zeroise false with sp := [], poison := [], latent := [], reload := x.resid, lostGold := [] }

/-- A partition reset begins: on its tiles, on its contexts, on its flows, windows, barriers and quads (R257, R327, R402, R405,
R406, R408). -/
def State.beginPartition (s : State) (p : Nat) : State :=
  let ts := s.tilesOf p
  let cs := s.ctxsOf p
  let s := (s.windows.filter (fun w => ts.contains w.tile)).foldl (fun (s : State) w => s.retireTag w.ctx w.tag)
    { s with windows := s.windows.filter (fun w => !ts.contains w.tile) }
  let s := s.beginEngines ts
  let s := s.failWrites (fun t w => w.kind = 3 && ts.contains t) .targetReset
  let s := { s with links := { s.links with sflows := s.links.sflows.filter (fun f => !(f.cls = 0 && ts.contains f.tile)) } }
  let s := cs.foldl (fun s c => ((s.cancelCtx c).cancelWaits c).dropTrees c) s
  let s := (NMap.keysOf s.barriers (fun k b => cs.contains (k / 65536) && s.isHome b)).foldl (fun s k =>
    s.breakBarrier (k / 65536) (k % 65536)) s
  let s := { s with partGen := NMap.put s.partGen p (nextGen (s.gen p)), advances := s.recentAdvances ++ [(256 + p, s.clk.wall)] }
  let js := ((s.cfg.active.map (fun a => a.jobs.filter (fun j => j.job ≠ 0 && cs.contains j.ctx))).getD []).map (fun (j : JobKey) => j.job)
  let s := js.foldl (fun s j => s.send (.generation j p (s.gen p))) s
  let s := ts.foldl (fun s t => if (s.quad (quadOf t)).retLost then s.modTile t Tile.loseSp else s) s
  s.holdQuads p

/-- A reset begins, unless R409 holds it. -/
def State.beginReset (s : State) (r : Reset) : State :=
  let put := fun (s : State) (r' : Reset) => { s with resets := s.resets.map (fun x => if x = r then r' else x) }
  match r.level with
  | .context => put (r.ctxs.foldl State.beginCtx s) { r with begun := true }
  | .engine =>
    if !r.tiles.all s.mayAdvance then s else put (s.beginEngines r.tiles) { r with begun := true }
  | .partition =>
    let ts := s.tilesOf r.target
    if !(s.mayAdvance (256 + r.target) && ts.all s.mayAdvance) then s
    else put (s.beginPartition r.target)
      { r with begun := true, tiles := ts, ctxs := (s.ctxsOf r.target).foldl insertNat r.ctxs }
  | _ => s

/-! ### What a reset does when it completes (R402, R403) -/

/-- A tile after its engine reset: tickets restart, tables, slots, accumulators and look-up slots in their reset state; contents of
scratchpad and instruction store, sticky status and the binding stay (R193, R402). -/
def Tile.afterReset (x : Tile) : Tile :=
  { x with
    tkA := Tickets.reset
    tkV := Tickets.reset
    tkD := Tickets.reset
    act := []
    drain := []
    vdesc := []
    chain := []
    patch := []
    sparse := []
    slots := []
    accA := []
    accB := []
    checks := []
    aops := []
    ftq := []
    luts := []
    vops := []
    inReset := false }

/-- The steps of a context ended: ST_CANCELLED, their slots Open with a := c, the cancels that waited for them answered
(R402). -/
def State.endSteps (s : State) (c : Nat) : State :=
  let ns := NMap.keysOf s.seqs (fun _ q => q.ctx = c && (q.state = 2 || q.state = 3 || q.epoch ≠ 0))
  ns.foldl (fun s n =>
    let s := s.modSeq n (fun q =>
      { q with epoch := 0, action := none, acks := [], tokenHeld := false, a := q.c, state := if q.state = 2 || q.state = 3 then 1 else q.state })
    let s := (s.releaseHeld n false).trimRuns n
    let s := match s.runningWork n with
      | some (k, _) => s.answerWork k .cancelled (s.seq n).c 0
      | none => s
    s.endCancels n) s

/-- A configuration set without the job entries of a context (R446). -/
def CfgSet.dropCtx (c : Nat) (a : CfgSet) : CfgSet := { a with jobs := a.jobs.filter (fun j => j.job = 0 || j.ctx ≠ c) }

/-- A tile after its context has been destroyed. -/
def Tile.dropCtx (c : Nat) (x : Tile) : Tile :=
  let other := fun (e : Tlb) => decide (e.ctx ≠ c)
  let x := { x with tlb := x.tlb.filter other, upper := x.upper.filter other, kvb := x.kvb.filter other }
  if x.ctx = some c then { x.zeroise false with ctx := none } else x

/-- A context destroyed: its commands answer ST_CANCELLED, its slots, prefixes, objects, windows, streams and keys go, its tiles
are zeroised (R193, R327, R402, R442). -/
def State.killCtx (s : State) (c : Nat) : State :=
  let s := (NMap.keysOf s.works (fun _ w => w.ctx = c)).foldl (fun s n => s.answerWork n .cancelled 0 0) s
  let s := (NMap.keysOf s.seqs (fun _ q => q.state ≠ 0 && q.ctx = c)).foldl State.freeSlot s
  let s := { s with
    prefixes := s.prefixes.filter (fun p => p.ctx ≠ c)
    held := s.held.filter (fun e => e.ctx ≠ c)
    signals := s.signals.filter (fun e => e.1 / 65536 ≠ c)
    barriers := s.barriers.filter (fun e => e.1 / 65536 ≠ c)
    windows := s.windows.filter (fun w => w.ctx ≠ c)
    rng := NMap.clear s.rng (c * 16384) 16384
    tiles := NMap.mapv s.tiles (fun _ x => x.dropCtx c)
    cfg := { s.cfg with active := s.cfg.active.map (CfgSet.dropCtx c) }
    trace := if !s.trace.steward && s.trace.ctx = c then { s.trace with running := false } else s.trace
    ctxs := NMap.del s.ctxs c }
  (s.cancelWaits c).dropTrees c

/-- A reset completed: its contexts' steps end, destroyed contexts go, every command that waits for it answers ST_OK, and its event
is raised. `gen` is the new generation. -/
def State.resetOver (s : State) (r : Reset) (gen : Nat) : State :=
  let s := { s with resets := s.resets.filter (fun x => x ≠ r) }
  let s := r.ctxs.foldl (fun s c =>
    (s.tilesBound c).foldl (fun s t => s.modTile t (fun x => { x with accA := [], accB := [], ftq := [] })) s) s
  let s := (r.kill.eraseDups).foldl State.killCtx (r.ctxs.foldl State.endSteps s)
  let s := r.hs.foldl (fun s h => s.replyS h .ok) s
  let e : Ev := { type := 0x23, kind := 2, ctx := if r.level = .context then some r.target else none,
                  unit := if r.level = .engine then 1 else 0, index := if r.level = .engine then r.tiles.headD 0 else 0, gen := gen,
                  detail := [(24, 1, r.level.code), (25, 1, r.asked.code), (26, 2, r.target), (28, 1, gen)] }
  (s.raise e).advanceAll

/-- Whether the tiles of a context have come to rest: no operation, no transfer, no check outstanding, no invocation. -/
def State.ctxAtRest (s : State) (c : Nat) : Bool :=
  (s.tilesBound c).all (fun t =>
    let x := s.tile t
    x.quiet && x.xfers.isEmpty && x.checks.isEmpty && decide (x.core.run = .idle))

/-- A begun context or engine reset completed, if what it waits for has ended. A partition reset completes with its verifying
pass. -/
def State.completeReset (s : State) (r : Reset) : State :=
  let rest := r.ctxs.all s.ctxAtRest
  match r.begun, r.level with
  | true, .context => if rest then s.resetOver r 0 else s
  | true, .engine =>
    if rest && r.tiles.all (fun t => (s.tile t).xfers.isEmpty) then
      (r.tiles.foldl (fun s t => s.modTile t Tile.afterReset) s).resetOver r (s.tile (r.tiles.headD 0)).gen
    else s
  | _, _ => s

/-- Resets that may begin begin, and those at rest complete. -/
def State.pumpResets (s : State) : State :=
  let s := (s.resets.filter (fun r => !r.begun)).foldl State.beginReset s
  s.resets.foldl State.completeReset s

/-! ### The reset commands (R401, R403) -/

/-- CTX_RESET. -/
def execCtxReset (h : Pkt) (s : State) : Host.Outcome State Fault Refusal :=
  .next (s.host h true false true (fun _ s =>
    let c := h.ctx.toNat
    if (s.ctx? c).isNone then s.replyS h .permission
    else (s.askReset (s.newReset .context c [h] [] [c] [])).pumpResets))

/-- CTX_DESTROY. -/
def execCtxDestroy (h : Pkt) (s : State) : Host.Outcome State Fault Refusal :=
  .next (s.host h true false true (fun _ s =>
    let c := h.ctx.toNat
    if (s.ctx? c).isNone then s.replyS h .permission
    else (s.askReset (s.newReset .context c [h] [] [c] [c])).pumpResets))

/-- ENGINE_RESET. -/
def execEngineReset (h : Pkt) (tile : Byte) (s : State) : Host.Outcome State Fault Refusal :=
  .next (s.host h true false true (fun _ s =>
    let t := tile.toNat
    if s.tileOff t then s.replyS h .targetOff
    else (s.askReset (s.newReset .engine t [h] [t] [] [])).pumpResets))

/-- PARTITION_RESET. -/
def execPartitionReset (h : Pkt) (part : Byte) (s : State) : Host.Outcome State Fault Refusal :=
  .next (s.host h true false (decide (part.toNat < 16)) (fun _ s =>
    let p := part.toNat
    if (NMap.get? s.parts p).isNone then s.replyS h .rejected
    else (s.askReset (s.newReset .partition p [h] [] [] [])).pumpResets))

/-! ### VERIFYING_PASS (R194) -/

/-- Whether a partition in reset has come to its verifying pass: its transfers have ended, its quads have been scrubbed, and what
retention lost has been reloaded (R191, R418). A tile that stays off takes its reloads at its return, and is not waited for
(assumption log entry 126). -/
def State.readyToVerify (s : State) (r : Reset) : Bool :=
  r.begun && decide (r.level = .partition) && r.ctxs.all s.ctxAtRest && r.tiles.all (fun t =>
    let q := s.quad (quadOf t)
    (s.tile t).xfers.isEmpty && !q.scrubPass && (!q.retLost || s.tileOff t || (s.tile t).reload.isEmpty))

/-- VERIFYING_PASS: every resident block of the partition is read, and the partition accepts work again (R193, R194, R401,
R419). -/
def execVerifyingPass (part : BitVec 4) (upsets : List (Nat × Upset)) (s : State) : Host.Outcome State Fault Refusal :=
  let p := part.toNat
  match s.resets.find? (fun r => decide (r.target = p) && s.readyToVerify r) with
  | none => .next s
  | some r =>
    let s := s.strikeAll (upsets.filter (fun u => r.tiles.contains u.1))
    let s := r.tiles.foldl (fun s t => (s.modTile t (fun x => x.zeroise false)).passCells t (fun _ => true)) s
    let s := r.tiles.foldl (fun s t => s.modTile t Tile.afterReset) s
    let qs := (List.range 64).filter (fun q => s.partOfGlen (q / 4) = some p)
    let s := qs.foldl (fun s q => s.modQuad q (fun x => { x with retLost := false, gov := s.startPoint p })) s
    .next (s.resetOver r (s.gen p))

/-! ### Chip reset (R352, R402, R413) -/

/-- The package put into chip reset. What lies outside it stays: pins, far tier, host memory, what was sent; so do the HBM cells
until boot clears them, the tray's settings and the count of wall time. -/
def State.chipReset (s : State) (asked : RLevel) : State :=
  let z := State.reset
  let n : Reset := { s.newReset .chip 0 [] [] [] [] with asked := asked, begun := true }
  { z with
    pending := s.pending
    pins := s.pins
    boot := { z.boot with testMode := s.boot.testMode, keyNext := s.boot.keyNext, lastHardReset := s.boot.lastHardReset }
    clk := { z.clk with wall := s.clk.wall }
    port := { z.port with sent := s.port.sent }
    power := { z.power with w100us := s.power.w100us, trayLimit := s.power.trayLimit,
                            alertMask := s.power.alertMask, smb := s.power.smb }
    mem := s.mem
    links := { z.links with out := s.links.out }
    advances := s.advances
    resets := [n]
    freeCtr := s.freeCtr }

/-- FAULT_N asserted: nothing leaves the package until the supplies are removed (R413). -/
def State.assertFault (s : State) : State := { s with pins := { s.pins with faultN := false } }

/-- A chip reset for a fault of the steward or the col core: a second one within 10 s asserts FAULT_N (R413). -/
def State.hardReset (s : State) : State :=
  let again := match s.boot.lastHardReset with
    | some w => decide (s.clk.wall < w + 10000000000)
    | none => false
  let r := s.chipReset .chip
  let r := { r with boot := { r.boot with lastHardReset := some s.clk.wall } }
  if again then r.assertFault else r

/-- CHIP_RESET_WRITE: only the key 0xC01D_0B74 resets (R352). -/
def execChipResetWrite (key : W32) (s : State) : Host.Outcome State Fault Refusal :=
  if key.toNat = 0xC01D0B74 && s.live && s.port.memEnable && !s.boot.inReset then .next (s.chipReset .chip) else .next s

/-! ### RESET_ESCALATION (R404) -/

/-- The time a reset may take at its level (R401). -/
def Reset.limit (r : Reset) : Nat :=
  match r.level with
  | .context => if r.kill.isEmpty then 100000 else 3000000
  | .engine => 250000
  | .partition => 3000000
  | _ => 500000000

/-- A reset at the next level. -/
def State.escalate (s : State) (r : Reset) : State :=
  match r.level with
  | .context =>
    let ts := (r.ctxs.flatMap s.tilesBound).foldl insertNat []
    let r' := { r with level := .engine, tiles := ts, begun := false, since := s.clk.wall }
    { s with resets := s.resets.map (fun x => if x = r then r' else x) }.pumpResets
  | .engine =>
    match s.partOf (r.tiles.headD 0) with
    | some p =>
      let n := { r with level := .partition, target := p, tiles := [], begun := false, since := s.clk.wall }
      ({ s with resets := s.resets.filter (fun x => x ≠ r) }.askReset n).pumpResets
    | none => s
  | .partition => s.chipReset r.asked
  | _ => if s.pins.trayResetN && s.pins.perstN && s.pins.pwrgood && s.pins.jtag ≠ 3 then s.assertFault else s

/-- RESET_ESCALATION: every reset that has not completed within its time. A chip reset that a pin holds is not late. -/
def execResetEscalation (s : State) : Host.Outcome State Fault Refusal :=
  let s := s.pumpResets
  .next ((s.resets.filter (fun r => decide (r.since + r.limit ≤ s.clk.wall))).foldl (fun s r =>
    if s.resets.contains r then s.escalate r else s) s)

/-! ### LOCKSTEP_MISMATCH and SADDLE_FAILED (R174, R389, R400) -/

/-- An engine reset that the package itself starts. -/
def State.resetTile (s : State) (t : Nat) : State := (s.askReset (s.newReset .engine t [] [t] [] [])).pumpResets

/-- LOCKSTEP_MISMATCH: the two cores of a pair disagree at a commit. -/
def execLockstepMismatch (steward : Bool) (t : Byte) (s : State) : Host.Outcome State Fault Refusal :=
  let t := t.toNat
  if steward then .next (if s.boot.inReset then s else (s.raise (evUnit 7 0 0x13 1 [(24, 4, 0)])).hardReset)
  else if (s.tile t).core.run = .idle || (s.tile t).inReset then .next s
  else .next ((s.raise (s.evTile t 0x13 1 [(24, 4, (s.tile t).core.pc)])).resetTile t)

/-- A saddle that has failed for good: ring traffic is carried by the col saddles, a col saddle's failure resets the chip
(R389). -/
def State.saddleDown (s : State) (k : Nat) : State :=
  if k < 4 then (s.raise (evUnit 6 k 0x15 1 [(24, 1, 0)])).chipReset .chip
  else if s.saddleRerouted.contains (k - 4) then s
  else { s with saddleRerouted := insertNat s.saddleRerouted (k - 4) }.raise (evUnit 6 k 0x15 1 [(24, 1, 1)])

/-- SADDLE_FAILED. -/
def execSaddleFailed (k : BitVec 3) (s : State) : Host.Outcome State Fault Refusal :=
  .next (if s.boot.inReset then s else s.saddleDown k.toNat)

end Machine
end Sys2Proof
end

