-- ==== Sys2Proof/Machine/Ports.lean ====
section
/-! DEFINITION. The Ohmist ports (18): flits, retry and credits (R368 to R372), training and loss (R367, R370), link-state notices
(R377), routes (R364, R365, R375, R376, R381, R384), packets handed to a port. -/

namespace Sys2Proof

/-- Flits that a packet takes: header, payload padded to 8 B and tag, in units of 8 B, 30 units a flit (R368, R373). -/
def Packet.flits (p : Packet) : Nat := ((32 + (p.payload.length + 7) / 8 * 8 + 16) / 8 + 29) / 30

/-- Whether a packet's type is none of those of R373. -/
def Packet.isUnknown (p : Packet) : Bool := !([0, 1, 2, 3, 4, 5, 6, 8].contains p.ptype.toNat)

/-- Whether a packet is a request. -/
def Packet.isRequest (p : Packet) : Bool := decide (p.ptype.toNat < 4)

namespace Machine

/-! ### Node addresses and rings (R364, R365) -/

def nodeX (n : Nat) : Nat := bits n 10 4
def nodeY (n : Nat) : Nat := bits n 6 4
def nodeSlot (n : Nat) : Nat := bits n 0 6
def nodeOf (x y slot : Nat) : Nat := x * 1024 + y * 64 + slot

/-- The ring entry of a ring port's ring in the active set: owning job and sharing (R381, R460). -/
def State.ring (s : State) (yRing : Bool) (x y slot : Nat) : Nat :=
  match s.cfg.active with
  | some c => NMap.get 0 c.rings (if yRing then 64 * s.links.inst.ny + 64 * x + slot else 64 * y + slot)
  | none => 0

/-- Whether a job may use the wrap link of a ring (R381). -/
def wrapOk (ring job : Nat) : Bool := bit ring 16 || (bits ring 0 16 = job && job ≠ 0)

/-- Whether new flows may leave by a port: it is up and not disabled. -/
def State.portOpen (s : State) (p : Nat) : Bool := (s.ohm p).up && !s.isDisabled 1 p

/-- The direction on a ring of `n` from `a` to `b`: true for minus. `bad` tells whether a direction meets a link known to be
down or disabled; it yields only to a direction that the job may use (R375, R377, R384). -/
def ringDir (n a b : Nat) (wrap : Bool) (bad : Bool → Bool) : Bool :=
  let d := (b + n - a) % n
  let ok := fun (minus : Bool) => wrap || (if minus then decide (n - d ≤ a) else decide (a + d < n))
  let first := if ok false && ok true then decide (n - d < d) else ok true
  if bad first && ok (!first) && !bad (!first) then !first else first

/-- Whether a path on a ring meets a link that is known to be down, or starts at a port of this package that is not open. -/
def State.ringBad (s : State) (yRing : Bool) (x y slot n a b : Nat) (minus : Bool) : Bool :=
  let d := (b + n - a) % n
  let port := (if yRing then 10 else 8) + (if minus then 1 else 0)
  let at_ := fun (i : Nat) => if yRing then nodeOf x i slot else nodeOf i y slot
  (List.range (if minus then n - d else d)).any (fun i =>
    let r := if minus then (a + n - i % n) % n else (a + i) % n
    s.links.downLinks.contains (at_ r, port) || (at_ r = s.links.inst.node && !s.portOpen port))

/-- The directions of a route to a node: X then Y (R375). -/
def State.dirs (s : State) (dst job : Nat) : Bool × Bool :=
  let l := s.links.inst
  let x := nodeX l.node
  let y := nodeY l.node
  let sl := nodeSlot l.node
  (ringDir l.nx x (nodeX dst) (wrapOk (s.ring false x y sl) job) (s.ringBad false x y sl l.nx x (nodeX dst)),
   ringDir l.ny y (nodeY dst) (wrapOk (s.ring true (nodeX dst) y sl) job) (s.ringBad true (nodeX dst) y sl l.ny y (nodeY dst)))

/-- The plane of a flow: the hash picks among the planes that are up and not disabled (R376). -/
def State.plane (s : State) (tile dst cls : Nat) : Option Nat :=
  let ps := (List.range 8).filter s.portOpen
  let h := hash64 (tile * 65536 + dst * 4 + cls) 0xFFFF 0 s.links.inst.planeSeed
  if ps.isEmpty then none else ps[h % ps.length]?

/-- The next port towards a node for a packet with its directions; none where no open plane is left (R375, R377). -/
def State.nextPort (s : State) (tile dst cls : Nat) (xdir ydir : Bool) : Option Nat :=
  let own := s.links.inst.node
  if nodeX dst ≠ nodeX own then some (if xdir then 9 else 8)
  else if nodeY dst ≠ nodeY own then some (if ydir then 11 else 10)
  else s.plane tile dst cls

/-! ### Flits and credits (R368 to R372) -/

/-- The virtual channel of a packet on its way to the next hop: transit where that hop forwards it (R371). -/
def State.channel (s : State) (port : Nat) (p : Packet) : Nat :=
  let own := s.links.inst.node
  let dst := p.dstNode.toNat
  let near := decide (port < 8) || (decide (port < 10) && nodeY dst = nodeY own && nodeSlot dst = nodeSlot own &&
      (s.links.inst.nx = 2 || (if port = 8 then (nodeX own + 1) % s.links.inst.nx = nodeX dst
        else (nodeX dst + 1) % s.links.inst.nx = nodeX own))) ||
    (decide (10 ≤ port) && nodeX dst = nodeX own && nodeSlot dst = nodeSlot own &&
      (s.links.inst.ny = 2 || (if port = 10 then (nodeY own + 1) % s.links.inst.ny = nodeY dst
        else (nodeY dst + 1) % s.links.inst.ny = nodeY own)))
  if near then (if p.isRequest then 0 else 1) else 2

/-- Whether a port takes a packet now: credits of its channel, twice as many where it enters a ring, and room in the replay
buffer (R369, R371, R372). -/
def State.portTakes (s : State) (port : Nat) (p : Packet) (enters : Bool) : Bool :=
  let x := s.ohm port
  let vc := s.channel port p
  x.up && decide (p.flits * (if enters && vc = 2 then 2 else 1) ≤ NMap.get 0 x.credits vc) &&
    decide (x.replay.length + p.flits ≤ 1024)

/-- A counter of a port (R386). -/
def State.countPort (s : State) (port k n : Nat) : State :=
  if port < 12 then s.count (0x310000 + 0x100 * port + 8 * k) n else s

/-- The port with the flits of a packet sent on a channel. -/
def Port.sendFlits (x : Port) (vc n : Nat) : Port :=
  { x with
    txSeq := (x.txSeq + n) % 4096
    replay := x.replay ++ (List.range n).map (fun i => { seq := (x.txSeq + i) % 4096, vc := vc, units := 30 })
    credits := NMap.put x.credits vc (NMap.get 0 x.credits vc - n) }

/-- A packet handed to what receives it: the link of a port, or this package's own receive checks. -/
def State.deliverOut (s : State) (port : Option Nat) (p : Packet) : State :=
  if !s.live then s else { s with links := { s.links with out := s.links.out ++ [.packet port p] } }

/-- A packet put on a port's link: its flits, its bytes, the packet itself, this package's own with its birth. -/
def State.launch (s : State) (q : Nat) (p : Packet) (own : Bool) : State :=
  let vc := s.channel q p
  let s := (s.modOhm q (fun x => x.sendFlits vc p.flits)).countPort q (if own then (if p.isRequest then 0 else 1) else 8)
    p.payload.length
  s.deliverOut (some q) (if own then { p with birth := BitVec.ofNat 32 s.clk.now } else p)

/-- A packet sent on a port. `own`: it is this package's traffic. It waits there behind others of its channel and until the channel's
credits and the replay buffer take it (R369, R371). -/
def State.emit (s : State) (port : Option Nat) (p : Packet) (own : Bool) : State :=
  match port with
  | none => s.deliverOut none p
  | some q =>
    if (s.ohm q).waiting.any (fun w => s.channel q w.1 = s.channel q p) || !s.portTakes q p own then
      s.modOhm q (fun x => { x with waiting := x.waiting ++ [(p, own)] })
    else s.launch q p own

/-- The packets that wait at a port sent as far as it takes them. -/
def State.pumpPort (s : State) (q : Nat) : State :=
  (s.ohm q).waiting.foldl (fun s w => s.emit (some q) w.1 w.2) (s.modOhm q (fun x => { x with waiting := [] }))

/-- One step of the CRC-32 of IEEE 802.3 over a bit, least significant first. -/
def crcBit (c : Nat) (b : Bool) : Nat := if (bit c 0) != b then (c / 2) ^^^ 0xEDB88320 else c / 2

/-- CRC-32 of IEEE 802.3 of a byte string (R368). -/
def crc32 (bs : List Byte) : Nat :=
  0xFFFFFFFF ^^^ bs.foldl (fun c b => (List.range 8).foldl (fun c i => crcBit c (b.getLsbD i)) c) 0xFFFFFFFF

/-- The fields of a flit header (R368). -/
structure FlitHdr where
  seq : Nat
  ack : Nat
  kind : Nat
  credits : List Nat
  deriving DecidableEq, Repr

/-- The header of a flit. -/
def flitHdr (bs : List Byte) : FlitHdr :=
  let h := leAt bs 0 12
  { seq := bits h 84 12, ack := bits h 72 12, kind := bits h 70 2, credits := [bits h 56 8, bits h 48 8, bits h 40 8, bits h 32 8] }

/-- Whether sequence number `a` comes before `b`, modulo 4,096. -/
def seqBefore (a b : Nat) : Bool := a ≠ b && decide ((b + 4096 - a) % 4096 ≤ 2048)

/-- The credits and acknowledgements that a flit taken brings (R368, R369, R371). -/
def Port.credit (x : Port) (h : FlitHdr) : Port :=
  { x with
    credits := (h.credits.zipIdx).foldl (fun m e =>
      NMap.put m e.2 (min (NMap.get 0 m e.2 + e.1) (NMap.get 0 Port.reset.credits e.2))) x.credits
    replay := x.replay.filter (fun f => !seqBefore f.seq h.ack) }

/-- A flit discarded: counted, and one retry request sent; while the resend is awaited, another is sent only when the resent flit
itself is discarded (R368, R369, R386). -/
def State.badFlit (s : State) (port : Nat) (fecOk : Bool) (bs : List Byte) : State :=
  let s := s.countPort port (if fecOk then 12 else 11) 1
  let x := s.ohm port
  let h := flitHdr bs
  if x.awaiting && !(h.kind = 0 && h.seq = x.rxSeq) then s
  else
    let s := (s.modOhm port (fun x => { x with awaiting := true })).countPort port 13 1
    if s.live then { s with links := { s.links with out := s.links.out ++ [.retryReq port x.rxSeq] } } else s

/-- A flit taken at a port: what waits there for credits or for room goes on. -/
def State.flitTaken (s : State) (port : Nat) (h : FlitHdr) : State := (s.modOhm port (fun x => x.credit h)).pumpPort port

/-- A flit of a kind at a port: none where the port is down or the flit is not of the kind; else its header when it is good. `fec` is the
number of codewords that FEC corrected, none where it could not (R366, R368, R386). -/
def State.flitAt (s : State) (port : Nat) (fec : Option Nat) (bs : List Byte) (kind : Nat) (f : FlitHdr → State → State) : State :=
  if !(s.ohm port).up || bs.length ≠ 256 then s
  else
    let s := s.countPort port 10 (fec.getD 0)
    if fec.isNone || crc32 (bs.take 252) ≠ leAt bs 252 4 then s.badFlit port fec.isSome bs
    else if (flitHdr bs).kind ≠ kind then s
    else f (flitHdr bs) (s.modOhm port (fun x => { x with lastValid := s.clk.wall }))

/-- DATA_FLIT: taken in order; while a resend is awaited every other data flit is discarded whole (R369; idle flits and retry requests,
which are never resent, are taken: assumption log entry 175). -/
def execDataFlit (port : BitVec 4) (fec : Option Nat) (bytes : List Byte) (s : State) : Host.Outcome State Fault Refusal :=
  let p := port.toNat
  .next (s.flitAt p fec bytes 0 (fun h s =>
    let x := s.ohm p
    if h.seq = x.rxSeq then (s.flitTaken p h).modOhm p (fun x => { x with rxSeq := (x.rxSeq + 1) % 4096, awaiting := false })
    else if x.awaiting then s
    else
      let s := (s.modOhm p (fun x => { x with awaiting := true })).countPort p 13 1
      if s.live then { s with links := { s.links with out := s.links.out ++ [.retryReq p x.rxSeq] } } else s))

/-- RETRY_REQUEST: the sender resends from the named flit; requests in a row that name one flit are counted (R369, R370). -/
def execRetryRequest (port : BitVec 4) (fec : Option Nat) (bytes : List Byte) (s : State) : Host.Outcome State Fault Refusal :=
  let p := port.toNat
  .next (s.flitAt p fec bytes 2 (fun h s =>
    let s := (s.flitTaken p h).modOhm p (fun x =>
      { x with nakSeq := h.ack, nakCount := if x.nakCount ≠ 0 && x.nakSeq = h.ack then x.nakCount + 1 else 1 })
    if s.live then { s with links := { s.links with out := s.links.out ++ [.resend p h.ack] } } else s))

/-- IDLE_FLIT: credits and acknowledgements. -/
def execIdleFlit (port : BitVec 4) (fec : Option Nat) (bytes : List Byte) (s : State) : Host.Outcome State Fault Refusal :=
  .next (s.flitAt port.toNat fec bytes 1 (fun h s => s.flitTaken port.toNat h))

/-- TRAINING_CONTROL: a valid flit of the training exchange; it carries nothing beyond what every flit carries. -/
def execTrainingControl (port : BitVec 4) (fec : Option Nat) (bytes : List Byte) (s : State) :
    Host.Outcome State Fault Refusal := .next (s.flitAt port.toNat fec bytes 3 (fun h s => s.flitTaken port.toNat h))

/-! ### Training and loss (R367, R370, R377) -/

/-- LINK_TRAINING: `low` and `high` tell whether lanes 0 to 3 and 4 to 7 trained. A port trains while it is down, cabled and not
held by FUNCTION_DISABLE, at most every 100 ms. -/
def execLinkTraining (port : BitVec 4) (low high : Bool) (s : State) : Host.Outcome State Fault Refusal :=
  let p := port.toNat
  let x := s.ohm p
  if s.boot.inReset || !s.live || !x.cabled || x.up || x.disabled || s.clk.wall < x.nextTry then .next s
  else if !low && !high then .next (s.modOhm p (fun x => { x with nextTry := s.clk.wall + 100000000 }))
  else
    let lanes := if low && high then 8 else 4
    let y : Port := { Port.reset with
      cabled := true, up := true, degraded := decide (lanes = 4), lanes := lanes, retrains := min (x.retrains + 1) 255
      lastValid := s.clk.wall }
    let s := (s.modOhm p (fun _ => y)).raise (evUnit 5 p 0x1A 2 [(24, 1, lanes)])
    .next (s.send (.linkState p true))

/-- A port goes down: its event, its replay buffer emptied, the notice to the others; it trains again (R367, R370, R377). -/
def State.portDown (s : State) (p cause : Nat) : State :=
  if !(s.ohm p).up then s
  else
    let s := s.modOhm p (fun x => { x with up := false, degraded := false, lanes := 0, replay := [], waiting := [], awaiting := false,
                                           nakCount := 0, nextTry := s.clk.wall })
    (s.raise (evUnit 5 p 0x19 1 [(24, 1, cause)])).send (.linkState p false)

/-- LINK_DOWN: no valid flit for 4 µs, or 8 retry requests in a row for one flit. -/
def execLinkDown (port : BitVec 4) (s : State) : Host.Outcome State Fault Refusal :=
  let p := port.toNat
  let x := s.ohm p
  if 8 ≤ x.nakCount then .next (s.portDown p 1)
  else if x.lastValid + 4000 ≤ s.clk.wall then .next (s.portDown p 0)
  else .next s

/-- LINK_STATE_NOTICE: a ring link of another package goes down or comes up; later injections are routed by it (R377). -/
def execLinkStateNotice (m : MgmtHdr) (port : BitVec 4) (up : Bool) (s : State) : Host.Outcome State Fault Refusal :=
  if !s.mgmtOk m true then .next (s.mgmtDrop m)
  else
    let k := (m.node.toNat, port.toNat)
    let l := s.links.downLinks.filter (fun e => e ≠ k)
    .next { s with links := { s.links with downLinks := if up then l else l ++ [k] } }

end Machine
end Sys2Proof
end

