-- ==== Sys2Proof/Machine/Flows.lean ====
section
/-! DEFINITION. Flows and packets of jobs (18): injection (R259, R373 to R376, R378, R382), transit (R377), the receive checks (R256,
R380, R407), answers (R379, R408), resending and forgetting (R378, R379), generation notices (R406). -/

namespace Sys2Proof.Machine

/-! ### Senders (R373 to R378, R382) -/

/-- The job key entry of a job in the active set (R445). -/
def State.jobKey (s : State) (job : Nat) : Option JobKey :=
  s.cfg.active.bind (fun a => a.jobs.find? (fun j => j.job ≠ 0 && j.job = job))

/-- Whether a packet's tag verifies under an installed key of its job; a key_id that is not installed fails (R445, R447). -/
def State.authentic (s : State) (pk : Packet) : Bool :=
  pk.authOk && match s.jobKey pk.job.toNat with
    | some k => k.idA = some pk.keyId.toNat || k.idB = some pk.keyId.toNat
    | none => true

/-- A sender's flow: requests are of class 0, answers of class 1. -/
def State.flowOf (s : State) (t node cls : Nat) : SFlow :=
  (s.links.sflows.find? (fun f => f.tile = t && f.node = node && f.cls = cls)).getD
    { tile := t, node := node, cls := cls, port := none, nextSerial := 0, opened := false, unsettled := [], sentAt := 0, lastAck := 0,
      laterAt := none }

/-- A sender's flow of requests. -/
def State.sflow (s : State) (t node : Nat) : SFlow := s.flowOf t node 0

/-- A sender's flow written back. -/
def State.putFlow (s : State) (f : SFlow) : State :=
  let rest := s.links.sflows.filter (fun g => !(g.tile = f.tile && g.node = f.node && g.cls = f.cls))
  { s with links := { s.links with sflows := rest ++ [f] } }

/-- Whether a drain of an Ohmist port is in progress: its pinned flows may still use it (R384). -/
def State.drainsPort (s : State) (p : Nat) : Bool := s.disabling.any (fun d => d.kind = 1 && d.index = p && !d.abort)

/-- The port a flow is pinned to, while it may go on using it. -/
def State.pinned (s : State) (f : SFlow) : Option Nat :=
  f.port.filter (fun p => (s.ohm p).up && (!s.isDisabled 1 p || (!f.unsettled.isEmpty && s.drainsPort p)))

/-- The route of a flow's next packet: directions and port; a pinned ring port keeps its direction. -/
def State.flowRoute (s : State) (f : SFlow) (job : Nat) : Bool × Bool × Option Nat :=
  let d := s.dirs f.node job
  match s.pinned f with
  | some p => (if p = 8 then false else if p = 9 then true else d.1, if p = 10 then false else if p = 11 then true else d.2, some p)
  | none => (d.1, d.2, (s.nextPort f.tile f.node f.cls d.1 d.2).filter s.portOpen)

/-- The frame counter of a job key and tile (R382): its index and whether it has a value left. -/
def frameKey (job keyId tile : Nat) : Nat := job * 65536 + keyId * 256 + tile

/-- A packet sealed under a job key: the frame counter advances. -/
def State.frame (s : State) (job keyId tile : Nat) : State :=
  let k := frameKey job keyId tile
  { s with links := { s.links with frames := NMap.put s.links.frames k (NMap.get 0 s.links.frames k + 1) } }

/-- The longest run of writes at rising addresses without a gap, of at most `room` bytes. -/
def contiguous (room next : Nat) : List OutW → List OutW
  | [] => []
  | w :: r => if w.pa = next && decide (w.data.length ≤ room) then w :: contiguous (room - w.data.length) (next + w.data.length) r
    else []

/-- The next elements of a transfer that fit one packet, at most `n` of them, none split (R373). -/
def Xfer.packetPart (q : Xfer) (n : Nat) : List OutW :=
  let un := q.outst.filter (fun w => w.kind = 3 && w.serial.isNone)
  let ids := ((un.map (fun w => w.idx)).eraseDups).take n
  let ws := contiguous (if q.op = 2 && q.rop = 2 then 4088 else 4096) ((un.head?.map (fun w => w.pa)).getD 0)
    (un.filter (fun w => ids.contains w.idx))
  ws.filter (fun w => un.all (fun v => v.idx ≠ w.idx || ws.contains v))

/-- Where the poisoned elements of a packet stand in its payload (R214). -/
def markedParts : Nat → List OutW → List (Nat × Nat)
  | _, [] => []
  | at_, w :: r => if w.poison then (at_, w.data.length) :: markedParts (at_ + w.data.length) r
    else markedParts (at_ + w.data.length) r

/-- The packet that carries some elements. -/
def State.packetOf (s : State) (t : Nat) (q : Xfer) (ws : List OutW) (f : SFlow) (k : JobKey) (xd yd : Bool) : Packet :=
  { ptype := BitVec.ofNat 4 (if q.op = 2 then 1 + q.rop else 0), xdir := xd, ydir := yd, dstNode := BitVec.ofNat 14 q.node,
    srcNode := BitVec.ofNat 14 s.links.inst.node, srcTile := BitVec.ofNat 8 t, tgen := BitVec.ofNat 8 (s.genFor k.job q.node),
    job := BitVec.ofNat 16 k.job, xtag := BitVec.ofNat 16 q.xtag, serial := BitVec.ofNat 16 f.nextSerial,
    keyId := BitVec.ofNat 8 k.sendId, opened := !f.opened, resent := false,
    dstVa := BitVec.ofNat 64 ((ws.head?.map (fun w => w.pa)).getD 0), birth := BitVec.ofNat 32 s.clk.now,
    payload := (if q.op = 2 && q.rop = 2 then leBytes 8 q.opx else []) ++ ws.flatMap (fun w => w.data), authOk := true,
    poison := markedParts (if q.op = 2 && q.rop = 2 then 8 else 0) ws }

/-- A packet of a transfer sent: its elements wait for the answer to its serial. -/
def State.sendPacket (s : State) (t : Nat) (q : Xfer) (ws : List OutW) (f : SFlow) (pk : Packet) (port : Option Nat) : State :=
  let bytes := (ws.map (fun w => w.data.length)).sum
  let s := (s.countRoute (some (daleOf t)) none bytes).count (0x300000 + 64 * t + 40) bytes
  let s := s.modTile t (fun x => x.modX q.ticket (fun q =>
    { q with outst := q.outst.map (fun w => if ws.contains w then { w with serial := some f.nextSerial } else w) }))
  let s := s.putFlow { f with
    port := port, nextSerial := (f.nextSerial + 1) % 65536, opened := true, unsettled := f.unsettled ++ [pk]
    sentAt := if f.unsettled.isEmpty then s.clk.now else f.sentAt }
  let s := s.emit port pk true
  if port.isSome then s.frame pk.job.toNat pk.keyId.toNat t else s

/-- PACKET_INJECT: elements of the transfer at the head of a queue leave in one packet; without a route or a key left the transfer
ends (R375, R382, R384). -/
def execPacketInject (t : Byte) (queue : BitVec 2) (n : W16) (s : State) : Host.Outcome State Fault Refusal :=
  let t := t.toNat
  match (s.tile t).headX queue.toNat with
  | none => .next s
  | some q =>
    let ws := q.packetPart n.toNat
    if ws.isEmpty || !s.live then .next s
    else match ((s.tile t).ctx.bind s.jobOf).bind s.jobKey with
      | none => .next (s.failOuts t q (fun w => w.kind = 3 && w.serial.isNone) .permission)
      | some k =>
        let f := s.sflow t q.node
        let r := s.flowRoute f k.job
        let pk := s.packetOf t q ws f k r.1 r.2.1
        let own := q.node = s.links.inst.node
        if 2 ^ 64 ≤ NMap.get 0 s.links.frames (frameKey k.job k.sendId t) + 1 then
          .next (s.failOuts t q (fun w => w.kind = 3 && w.serial.isNone) .noResource)
        else if 32 ≤ f.unsettled.length then .next s
        else if own then .next (s.sendPacket t q ws f pk none)
        else match r.2.2 with
          | none => .next (s.failOuts t q (fun w => w.kind = 3 && w.serial.isNone) .targetOff)
          | some p => if s.portTakes p pk true then .next (s.sendPacket t q ws f pk (some p)) else .next s

/-! ### Answers (R379, R380, R408) -/

/-- An answer to a request packet: acknowledgement (4), refusal (5) or retry later (6). Answers are a flow of class 1, whose plane they
keep; nothing acknowledges them (R376, R378, R379). -/
def State.answerTo (s : State) (pk : Packet) (ptype : Nat) (st : Status) : State :=
  let node := pk.srcNode.toNat
  let job := pk.job.toNat
  let f := s.flowOf pk.srcTile.toNat node 1
  let r := s.flowRoute f job
  let a : Packet :=
    { ptype := BitVec.ofNat 4 ptype, xdir := r.1, ydir := r.2.1, dstNode := pk.srcNode, srcNode := BitVec.ofNat 14 s.links.inst.node,
      srcTile := pk.srcTile, tgen := BitVec.ofNat 8 (s.genFor job node), job := pk.job, xtag := 0,
      serial := BitVec.ofNat 16 f.nextSerial,
      keyId := ((s.jobKey job).map (fun k => BitVec.ofNat 8 k.sendId)).getD pk.keyId, opened := !f.opened, resent := false,
      dstVa := BitVec.ofNat 64 (pk.serial.toNat * 2 ^ 48 + (if ptype = 6 then 0 else st.code * 2 ^ 40)),
      birth := BitVec.ofNat 32 s.clk.now, payload := [], authOk := true, poison := [] }
  if node = s.links.inst.node then s.emit none a true
  else match r.2.2 with
    | some p =>
      let f := { f with port := some p, nextSerial := (f.nextSerial + 1) % 65536, opened := true, lastAck := s.clk.now }
      ((s.putFlow f).emit (some p) a true).frame job a.keyId.toNat pk.srcTile.toNat
    | none => s

/-- The answer that reports a status: an acknowledgement for what was applied or is stale, a refusal otherwise. -/
def State.answerSt (s : State) (pk : Packet) (st : Status) : State :=
  s.answerTo pk (if st = .ok || st = .stale || st = .poisoned then 4 else 5) st

/-- Whether a packet was sent more than 500 µs ago; a birth ahead of the count is none (R380). -/
def State.tooOld (s : State) (pk : Packet) : Bool :=
  let d := (s.clk.now % 2 ^ 32 + 2 ^ 32 - pk.birth.toNat) % 2 ^ 32
  decide (500000 < d) && decide (d < 2 ^ 31)

/-! ### Receivers (R256, R380) -/

/-- A run of bytes cut where the poison indication begins or ends: (offset, length, poisoned). `ps` lists the poisoned ranges in rising
order. -/
def markRuns (at_ n : Nat) : List (Nat × Nat) → List (Nat × Nat × Bool)
  | [] => if at_ < n then [(at_, n - at_, false)] else []
  | p :: r =>
    let e := min (p.1 + p.2) n
    (if at_ < min p.1 n then [(at_, min p.1 n - at_, false)] else []) ++
    (if max at_ p.1 < e then [(max at_ p.1, e - max at_ p.1, true)] else []) ++ markRuns (max at_ e) n r

/-- The pieces of a request packet: addresses, bytes and poison, one per operand, or for a write one per unit of 64 B and run of
equal poison (R214, R373). -/
def packetPieces (pk : Packet) : List (Nat × List Byte × Bool) :=
  let va := pk.dstVa.toNat
  let skip := if pk.ptype = 3 then 8 else 0
  let body := pk.payload.drop skip
  let marks := pk.poison.map (fun p => (p.1 - skip, p.2))
  if pk.ptype = 0 then (markRuns 0 body.length marks).flatMap (fun r =>
    (chunks (va + r.1) r.2.1).map (fun c => (c.1, (body.drop (c.1 - va)).take c.2, r.2.2)))
  else
    let w := if pk.ptype = 2 then 8 else 4
    (List.range (body.length / w)).map (fun i => (va + w * i, (body.drop (w * i)).take w,
      marks.any (fun p => decide (p.1 < w * i + w) && decide (w * i < p.1 + p.2))))

/-- A destination of another package's packet translated in the context of its job: its place and key (R374). -/
def State.rxXlate (s : State) (c va : Nat) : Answer (Nat × Nat) :=
  if 2 ^ 52 ≤ va then (.error .translationFault, s)
  else if inKv va then
    let at_ := fun (s : State) => match s.kvCheck none c va true with
      | .run _ _ pa off => if s.kvMapBad va then (.error .poisoned, s) else (.ok (pa + off, s.keyOf c), s)
      | .fails st => (.error st, s)
      | .swapped => (.error .translationFault, s)
    match s.kvCheck none c va true, s.kvAttn (kvSlot va) (kvLayer va) with
    | .swapped, some a =>
      match s.runIn (kvSlot va) (runKey (kvLayer va) (kvOff va / a.runBytes)) goodTags with
      | some s => at_ s
      | none => (.error .translationFault, s)
    | _, _ => at_ s
  else (s.stewardXlate c va true goodTags).ifOk (fun x s => (.ok (x.1, s.leafKey c x.1 x.2), s))

/-- A piece of a packet at its place. -/
structure Piece where
  pa : Nat
  key : Nat
  data : List Byte
  bad : Bool
  deriving DecidableEq, Repr, Inhabited

/-- The pieces of a packet translated, in order. -/
def State.rxPlaces (s : State) (c : Nat) (ps : List (Nat × List Byte × Bool)) : Answer (List Piece) :=
  ps.foldl (fun (a : Answer (List Piece)) p => a.ifOk (fun l s => (s.rxXlate c p.1).ifOk (fun x s =>
    (.ok (l ++ [{ pa := x.1, key := x.2, data := p.2.1, bad := p.2.2 }]), s)))) (.ok [], s)

/-- Whether a destination of a packet cannot be reached yet: a page or run whose backing is held, a tile under its scrub pass
(R191, R314). -/
def State.rxHeld (s : State) (c : Nat) (pk : Packet) : Bool :=
  (packetPieces pk).any (fun p =>
    if inKv p.1 then
      match s.kvCheck none c p.1 true with
      | .swapped => !(((s.kvAttn (kvSlot p.1) (kvLayer p.1)).bind (fun a =>
          NMap.get? (s.seq (kvSlot p.1)).runs (runKey (kvLayer p.1) (kvOff p.1 / a.runBytes)))).map (fun r =>
            s.backingReady r.swap)).getD true
      | _ => false
    else s.stewardWaits c p.1 p.2.1.length)

/-- The status with which a piece is refused at its place: the target, residency, and what a reduction accepts (R192, R201, R206,
R345). -/
def State.pieceFails (s : State) (ptype : Nat) (p : Piece) : Option Status :=
  let comp := ((s.regionAt p.pa).map (·.compressed)).getD false
  let perm := match s.zone p.pa with
    | .sp t off => (s.tile t).residentAt off p.data.length || ptype = 3
    | .host _ => ptype ≠ 0
    | .hbm _ => ptype ≠ 0 && comp
    | .far _ => ptype = 3 || (ptype ≠ 0 && comp)
    | .hole => false
  if perm then some .permission else s.targetFails p.pa true

/-- Whether a window covers every piece of a packet. -/
def State.covered (s : State) (w : Window) (ps : List Piece) : Bool :=
  ps.all (fun p => match s.zone p.pa with
    | .sp t off => t = w.tile && decide (w.off ≤ off) && decide (off + p.data.length ≤ w.off + w.len)
    | _ => false)

/-- What the receive checks 7 to 9 find. -/
inductive Rx where
  | wait
  | stale (s : State)
  | refuse (st : Status) (s : State)
  | done (st : Status) (s : State)

/-- Whole compressed groups of a packet written; none where it does not consist of whole groups or one does not encode. -/
def State.rxGroups (s : State) (ps : List Piece) : Option State :=
  match ps.head? with
  | none => some s
  | some p =>
    match s.regionAt p.pa with
    | none => none
    | some r =>
      let body := ps.flatMap (fun p => p.data.map (fun b => (b, p.bad)))
      if (p.pa - r.base) % 192 ≠ 0 || body.length % 192 ≠ 0 || ps.any (fun x => s.regionAt x.pa ≠ some r) then none
      else (List.range (body.length / 192)).foldlM (fun s i =>
        let part := (body.drop (192 * i)).take 192
        let g := s.groupWrite r ((p.pa - r.base) / 192 + i) (part.map (·.1)) p.key (part.any (·.2))
        if g.1 then some g.2 else none) s

/-- The pieces of a packet applied (R211 to R213, R346 to R350). -/
def State.rxApply (s : State) (c : Nat) (pk : Packet) (ps : List Piece) : Except Status State :=
  let ptype := pk.ptype.toNat
  let s := ps.foldl (fun s p =>
    let s := s.countRoute none (daleAt p.pa) p.data.length
    match s.zone p.pa with
    | .sp u _ => s.count (0x300000 + 64 * u + 48) p.data.length
    | _ => s.countTier p.pa (s.stored p.pa p.data.length) true) s
  if ptype = 0 && ps.any (fun p => ((s.regionAt p.pa).map (·.compressed)).getD false) then
    match s.rxGroups ps with
    | some s => .ok s
    | none => .error .formatFault
  else ps.foldlM (fun s p =>
    if ptype = 0 then .ok (s.physWrite p.pa p.data p.key p.bad)
    else if ptype = 3 then (s.fp32Operand c p.pa (leAt pk.payload 0 8) p.data p.key p.bad).map (fun r => r.1)
    else .ok (s.applyAdd p.pa p.data p.key p.bad)) s

/-- The checks 7 to 9 of R380: windows, rights, the write itself. -/
def State.rxCheck (s : State) (c : Nat) (pk : Packet) : Rx :=
  let tag := pk.xtag.toNat
  if s.rxHeld c pk then .wait
  else match s.rxPlaces c (packetPieces pk) with
  | (.error st, s) => if tag ≠ 0 then .stale s else .refuse st s
  | (.ok ps, s) =>
    let win := s.windows.find? (fun w => w.closing.isNone && w.ctx = c && w.tag = tag && s.covered w ps)
    let inside := ps.any (fun p => match s.zone p.pa with | .sp t off => s.inWindow t off p.data.length | _ => false)
    if (tag ≠ 0 && win.isNone) || (tag = 0 && inside) then .stale s
    else match ps.findSome? (s.pieceFails pk.ptype.toNat) with
      | some st => .refuse st s
      | none =>
        match s.rxApply c pk ps with
        | .error st => .refuse st s
        | .ok s =>
          let n := pk.payload.length
          let s := if tag = 0 then s else
            { s with windows := s.windows.map (fun w =>
                if w.ctx = c && w.tag = tag && w.closing.isNone then
                  let w := { w with count := w.count + n }
                  if w.expect ≤ w.count then w.close Status.ok.code else w
                else w) }
          .done (if pk.poison.isEmpty then .ok else .poisoned) s

/-- The status for a packet whose generation or target partition does not match (R380 row 4, R407). -/
def State.partRefuses (s : State) (c gen : Nat) : Option Status :=
  match s.partOfCtx c with
  | none => some .targetOff
  | some p =>
    if s.gen p ≠ gen || s.partInReset p then some .targetReset
    else if (NMap.get? s.parts p).isNone then some .targetOff else none

/-- A flow entry written back. -/
def State.putRx (s : State) (f : Flow) : State :=
  let rest := s.links.flows.filter (fun g => !(g.node = f.node && g.tile = f.tile && g.cls = f.cls))
  { s with links := { s.links with flows := rest ++ [f] } }

/-- The serial of a flow passed with a status: the last 32 are kept (R378). -/
def Flow.pass (f : Flow) (st : Status) : Flow :=
  { f with expected := (f.expected + 1) % 65536, statuses := f.statuses.drop (f.statuses.length - 31) ++ [(f.expected, st)] }

/-- The checks 5 to 9 in the packet's flow; none where the packet has to wait (R191). -/
def State.rxFlow (s : State) (port c : Nat) (pk : Packet) (f : Flow) : Option State :=
  let f := { f with last := s.clk.now }
  let d := (pk.serial.toNat + 65536 - f.expected) % 65536
  if 32768 ≤ d then
    match f.statuses.find? (fun e => e.1 = pk.serial.toNat) with
    | some e => some ((s.putRx f).answerSt pk e.2)
    | none => some (s.putRx f)
  else if d ≠ 0 then some (s.putRx f)
  else match s.rxCheck c pk with
    | .wait => none
    | .stale s => some ((((s.putRx (f.pass .stale)).countPort port 15 1).count (0x305000 + 8 * c) 1).answerSt pk .stale)
    | .refuse st s => some ((s.putRx (f.pass st)).answerSt pk st)
    | .done st s => some ((s.putRx (f.pass st)).answerSt pk st)

/-- The buffers that a packet held at a receiving port freed: its credits go back, also where the packet is dropped (R256, R371). -/
def State.freeFlits (s : State) (port vc : Nat) (pk : Packet) : State :=
  if port < 12 && s.live then { s with links := { s.links with out := s.links.out ++ [.credit port vc pk.flits] } } else s

/-- A request packet received; one of an unknown type is dropped and counted (R259, R373, R374, R378, R380). Ports from 12 on stand for none: the packet never left the package. -/
def State.receive (s0 : State) (port : Nat) (pk : Packet) (ptype : Nat) : State :=
  let far := decide (port < 12)
  if pk.dstNode.toNat ≠ s0.links.inst.node || (far && !(s0.ohm port).up) || !s0.live || s0.boot.inReset then s0
  else if pk.isUnknown then (s0.countPort port 14 1).freeFlits port 0 pk
  else if pk.ptype.toNat ≠ ptype then s0
  else
    let s := (s0.countPort port 4 pk.payload.length).freeFlits port 0 pk
    if s.tooOld pk then s.countPort port 14 1
    else if far && !s.authentic pk then
      (s.countPort port 14 1).raise (evUnit 5 port 0x1B 1 [(24, 2, pk.srcNode.toNat), (26, 2, pk.job.toNat)])
    else match s.ctxOfJob pk.job.toNat with
      | none => s.answerTo pk 5 .permission
      | some c =>
        match s.partRefuses c pk.tgen.toNat with
        | some st => s.answerTo pk 5 st
        | none =>
          let old := s.links.flows.find? (fun f => f.node = pk.srcNode.toNat && f.tile = pk.srcTile.toNat && f.cls = 0)
          let seen := (old.map (fun f => f.statuses.any (fun e => e.1 = pk.serial.toNat))).getD false
          if pk.opened && !(pk.resent && seen) then
            if old.isNone && decide (16384 ≤ s.links.flows.length) then s.answerTo pk 6 .ok
            else (s.rxFlow port c pk { node := pk.srcNode.toNat, tile := pk.srcTile.toNat, cls := 0,
                                       expected := pk.serial.toNat, statuses := [], last := s.clk.now }).getD s0
          else match old with
            | none => s
            | some f => (s.rxFlow port c pk f).getD s0

/-- WRITE. -/
def execWrite (port : BitVec 4) (pk : Packet) (s : State) : Host.Outcome State Fault Refusal :=
  .next (s.receive port.toNat pk 0)

/-- INT32_ADD. -/
def execInt32Add (port : BitVec 4) (pk : Packet) (s : State) : Host.Outcome State Fault Refusal :=
  .next (s.receive port.toNat pk 1)

/-- INT64_ADD. -/
def execInt64Add (port : BitVec 4) (pk : Packet) (s : State) : Host.Outcome State Fault Refusal :=
  .next (s.receive port.toNat pk 2)

/-- FP32_ADD. -/
def execFp32Add (port : BitVec 4) (pk : Packet) (s : State) : Host.Outcome State Fault Refusal :=
  .next (s.receive port.toNat pk 3)

/-! ### Answers received (R379, R380, R408) -/

/-- The elements that a packet carried settled with a status: applied or stale ones are acknowledged, others end the transfer. -/
def State.settlePacket (s : State) (t node serial : Nat) (st : Status) : State :=
  match (s.tile t).xfers.find? (fun q => q.remote && q.node = node && q.outst.any (fun w => w.serial = some serial)) with
  | none => s
  | some q =>
    let hit := fun (w : OutW) => decide (w.serial = some serial)
    if st = .ok || st = .stale || st = .poisoned then
      let s := s.modTile t (fun x => x.modX q.ticket (fun q => { q with anyPoison := q.anyPoison || st = .poisoned }))
      (s.dropOut t q.ticket hit).afterAck t q.ticket
    else
      s.failOuts t q hit st

/-- When a packet was sent, from the low half of the count that it carries. -/
def State.sentTime (s : State) (pk : Packet) : Nat := s.clk.now - (s.clk.now % 2 ^ 32 + 2 ^ 32 - pk.birth.toNat) % 2 ^ 32

/-- A packet of a flow settled. -/
def State.settleFlow (s : State) (f : SFlow) (serial : Nat) (st : Status) : State :=
  let rest := f.unsettled.filter (fun p => p.serial.toNat ≠ serial)
  let f' := { f with unsettled := rest, lastAck := s.clk.now, sentAt := (rest.head?.map s.sentTime).getD s.clk.now }
  (s.putFlow f').settlePacket f.tile f.node serial st

/-- An answer received: it must be for this package, in time, authentic and of the requester's present generation (R380, R408). -/
def State.answered (s : State) (pk : Packet) (ptype : Nat) (f : SFlow → State → State) : State :=
  let fl := s.sflow pk.srcTile.toNat pk.srcNode.toNat
  let port := fl.port.getD 12
  let s := if pk.ptype.toNat = ptype && pk.dstNode.toNat = s.links.inst.node && !s.boot.inReset then s.freeFlits port 1 pk else s
  if pk.ptype.toNat ≠ ptype || pk.dstNode.toNat ≠ s.links.inst.node || !s.live || s.boot.inReset then s
  else if s.tooOld pk then s.countPort port 14 1
  else if pk.srcNode ≠ pk.dstNode && !s.authentic pk then
    (s.countPort port 14 1).raise (evUnit 5 port 0x1B 1 [(24, 2, pk.srcNode.toNat), (26, 2, pk.job.toNat)])
  else if s.genFor pk.job.toNat s.links.inst.node ≠ pk.tgen.toNat then s.countPort port 15 1
  else if fl.unsettled.any (fun p => p.serial.toNat = bits pk.dstVa.toNat 48 16) then f fl s
  else s

/-- ACKNOWLEDGEMENT. -/
def execAcknowledgement (pk : Packet) (s : State) : Host.Outcome State Fault Refusal :=
  .next (s.answered pk 4 (fun f s =>
    s.settleFlow f (bits pk.dstVa.toNat 48 16) ((Status.ofCode (bits pk.dstVa.toNat 40 8)).getD .ok)))

/-- REFUSAL: nothing of the packet was applied. -/
def execRefusal (pk : Packet) (s : State) : Host.Outcome State Fault Refusal :=
  .next (s.answered pk 5 (fun f s =>
    match Status.ofCode (bits pk.dstVa.toNat 40 8) with
    | some st => s.settleFlow f (bits pk.dstVa.toNat 48 16) st
    | none => s))

/-- RETRY_LATER: the receiver had no free flow entry. -/
def execRetryLater (pk : Packet) (s : State) : Host.Outcome State Fault Refusal :=
  .next (s.answered pk 6 (fun f s => s.putFlow { f with laterAt := some s.clk.now }))

/-- The unsettled packets of a flow sent again, from the oldest, with a new birth. -/
def State.resend (s : State) (f : SFlow) (port : Option Nat) (d : Bool × Bool) (mark : Bool) : State :=
  let ps := f.unsettled.map (fun (p : Packet) =>
    { p with resent := p.resent || mark, birth := BitVec.ofNat 32 s.clk.now, xdir := d.1, ydir := d.2 })
  let s := s.putFlow { f with unsettled := ps, port := port, sentAt := s.clk.now, laterAt := none }
  ps.foldl (fun s p =>
    let s := (s.emit port p true).frame p.job.toNat p.keyId.toNat f.tile
    if mark then s.countPort (port.getD 12) 16 1 else s) s

/-- RETRY_LATER_TIMER: 10 µs after a retry-later answer. -/
def execRetryLaterTimer (t : Byte) (node : BitVec 14) (s : State) : Host.Outcome State Fault Refusal :=
  let f := s.sflow t.toNat node.toNat
  match f.laterAt, f.unsettled.head? with
  | some a, some pk =>
    if s.clk.now < a + 10000 then .next s
    else
      let r := s.flowRoute f pk.job.toNat
      .next (s.resend f r.2.2 (r.1, r.2.1) false)
  | _, _ => .next s

/-- Whether the port that carried a flow is lost: down, or disabled in abort mode. -/
def State.portLost (s : State) (f : SFlow) : Bool :=
  (f.port.map (fun p => !(s.ohm p).up || (s.isDisabled 1 p && !s.drainsPort p))).getD false

/-- A flow whose port is lost takes a new one, or its packets are refused locally (R379, R384). -/
def State.moveFlow (s : State) (f : SFlow) : State :=
  match f.unsettled.head? with
  | none => s.putFlow { f with port := none }
  | some pk =>
    let st := if (f.port.map (fun p => (s.ohm p).up && s.isDisabled 1 p)).getD false then Status.cancelled else .targetOff
    let r := s.flowRoute { f with port := none } pk.job.toNat
    match r.2.2 with
    | some p => s.resend f (some p) (r.1, r.2.1) true
    | none => f.unsettled.foldl (fun s p => s.settleFlow (s.sflow f.tile f.node) p.serial.toNat st) s

/-- RESEND_TIMEOUT: 50 µs since the oldest unsettled packet was sent, or the loss of the port. -/
def execResendTimeout (t : Byte) (node : BitVec 14) (s : State) : Host.Outcome State Fault Refusal :=
  let f := s.sflow t.toNat node.toNat
  match f.unsettled.head? with
  | none => .next s
  | some pk =>
    if s.portLost f then .next (s.moveFlow f)
    else if s.clk.now < f.sentAt + 50000 then .next s
    else
      let r := s.flowRoute f pk.job.toNat
      .next (s.resend f f.port (r.1, r.2.1) true)

/-- FLOW_FORGET: 1 ms after a flow's last packet, or for a sender its last acknowledgement. -/
def execFlowForget (sender : Bool) (t : Byte) (node : BitVec 14) (cls : BitVec 1) (s : State) :
    Host.Outcome State Fault Refusal :=
  let due := fun (last : Nat) => decide (last + 1000000 ≤ s.clk.now)
  if sender then
    .next { s with links := { s.links with sflows := s.links.sflows.filter (fun f =>
      !(f.tile = t.toNat && f.node = node.toNat && f.cls = cls.toNat && f.unsettled.isEmpty && due f.lastAck)) } }
  else
    .next { s with links := { s.links with flows := s.links.flows.filter (fun f =>
      !(f.tile = t.toNat && f.node = node.toNat && f.cls = cls.toNat && due f.last)) } }

/-! ### Transit and generations (R377, R406) -/

/-- TRANSIT_FORWARD: a packet for another node goes on unchanged, or a request is dropped with a refusal where its next port is
down or disabled. -/
def execTransitForward (port : BitVec 4) (pk : Packet) (s : State) : Host.Outcome State Fault Refusal :=
  let p := port.toNat
  if pk.dstNode.toNat = s.links.inst.node || !(s.ohm p).up || !s.live || s.boot.inReset then .next s
  else
    let cls := if pk.isRequest then 0 else 1
    match (s.nextPort pk.srcTile.toNat pk.dstNode.toNat cls pk.xdir pk.ydir).filter s.portOpen with
    | some q =>
      if s.portTakes q pk (decide (10 ≤ q) && decide (p < 10)) then
        .next (((s.countPort p 9 pk.payload.length).freeFlits p 2 pk).emit (some q) pk false)
      else .next s
    | none =>
      let s := (s.countPort p 9 pk.payload.length).freeFlits p 2 pk
      .next (if pk.isRequest then s.answerTo pk 5 .targetOff else s)

/-- GENERATION_NOTICE: a peer partition's generation for a job. -/
def execGenerationNotice (m : MgmtHdr) (job : W16) (_part : BitVec 4) (gen : Byte) (s : State) :
    Host.Outcome State Fault Refusal :=
  if !s.mgmtOk m false then .next (s.mgmtDrop m)
  else .next { s with links := { s.links with
    peerGen := NMap.put s.links.peerGen (job.toNat * 16384 + m.node.toNat) gen.toNat } }

end Sys2Proof.Machine
end

