-- ==== Sys2Proof/Machine/TimeRows.lean ====
section
/-! DEFINITION. Barriers across packages (15, R322, R323) and time across the machine (02, R34, R37; 18, R387, R388). -/

namespace Sys2Proof.Machine

/-! ### Barriers of job scope (R322, R323) -/

/-- BARRIER_ARRIVAL_FORWARD: counted at the home; if the home's partition is in reset or off, the barrier breaks. -/
def execBarrierArrivalForward (m : MgmtHdr) (job ident : W16) (tgen : Byte) (s : State) : Host.Outcome State Fault Refusal :=
  if !s.mgmtOk m false then .next (s.mgmtDrop m)
  else match s.ctxOfJob job.toNat with
    | none => .next s
    | some c =>
      if (s.partRefuses c tgen.toNat).isSome then .next (s.breakBarrier c ident.toNat)
      else .next (s.countArrival c ident.toNat)

/-- BARRIER_COMPLETION: the phase completes here, or the barrier is broken. The first completion taken decides every wait of this
package (R322), so that none is awaited after it until another arrival is sent (log entry 165). -/
def execBarrierCompletion (m : MgmtHdr) (job ident : W16) (broken : Bool) (s : State) : Host.Outcome State Fault Refusal :=
  if !s.mgmtOk m false then .next (s.mgmtDrop m)
  else match s.ctxOfJob job.toNat with
    | none => .next s
    | some c =>
      match NMap.get? s.barriers (objKey c ident.toNat) with
      | none => .next s
      | some b =>
        if s.isHome b || b.broken then .next s
        else if broken then .next (s.breakBarrier c ident.toNat)
        else .next ({ s with barriers := NMap.put s.barriers (objKey c ident.toNat)
                              { b with phase := (b.phase + 1) % 2 ^ 32, lastSent := none } }.decideWaits c)

/-- BARRIER_TIMEOUT: no completion within 10 ms of the last arrival sent. -/
def execBarrierTimeout (ctx : Byte) (ident : W16) (s : State) : Host.Outcome State Fault Refusal :=
  match (NMap.get? s.barriers (objKey ctx.toNat ident.toNat)).bind (fun (b : Barrier) => b.lastSent) with
  | some a => .next (if a + 10000000 ≤ s.clk.now then s.breakBarrier ctx.toNat ident.toNat else s)
  | none => .next s

/-! ### Time (R34, R36, R37, R387, R388) -/

/-- The count loses its alignment: the notice of R37. A slew under way runs on to its end (DESIGN CHOICE, log entry 156). -/
def State.loseSync (s : State) : State :=
  let e := evUnit 8 0 0x18 2 []
  let s' := { s with clk := { s.clk with synced := false } }
  if s.clk.synced then s'.raise e else s'

/-- The count stepped forward (R34). -/
def Clock.step (c : Clock) (n : Nat) : Clock := { c with now := c.now + n, stepped := true, slew := 0 }

/-- TIME_EXCHANGE: every 1 ms a package other than the master asks its parent, after a missed exchange its alternate; three missed
in a row end synced. -/
def execTimeExchange (s : State) : Host.Outcome State Fault Refusal :=
  let c := s.clk
  let l := s.links.inst
  if c.master || s.boot.inReset || !s.live || (c.t1.isSome || c.lastEx ≠ 0) && decide (c.now < c.t1.getD c.lastEx + 1000000) then
    .next s
  else
    let missed := if c.t1.isSome then c.missed + 1 else c.missed
    let port := if missed % 2 = 1 && l.alternate ≠ 0xFF then l.alternate else l.parent
    let s := { s with clk := { c with t1 := some c.now, missed := missed } }
    let s := if 3 ≤ missed then s.loseSync else s
    .next (s.send (.timeRequest port c.now))

/-- The count after an exchange that found an offset (R34, R387). A count more than 1 ms ahead is left as it is, and its first
alignment is still to come. last_exchange_ns takes the stepped count of an exchange that steps (DESIGN CHOICE, log entry 155). -/
def Clock.align (c : Clock) (off : Int) : Clock :=
  let big := decide (1000000 < off.natAbs)
  let c := { c with t1 := none, missed := 0, lastEx := c.now }
  let c := if 0 < off && (big || !c.everAligned) then { c.step off.toNat with lastEx := c.now + off.toNat }
    else if big then { c with slew := 0 }
    else { c with slew := off }
  { c with everAligned := c.everAligned || !(big && decide (off < 0)), synced := c.synced || !big }

/-- TIME_EXCHANGE_REPLY: the offset is ((t2 - t1) + (t3 - t4)) / 2. -/
def execTimeExchangeReply (m : MgmtHdr) (t2 t3 t4 : W64) (s : State) : Host.Outcome State Fault Refusal :=
  if !s.mgmtOk m true then .next (s.mgmtDrop m)
  else match s.clk.t1 with
    | none => .next s
    | some t1 =>
      let off : Int := (((t2.toNat : Int) - t1) + ((t3.toNat : Int) - t4.toNat)) / 2
      let s := { s with clk := s.clk.align off }
      let s := if 1000000 < off.natAbs then s.loseSync else s
      .next (if off < -1000000 then s.send (.timeAhead s.clk.now) else s)

/-- TIME_EXCHANGE_AT_PARENT: the master, or a package with synced 1, replies. -/
def execTimeExchangeAtParent (m : MgmtHdr) (t1 t2 : W64) (s : State) : Host.Outcome State Fault Refusal :=
  if !s.mgmtOk m true then .next (s.mgmtDrop m)
  else if !(s.clk.master || s.clk.synced) then .next s
  else .next (s.send (.timeReply m.via.toNat t1.toNat t2.toNat s.clk.now))

/-- TIME_AHEAD_NOTICE: the master steps to 1 ms past a count that is ahead of its own. -/
def execTimeAheadNotice (m : MgmtHdr) (count : W64) (s : State) : Host.Outcome State Fault Refusal :=
  if !s.mgmtOk m false then .next (s.mgmtDrop m)
  else if !s.clk.master || count.toNat ≤ s.clk.now then .next s
  else .next { s with clk := s.clk.step (count.toNat + 1000000 - s.clk.now) }

/-- CHECK_PEER_EXCHANGE: two offsets above 250 ns in a row raise the cross-check event. -/
def execCheckPeerExchange (offset : Int) (s : State) : Host.Outcome State Fault Refusal :=
  if offset.natAbs ≤ 250 then .next { s with clk := { s.clk with peerBad := 0 } }
  else if s.clk.peerBad = 0 then .next { s with clk := { s.clk with peerBad := 1 } }
  else .next ({ s with clk := { s.clk with peerBad := 0 } }.raise
    (evUnit 8 0 0x17 1 [(24, 2, s.links.inst.checkPeer), (32, 8, wrap 64 offset)]))

end Sys2Proof.Machine
end

