-- ==== Sys2Proof/Machine/Functions.lean ====
section
/-! DEFINITION. FUNCTION_DISABLE and FUNCTION_ENABLE (14, R314, R315; 18, R384; 20, R419). Kinds: 0 glen, 1 Ohmist port, 2 far-tier
port, 3 queue pair. -/

namespace Sys2Proof.Machine

/-- Whether a target exists. -/
def functionIndexOk (kind index : Nat) : Bool :=
  decide (index < (if kind = 0 then 16 else if kind = 1 then 12 else if kind = 2 then 2 else 4096))

/-- Whether an address belongs to a glen or a far-tier port. -/
def State.inTarget (s : State) (kind index pa : Nat) : Bool :=
  match s.zone pa with
  | .sp u _ => decide (kind = 0) && glenOf u = index
  | .far p => decide (kind = 2) && decide (p = index)
  | _ => false

/-- Whether a transfer is at work on a target: by a write on its way or by its next element. -/
def State.aims (s : State) (kind index t : Nat) (q : Xfer) : Bool :=
  q.outst.any (fun w => w.kind ≠ 3 && s.inTarget kind index w.pa) ||
  (q.st != .queued && decide (q.nextIssue < q.units) &&
    (match s.srcPlaces t q q.nextIssue with
      | .ok ps => ps.any (fun p => s.inTarget kind index p.2.1)
      | .error _ => false) ||
    (q.st != .queued && decide (q.nextIssue < q.units) && !q.remote &&
      (match s.dstPlaces t q q.nextIssue q.outLen with
        | .ok ps => ps.any (fun p => s.inTarget kind index p.2.1)
        | .error _ => false)))

/-- The transfers of tiles outside a glen that are at work on a target: tile and ticket. -/
def State.aiming (s : State) (kind index : Nat) : List (Nat × Nat) :=
  (NMap.keysOf s.tiles (fun t _ => !(kind = 0 && glenOf t = index))).flatMap (fun t =>
    ((s.tile t).xfers.filter (s.aims kind index t)).map (fun q => (t, q.ticket)))

/-- Work commands with an item on a glen that has not ended. -/
def State.worksAt (s : State) (g : Nat) : List Nat :=
  NMap.keysOf s.works (fun _ w => w.items.any (fun i => glenOf i.tile = g && (match i.st with | .ended _ _ => false | _ => true)))

/-- The transfers of a list aborted with a status. -/
def State.endXs (s : State) (xs : List (Nat × Nat)) (st : Status) : State :=
  xs.foldl (fun s e => match (s.tile e.1).xfers.find? (fun q => q.ticket = e.2) with
    | some q => s.abortX e.1 q st
    | none => s) s

/-- The work of a glen aborted (R314, R315): its items, transfers and windows are cancelled, with the other items of its commands
and the epochs they run under; commands not begun answer at once. -/
def State.abortGlen (s : State) (g : Nat) : State :=
  let s := (s.worksAt g).foldl (fun s n =>
    match NMap.get? s.works n with
    | some w => if w.started then s.cancelWork n else s.answerWork n .cancelled 0 0
    | none => s) s
  let s := (List.range' (16 * g) 16).foldl State.cancelTile s
  let eps := NMap.keysOf s.seqs (fun n q => q.epoch ≠ 0 &&
    (s.works.any (fun e => e.2.slot = n && e.2.started && e.2.items.any (fun i => glenOf i.tile = g))))
  let s := eps.foldl (fun s n => s.decideEpoch n false 0) s
  s.closeWindows (fun w => glenOf w.tile = g) .cancelled

/-- What an abort does at once. -/
def State.abortFunction (s : State) (kind index : Nat) : State :=
  match kind with
  | 0 => (s.abortGlen index).endXs (s.aiming 0 index) .cancelled
  | 1 => (s.links.sflows.filter (fun f => f.port = some index)).foldl State.moveFlow s
  | 2 => s.endXs (s.aiming 2 index) .cancelled
  | _ =>
    let mine := fun (h : Pkt) => decide (h.qp.toNat = index)
    let s := (NMap.keysOf s.works (fun _ w => mine w.h)).foldl (fun s n =>
      match NMap.get? s.works n with
      | some w => if w.started then s.cancelWork n else s.answerWork n .cancelled 0 0
      | none => s) s
    (s.waits.filter (fun w => mine w.h)).foldl (fun s w => s.replyS w.h .cancelled)
      { s with waits := s.waits.filter (fun w => !mine w.h) }

/-- Whether nothing that a disable waits for is left. -/
def State.functionIdle (s : State) (d : Disable) : Bool :=
  match d.kind with
  | 0 =>
    (s.worksAt d.index).isEmpty && (s.aiming 0 d.index).isEmpty &&
    (List.range' (16 * d.index) 16).all (fun t =>
      let x := s.tile t
      decide (x.core.run = .idle) && x.quiet && x.xfers.isEmpty)
  | 1 => s.links.sflows.all (fun f => !(f.port = some d.index && !f.unsettled.isEmpty))
  | 2 => (s.aiming 2 d.index).isEmpty
  | _ => decide ((s.qp d.index).taken = 0)

/-- A target as it stands once drained or aborted (R314, R384, R417). A quad that is off keeps scratchpad and instruction store; the
logic of its tiles comes back as an engine reset leaves it (assumption log entry 61). -/
def State.functionOff (s : State) (kind index : Nat) : State :=
  match kind with
  | 0 =>
    let s := (List.range' (4 * index) 4).foldl (fun s q => s.modQuad q (fun x =>
      if x.off then x else { x with off := true, offCause := 1 })) s
    { s with tiles := NMap.mapv s.tiles (fun t x => if glenOf t = index then x.afterReset else x) }
  | 1 =>
    let up := (s.ohm index).up
    let s := s.modOhm index (fun x => { x with disabled := true, up := false, degraded := false, lanes := 0, replay := [], waiting := [] })
    let s := { s with links := { s.links with sflows := s.links.sflows.map (fun f =>
      if f.port = some index then { f with port := none } else f) } }
    if up then s.send (.linkState index false) else s
  | 2 => s.modFar index (fun f => { f with enabled := false })
  | _ => s.modQp index (fun q => { q with fnDis := true })

/-- A target returned to service (R191, R314, R337, R339, R367, R419). A quad of a glen outside the partitions stays off. -/
def State.functionOn (s : State) (kind index : Nat) (dev : FarDev) : State :=
  let s := { s with disabled := s.disabled.filter (fun e => e ≠ (kind, index)) }
  match kind with
  | 0 => (List.range' (4 * index) 4).foldl (fun s q => s.modQuad q (fun x =>
      if x.off && x.offCause = 1 then
        if (s.partOfGlen index).isNone && s.cfg.active.isSome then { x with offCause := 3 }
        else { x with off := false, offCause := 0, gov := 50, scrubPass := true }
      else x)) s
  | 1 => s.modOhm index (fun x => { x with disabled := false, nextTry := s.clk.wall })
  | 2 => s.modFar index (fun _ => portWith dev)
  | _ => s.modQp index (fun q => { q with fnDis := false })

/-- A disable that waits for nothing more completes: its target is off, the commands reply, and then the enables that waited. -/
def State.completeDisable (s : State) (d : Disable) : State :=
  if !s.functionIdle d then s
  else
    let s := ({ s with disabling := s.disabling.filter (fun e => e ≠ d) }).functionOff d.kind d.index
    let s := d.hs.foldl (fun s h => s.replyS h .ok) s
    d.enables.foldl (fun s e => (s.functionOn d.kind d.index e.2).replyS e.1 .ok) s

/-- Every disable in progress looked at. -/
def State.pumpDisables (s : State) : State := s.disabling.foldl State.completeDisable s

/-- FUNCTION_DISABLE. -/
def execFunctionDisable (h : Pkt) (kind mode : Byte) (index : W16) (s : State) : Host.Outcome State Fault Refusal :=
  let k := kind.toNat
  let i := index.toNat
  let abort := decide (mode.toNat = 1)
  .next (s.host h true false (decide (k < 4) && decide (mode.toNat < 2) && functionIndexOk k i) (fun _ s =>
    if k = 3 && i = h.qp.toNat then s.replyS h .rejected
    else match s.disabling.find? (fun d => d.kind = k && d.index = i) with
      | some d =>
        let s := { s with disabling := s.disabling.map (fun e =>
          if e = d then { e with hs := e.hs ++ [h], abort := e.abort || abort } else e) }
        (if abort && !d.abort then s.abortFunction k i else s).pumpDisables
      | none =>
        if s.isDisabled k i then s.replyS h .ok
        else
          let d : Disable := { hs := [h], keep := if abort then [] else s.aiming k i, enables := [], kind := k, index := i,
                               abort := abort }
          let s := { s with disabled := s.disabled ++ [(k, i)], disabling := s.disabling ++ [d] }
          (if abort then s.abortFunction k i else s).pumpDisables))

/-- FUNCTION_ENABLE; `dev` is what the enumeration of a far-tier port then finds (R337). -/
def execFunctionEnable (h : Pkt) (kind : Byte) (index : W16) (device : Byte) (mem : FarMem) (s : State) :
    Host.Outcome State Fault Refusal :=
  let dev : FarDev := { kind := device.toNat, mem := mem }
  let k := kind.toNat
  let i := index.toNat
  .next (s.host h true false (decide (k < 4) && functionIndexOk k i) (fun _ s =>
    if s.disabling.any (fun d => d.kind = k && d.index = i) then
      { s with disabling := s.disabling.map (fun d =>
          if d.kind = k && d.index = i then { d with enables := d.enables ++ [(h, dev)] } else d) }
    else (if s.isDisabled k i || k = 2 then s.functionOn k i dev else s).replyS h .ok))

end Sys2Proof.Machine
end

