-- ==== Sys2Proof/Machine/Power.lean ====
section
/-! DEFINITION. Quad rates, set points, governors, limiters, regulators and the SMBus telemetry (02, R30; 20, R416 to R431;
25, R494). -/

namespace Sys2Proof.Machine

/-! ### Set points and caps (R420, R426) -/

/-- The effective set point of a quad (R420). -/
def Quad.setCode (x : Quad) : Nat := min x.gov (min x.ceilP x.ceilT)

/-- Whether the power limiter holds the quad below its governor set point. -/
def Quad.heldP (x : Quad) : Bool := decide (x.ceilP < x.gov)

/-- Whether the thermal limiter does. -/
def Quad.heldT (x : Quad) : Bool := decide (x.ceilT < x.gov)

/-- The package cap of the active set, 1,700 W by default (R421). -/
def State.pkgCap (s : State) : Nat := (s.cfg.active.map (fun c => c.pkgCap)).getD 1700

/-- Whether the tray's limit sets the cap in effect (R426, R430). -/
def State.trayLimits (s : State) : Bool := s.power.trayLimit ≠ 0 && decide (s.power.trayLimit < s.pkgCap)

/-- The cap in effect (R426). -/
def State.capNow (s : State) : Nat := if s.trayLimits then s.power.trayLimit else s.pkgCap

/-- The 64 quads. -/
def State.quadList (s : State) : List Quad := (List.range 64).map s.quad

/-- Whether any quad is held by the power limiter. -/
def State.anyHeldP (s : State) : Bool := s.quadList.any Quad.heldP

/-- Whether any quad is held by the thermal limiter. -/
def State.anyHeldT (s : State) : Bool := s.quadList.any Quad.heldT

/-- The partition of a quad. -/
def State.quadPart (s : State) (q : Nat) : Option Nat := s.partOfGlen (q / 4)

/-- The voltage policy of a partition. -/
def State.policy (s : State) (p : Nat) : Option Policy := (NMap.get? s.parts p).map (fun c => c.pol)

/-- The quads whose set point the governor of a partition sets now: on, and not under their scrub pass (R419, R424). -/
def State.governed (s : State) (p : Nat) : List Nat :=
  if s.partInReset p then []
  else (List.range 64).filter (fun q => s.quadPart q = some p && !(s.quad q).off && !(s.quad q).scrubPass)

/-- A code held within a policy's bounds (R422). -/
def Policy.clip (p : Policy) (c : Nat) : Nat := max p.vMin (min p.vMax c)

/-- Whether the package is in service or booting: neither in chip reset nor stopped by FAULT_N or THERMTRIP_N. -/
def State.running (s : State) : Bool := !s.boot.inReset && s.live

/-! ### RATE_MONITOR_WINDOW (R30) -/

/-- The highest voltage code of R30. -/
def maxCode : Nat := 80

/-- RATE_MONITOR_WINDOW: the reading of the window of 1,024 ns of common count that has just completed; a window is read once. -/
def execRateMonitorWindow (q : BitVec 6) (rate : BitVec 28) (junction voltage : Byte) (s : State) :
    Host.Outcome State Fault Refusal :=
  let w := s.clk.now / 1024
  .next (if !s.running || decide (w ≤ (s.quad q.toNat).window) then s else s.modQuad q.toNat (fun x =>
    { x with rate := if x.off then 0 else rate.toNat, junction := junction.toNat, voltage := min maxCode voltage.toNat,
             valid := true, window := w }))

/-! ### Governors (R424) -/

/-- The next set point of a governed quad: `want` is the code the steward's prediction asks for. A rise takes effect at once, a fall
of the deadline mode is at most 5 codes. `fv` stands where no code of the power-capped mode qualifies. -/
def Policy.next (p : Policy) (cur fv : Nat) (want : Option Nat) : Nat :=
  match p.mode with
  | 0 => p.vFixed
  | 1 => p.clip (max (p.clip (want.getD p.vMax)) (cur - 5))
  | 2 => if p.cap = 0 then p.vMax else p.clip (want.getD (p.vMin + fv % (p.vMax + 1 - p.vMin)))
  | _ => cur

/-- GOVERNOR_EVALUATION. In efficiency mode the points are set quad by quad at EFFICIENCY_MEASUREMENT. -/
def execGovernorEvaluation (part : BitVec 4) (predicted : Option (BitVec 7)) (s : State) : Host.Outcome State Fault Refusal :=
  match s.policy part.toNat with
  | none => .next s
  | some p =>
    let want := predicted.map (fun v => v.toNat)
    .next ((s.governed part.toNat).foldl (fun s q =>
      s.modQuad q (fun x => { x with gov := p.next x.gov (s.fv 0) want })) s |>.used 1)

/-- EFFICIENCY_MEASUREMENT: `best` is the code of least measured energy per step. -/
def execEfficiencyMeasurement (q : BitVec 6) (best : BitVec 7) (s : State) : Host.Outcome State Fault Refusal :=
  let q := q.toNat
  match (s.quadPart q).bind (fun p => (s.policy p).map (fun x => (p, x))) with
  | some (n, p) =>
    if p.mode = 3 && (s.governed n).contains q then .next (s.modQuad q (fun x => { x with gov := p.clip best.toNat }))
    else .next s
  | none => .next s

/-! ### Power (R420, R426, R427) -/

/-- POWER_MEASUREMENT: package power and each quad's input power in units of 10 mW. -/
def execPowerMeasurement (w100us w1ms : W16) (quads : List (Nat × Nat)) (s : State) : Host.Outcome State Fault Refusal :=
  let s := { s with power := { s.power with w100us := w100us.toNat, w1ms := w1ms.toNat } }
  .next ((quads.filter (fun e => decide (e.1 < 64))).foldl (fun s e =>
    s.modQuad e.1 (fun x => { x with power := e.2 % 65536 })) s)

/-- The partitions in the order in which the limiter lowers them: efficiency, power-capped, deadline, fixed-voltage. -/
def State.limitOrder (s : State) : List Nat :=
  [3, 2, 1, 0].flatMap (fun m => (List.range 16).filter (fun p => ((s.policy p).map (fun x => x.mode)) = some m))

/-- The quads of a partition that are on. -/
def State.quadsOn (s : State) (p : Nat) : List Nat :=
  (List.range 64).filter (fun q => s.quadPart q = some p && !(s.quad q).off)

/-- A ceiling lowered by some codes, from the set point it binds. -/
def lowerCeil (ceil gov n : Nat) : Nat := min ceil gov - n

/-- A ceiling raised by some codes: one that no longer binds is gone. -/
def raiseCeil (ceil gov n : Nat) : Nat := if gov ≤ ceil + n then 80 else ceil + n

/-- One lowering step: the first partition of the order with a quad above 0.55 V. -/
def State.lowerStep (s : State) : State :=
  let low := fun (q : Nat) => decide (min (s.quad q).ceilP (s.quad q).gov = 0)
  match s.limitOrder.find? (fun p => !(s.quadsOn p).all low) with
  | some p => (s.quadsOn p).foldl (fun s q => s.modQuad q (fun x => { x with ceilP := lowerCeil x.ceilP x.gov 1 })) s
  | none => s

/-- One raising step: the last partition of the order with a ceiling that is not gone. -/
def State.raiseStep (s : State) : State :=
  match s.limitOrder.reverse.find? (fun p => (s.quadsOn p).any (fun q => decide ((s.quad q).ceilP < 80))) with
  | some p => (s.quadsOn p).foldl (fun s q => s.modQuad q (fun x => { x with ceilP := raiseCeil x.ceilP x.gov 1 })) s
  | none => s

/-- POWER_LIMITER_STEP: lowering every 10 µs from the 1 ms average passing the cap until the 100 µs average has come down to it;
raising every 100 µs while the 1 ms average stays at least 3% below it. -/
def execPowerLimiterStep (s : State) : Host.Outcome State Fault Refusal :=
  let cap := s.capNow
  let lower := decide (cap < s.power.w100us) && (s.power.lowering || decide (cap < s.power.w1ms))
  let set := fun (s : State) (b : Bool) => { s with power := { s.power with lowering := b, limAt := s.clk.wall } }
  if !s.running then .next s
  else if lower then
    if s.power.limAt + 10000 ≤ s.clk.wall then .next (set s.lowerStep true) else .next s
  else if 100 * s.power.w1ms ≤ 97 * cap && decide (s.power.limAt + 100000 ≤ s.clk.wall) then .next (set s.raiseStep false)
  else .next { s with power := { s.power with lowering := false } }

/-! ### Temperature (R428, R429) -/

/-- out_of_conditions of R391 set. -/
def State.leaveConditions (s : State) : State := { s with power := { s.power with outOfCond := true } }

/-- THERMAL_LIMITER_STEP: lowering by 10 mV every 20 µs from 100 °C, raising by 10 mV every 100 µs from 97 °C down. -/
def execThermalLimiterStep (q : BitVec 6) (temp : Byte) (s : State) : Host.Outcome State Fault Refusal :=
  let q := q.toNat
  let c := temp.toNat
  let x := s.quad q
  if !s.running then .next s
  else
    let s := if 105 < c then s.leaveConditions else s
    if 100 ≤ c then
      if x.thermAt + 20000 ≤ s.clk.wall then
        .next (s.modQuad q (fun x => { x with ceilT := lowerCeil x.ceilT x.gov 2, thermAt := s.clk.wall }))
      else .next s
    else if decide (c ≤ 97) && decide (x.ceilT < 80) && decide (x.thermAt + 100000 ≤ s.clk.wall) then
      .next (s.modQuad q (fun x => { x with ceilT := raiseCeil x.ceilT x.gov 2, thermAt := s.clk.wall }))
    else .next s

/-- A tile whose logic has no voltage: nothing of it runs. -/
def Tile.dark (x : Tile) : Tile :=
  { x.afterReset with core := { x.core with run := .idle, work := none, pend := [], ckpts := [], prov := [] }, xfers := [] }

/-- The logic output of every quad switched off. -/
def State.allQuadsOff (s : State) : State :=
  let s := (List.range 64).foldl (fun s q => s.modQuad q (fun x => { x with off := true })) s
  { s with tiles := NMap.mapv s.tiles (fun _ x => x.dark) }

/-- THERMTRIP: a sensor of a dale or the col die reads 115 °C or more. -/
def execThermtrip (sensor : Byte) (s : State) : Host.Outcome State Fault Refusal :=
  if 115 ≤ sensor.toNat && s.pins.supplies then
    .next { s.allQuadsOff with pins := { s.pins with thermtripN := false } }
  else .next s

/-! ### REGULATOR_WINDOW (R389, R417, R418) -/

/-- A quad switched off by its regulator: work on its tiles ends with ST_TARGET_OFF, writes to them are answered with it. -/
def State.quadFails (s : State) (q : Nat) (retention : Bool) : State :=
  let ts := List.range' (4 * q) 4
  let s := s.modQuad q (fun x => { x with off := true, offCause := 2, retLost := x.retLost || retention })
  let s := ts.foldl (fun s t => s.modTile t (fun x => { x.abandon .targetOff with inReset := x.inReset })) s
  let s := ts.foldl (fun s t => s.endNow t .targetOff) s
  let s := ts.foldl (fun s t => (s.worksOn t).foldl State.cancelOthers s) s
  s.failWrites (fun t w => w.kind ≠ 3 && !ts.contains t && ((s.spTile w.pa).map ts.contains).getD false) .targetOff

/-- REGULATOR_WINDOW: an output of a quad's regulator has been out of its window for `forNs`; `code` is the voltage measured. -/
def execRegulatorWindow (q : BitVec 6) (retention : Bool) (code : Byte) (forNs : Nat) (s : State) :
    Host.Outcome State Fault Refusal :=
  let n := q.toNat
  let x := s.quad n
  if forNs ≤ 10000 || !s.running || (x.off && !retention) || (x.off && x.offCause = 2 && x.retLost) then .next s
  else .next ((s.raise (evUnit 2 n 0x16 1 [(24, 1, code.toNat)])).quadFails n retention)

/-- OUT_OF_CONDITIONS: a rail or sensor has left a limit of R493. -/
def execOutOfConditions (_rail : Byte) (s : State) : Host.Outcome State Fault Refusal :=
  .next (if !s.running then s else s.leaveConditions)

/-! ### SMBus (R430, R431) -/

/-- What an SMBus read returns; the interface answers whenever the supplies are there. -/
def State.smbAnswer (s : State) (v : Nat) : State :=
  if s.pins.supplies then { s with power := { s.power with smb := some v } } else s

/-- PWR_STATUS. -/
def State.pwrStatus (s : State) : Nat :=
  (if s.anyHeldT then 1 else 0) + (if s.anyHeldP then 2 else 0) + (if s.power.outOfCond then 4 else 0) +
  (if s.pins.faultN then 0 else 8) + (if s.boot.devState = 1 then 16 else 0)

/-- The level of ALERT_N (R431). -/
def State.alertN (s : State) : Bool := !(s.pins.supplies && decide (s.pwrStatus &&& s.power.alertMask ≠ 0))

/-- PWR_NOW. -/
def execPwrNow (s : State) : Host.Outcome State Fault Refusal := .next (s.smbAnswer s.power.w100us)

/-- TJ_MAX; `col` is the reading of the col die's hottest sensor. -/
def execTjMax (col : Byte) (s : State) : Host.Outcome State Fault Refusal :=
  .next (s.smbAnswer ((s.quadList.map (fun x => x.junction)).foldl max col.toNat))

/-- HBM_TMAX. -/
def execHbmTmax (s : State) : Host.Outcome State Fault Refusal :=
  .next (s.smbAnswer (((List.range 16).map (fun k => (s.stack k).temp)).foldl max 0))

/-- TRAY_LIMIT_W read. -/
def execTrayLimitWRead (s : State) : Host.Outcome State Fault Refusal := .next (s.smbAnswer s.power.trayLimit)

/-- TRAY_LIMIT_W written: a value above 1,700 is not accepted. -/
def execTrayLimitWWrite (watts : W16) (s : State) : Host.Outcome State Fault Refusal :=
  .next (if s.pins.supplies && decide (watts.toNat ≤ 1700) then
    { s with power := { s.power with trayLimit := watts.toNat } } else s)

/-- PWR_STATUS read. -/
def execPwrStatus (s : State) : Host.Outcome State Fault Refusal := .next (s.smbAnswer s.pwrStatus)

/-- ALERT_MASK read. -/
def execAlertMaskRead (s : State) : Host.Outcome State Fault Refusal := .next (s.smbAnswer s.power.alertMask)

/-- ALERT_MASK written. -/
def execAlertMaskWrite (mask : Byte) (s : State) : Host.Outcome State Fault Refusal :=
  .next (if s.pins.supplies then { s with power := { s.power with alertMask := mask.toNat } } else s)

end Sys2Proof.Machine
end

