-- ==== Sys2Proof/Machine/Registers.lean ====
section
/-! DEFINITION. BAR0 and BAR2: what each register reads (R5, R30, R36, R285, R335, R340, R355, R356, R361, R385, R386, R391, R394,
R405, R420, R427, R456, R464, R468 to R473) and what a write of it does. -/

namespace Sys2Proof.Machine

/-! ### Access to the windows (R354 to R356, R413, R456) -/

/-- Whether BAR0 and BAR2 decode requests and act on them. -/
def State.barOn (s : State) : Bool := s.port.memEnable && s.running && s.boot.devState ≠ 3

/-- Whether BAR0 answers reads: after a boot failure too, at its lowest offsets. -/
def State.barReads (s : State) : Bool := s.port.memEnable && !s.boot.inReset && (s.live || s.boot.devState = 3)

/-- The 64-bit value of a register after a write of the whole of it or of one half. -/
def wrHalf (cur off : Nat) (wide : Bool) (v : Nat) : Nat :=
  if wide then v
  else if off % 8 = 0 then cur / 2 ^ 32 * 2 ^ 32 + v % 2 ^ 32
  else cur % 2 ^ 32 + v % 2 ^ 32 * 2 ^ 32

/-! ### Queue pairs (R284 to R289) -/

/-- QP_CTL as it reads. -/
def Qp.ctl (q : Qp) : Nat :=
  (if q.enable then 1 else 0) + (if q.sqHbm then 2 else 0) + (if q.cqHbm then 4 else 0) + (if q.devQueue then 8 else 0) +
  q.ctx * 2 ^ 8 + q.msix * 2 ^ 16 + q.coalesce * 2 ^ 32

/-- QP_SIZE as it reads. -/
def Qp.size (q : Qp) : Nat := q.sqLog + q.cqLog * 2 ^ 16

/-- QP_STATUS as it reads. -/
def Qp.status (q : Qp) : Nat :=
  (if q.active then 1 else 0) + (if q.error then 2 else 0) + (if q.fnDis then 4 else 0) + q.errCode * 2 ^ 8 +
  q.sqHead * 2 ^ 32 + q.cqTail * 2 ^ 48

/-- The fields of QP_CTL other than enable. -/
def Qp.setCtl (q : Qp) (v : Nat) : Qp :=
  { q with coalesce := bits v 32 8, msix := bits v 16 11, ctx := bits v 8 8, devQueue := bit v 3, cqHbm := bit v 2,
           sqHbm := bit v 1 }

/-- Whether a ring size is one of 4 to 16. -/
def ringLog (n : Nat) : Bool := decide (4 ≤ n) && decide (n ≤ 16)

/-- enable written as 1: a queue pair that was disabled starts at entry 0 of its rings, or is in error (R285, R288). -/
def State.qpOn (s : State) (n v : Nat) : State :=
  s.modQp n (fun q =>
    if q.enable then q
    else
      let q := q.setCtl v
      let q := { q with enable := true, error := false, errCode := 0 }
      if !ringLog q.sqLog || !ringLog q.cqLog || (!q.devQueue && (s.ctx? q.ctx).isNone) then
        { q with error := true, errCode := 0x1B, active := false }
      else
        { q with active := true, sqHead := 0, sqTail := 0, cqTail := 0, cqHead := 0, phase := true, cq := [], since := 0,
                 oldest := none, ringHbm := q.cqHbm, ringLost := false })

/-- enable written as 0: no further command is taken; the pair stays active until the last reply owed (R285). -/
def State.qpOff (s : State) (n v : Nat) : State :=
  s.modQp n (fun q =>
    if q.enable then { q with enable := false, active := q.active && decide (q.taken ≠ 0) } else q.setCtl v)

/-- QP_ENABLE: QP_CTL written with enable 1. -/
def execQpEnable (qp : BitVec 12) (value : W64) (s : State) : Host.Outcome State Fault Refusal :=
  .next (if s.barOn && bit value.toNat 0 then s.qpOn qp.toNat value.toNat else s)

/-- QP_DISABLE: QP_CTL written with enable 0. -/
def execQpDisable (qp : BitVec 12) (value : W64) (s : State) : Host.Outcome State Fault Refusal :=
  .next (if s.barOn && !bit value.toNat 0 then s.qpOff qp.toNat value.toNat else s)

/-- An error that stops a queue pair (R288). -/
def Qp.fail (q : Qp) (code : Nat) : Qp := { q with error := true, errCode := code }

/-- SQ_TAIL; `readOk` is whether the steward's reads of the entries succeed on the host side (R286 to R288). -/
def execSqTail (qp : BitVec 12) (index : W16) (readOk : Bool) (s : State) : Host.Outcome State Fault Refusal :=
  let n := qp.toNat
  let q := s.qp n
  .next (if !s.barOn || !q.active then s
    else if 2 ^ q.sqLog ≤ index.toNat then s.modQp n (fun q => q.fail 0x1B)
    else if !readOk || !s.ringOk q.sqHbm q.sqBase then s.modQp n (fun q => q.fail 0x11)
    else s.modQp n (fun q => { q with sqTail := index.toNat }))

/-- Completion entries up to an index freed (R286, R287). -/
def Qp.freed (q : Qp) (index : Nat) : Qp :=
  { q with cqHead := index, cq := q.cq.drop ((index + 2 ^ q.cqLog - q.cqHead) % 2 ^ q.cqLog) }

/-- CQ_HEAD. -/
def execCqHead (qp : BitVec 12) (index : W16) (s : State) : Host.Outcome State Fault Refusal :=
  let n := qp.toNat
  let q := s.qp n
  .next (if !s.barOn || !q.active then s
    else if 2 ^ q.cqLog ≤ index.toNat then s.modQp n (fun q => q.fail 0x1B)
    else s.modQp n (fun q => q.freed index.toNat))

/-- MSIX_COALESCE_TIMER: 4 µs since the oldest reply that has not raised the vector (R289). -/
def execMsixCoalesceTimer (qp : BitVec 12) (s : State) : Host.Outcome State Fault Refusal :=
  match (s.qp qp.toNat).oldest with
  | some t => .next (if s.running && decide (t + 4000 ≤ s.clk.now) then s.raiseQp qp.toNat else s)
  | none => .next s

/-! ### MSI-X (R361) -/

/-- Pending vectors that are masked no longer are sent, once each. -/
def State.sendPending (s : State) : State :=
  (s.port.pba.filter (fun v => !s.port.masked v)).foldl (fun s v =>
    { s with port := { s.port with pba := s.port.pba.filter (fun w => w ≠ v) } }.raiseMsix v) s

/-- A word of the MSI-X table as it reads: bit 0 of each vector's control word is 1 after reset. -/
def Port0.msixWord (p : Port0) (k : Nat) : Nat := NMap.get (if k % 4 = 3 then 1 else 0) p.msixTable k

/-- A word of the MSI-X table written; of a control word only the mask bit is held. -/
def State.msixWrite (s : State) (k v : Nat) : State :=
  let d := if k % 4 = 3 then 1 else 0
  let v := if k % 4 = 3 then v % 2 else v % 2 ^ 32
  { s with port := { s.port with msixTable := NMap.set d s.port.msixTable k v } }.sendPending

/-! ### Event log and trace positions (R394, R473) -/

/-- EVT_POS.head written. -/
def State.evtHead (s : State) (h : Nat) : State := { s with log := { s.log with head := h % 4096 } }

/-- TRACE_POS.head written. -/
def State.traceHead (s : State) (h : Nat) : State := { s with trace := { s.trace with head := h % 2 ^ 32 } }

/-- EVT_HEAD_WRITE. -/
def execEvtHeadWrite (head : BitVec 12) (s : State) : Host.Outcome State Fault Refusal :=
  .next (if s.barOn then s.evtHead head.toNat else s)

/-- TRACE_HEAD_WRITE. -/
def execTraceHeadWrite (head : W32) (s : State) : Host.Outcome State Fault Refusal :=
  .next (if s.barOn then s.traceHead head.toNat else s)

/-- An event record as its 64 bytes (R396). -/
def Event.bytes (e : Event) : List Byte :=
  let v := e.seq + e.type * 2 ^ 32 + e.kind * 2 ^ 46 + (e.ctx.getD 0) * 2 ^ 48 + (if e.ctx.isSome then 2 ^ 56 else 0) +
    e.time % 2 ^ 64 * 2 ^ 64 + e.index % 4096 * 2 ^ 128 + e.unit % 16 * 2 ^ 140 + e.gen % 256 * 2 ^ 144 +
    (e.detail.map (fun d => d.2.2 % 2 ^ (8 * d.2.1) * 2 ^ (8 * d.1))).sum
  leBytes 64 v

/-! ### What BAR0 reads -/

/-- One bit of a list of conditions as a number, least significant first. -/
def bitsOf (bs : List Bool) : Nat := (bs.zipIdx.map (fun e => if e.1 then 2 ^ e.2 else 0)).sum

/-- Whether scrubbing is off on a tile in service (R391). -/
def State.scrubOffAny (s : State) : Bool := (List.range 256).any (fun t => !s.tileOff t && s.scrubOff t)

/-- FAULT_GUARANTEE. -/
def State.guarantee (s : State) : Nat :=
  let b := [!s.boot.fwOk, s.scrubOffAny, s.power.unchecked, s.power.outOfCond]
  bitsOf (decide (b.all (fun x => !x)) :: b)

/-- The node at the far end of a ring port, 0 for a plane port (R364, R385). -/
def State.peerNode (s : State) (p : Nat) : Nat :=
  let l := s.links.inst
  let x := nodeX l.node
  let y := nodeY l.node
  let z := nodeSlot l.node
  match p with
  | 8 => nodeOf ((x + 1) % l.nx) y z
  | 9 => nodeOf ((x + l.nx - 1) % l.nx) y z
  | 10 => nodeOf x ((y + 1) % l.ny) z
  | 11 => nodeOf x ((y + l.ny - 1) % l.ny) z
  | _ => 0

/-- Whether a port is a shared wrap link in the active set (R381, R385). -/
def State.sharedWrap (s : State) (p : Nat) : Bool :=
  let l := s.links.inst
  let x := nodeX l.node
  let y := nodeY l.node
  let z := nodeSlot l.node
  match p with
  | 8 => x + 1 = l.nx && bit (s.ring false x y z) 16
  | 9 => x = 0 && bit (s.ring false x y z) 16
  | 10 => y + 1 = l.ny && bit (s.ring true x y z) 16
  | 11 => y = 0 && bit (s.ring true x y z) 16
  | _ => false

/-- OHMIST_PORT_STATUS (R385). -/
def State.ohmStatus (s : State) (p : Nat) : Nat :=
  let x := s.ohm p
  bitsOf [x.up, x.degraded, s.isDisabled 1 p, s.sharedWrap p, x.cabled] + x.lanes * 2 ^ 16 + x.retrains * 2 ^ 24 +
  s.peerNode p * 2 ^ 32

/-- PARTITION_STATE (R405). -/
def State.partState (s : State) (g : Nat) : Nat :=
  match NMap.get? s.parts g with
  | none => s.gen g * 2 ^ 16
  | some c =>
    let st := if s.partInReset g then 2 else if (s.tilesOf g).all s.tileOff then 3 else 1
    c.glens % 2 ^ 16 + s.gen g * 2 ^ 16 + st * 2 ^ 32

/-- QUAD_POWER (R420); in chip reset set_code reads its reset value 0 (DESIGN CHOICE, log entry 154). -/
def Quad.powerReg (x : Quad) (inReset : Bool) : Nat :=
  x.power % 2 ^ 16 + (if x.heldP then 2 ^ 24 else 0) + (if x.heldT then 2 ^ 25 else 0) +
  (if x.off then x.offCause % 8 else 0) * 2 ^ 26 + (if inReset then 0 else x.setCode) * 2 ^ 32

/-- QUAD_RATE (R30). -/
def Quad.rateReg (x : Quad) : Nat :=
  (if x.off then 0 else x.rate) + (if x.valid then 2 ^ 28 else 0) + (if x.off then 2 ^ 29 else 0) + x.voltage * 2 ^ 32 +
  x.junction * 2 ^ 40

/-- PKG_POWER (R427). -/
def State.pkgPower (s : State) : Nat :=
  s.power.w1ms % 2 ^ 16 + (if s.anyHeldP then 2 ^ 16 else 0) + (if s.trayLimits then 2 ^ 17 else 0) +
  (if s.anyHeldT then 2 ^ 18 else 0) + s.capNow * 2 ^ 32

/-- COMMON_COUNT_STATUS (R36). -/
def Clock.status (c : Clock) : Nat := bitsOf [c.synced, c.master, c.stepped] + c.lastEx % 2 ^ 32 * 2 ^ 32

/-- HBM_STACK_STATUS (R335). -/
def Stack.status (x : Stack) : Nat :=
  bitsOf [x.available, x.trained, x.patrolDone, x.hot] + min x.trees.length 65535 * 2 ^ 16 + x.srepairs % 256 * 2 ^ 32 +
  x.temp % 256 * 2 ^ 40

/-- FAR_PORT_STATUS (R340). -/
def Far.status (x : Far) : Nat :=
  bitsOf [x.present, x.enabled, x.failed] + (if x.present then x.width % 16 * 2 ^ 8 + x.units / 4 * 2 ^ 32 else 0)

/-- BOOT_STATUS (R456). -/
def Boot.status (b : Boot) : Nat :=
  b.failedGlens % 2 ^ 16 + min b.skipped (2 ^ 32 - 1) * 2 ^ 16 + bitsOf [b.repaired, b.installed, b.owned, b.testMode] * 2 ^ 48 +
  (if b.devState = 3 then b.error else 0) * 2 ^ 56

/-- CONFIG_STATUS (R464). -/
def Cfg.status (c : Cfg) : Nat :=
  bitsOf [c.active.isSome, c.shadow.isSome] + c.lastStatus * 2 ^ 24 + ((c.active.map (fun a => a.serial)).getD 0) * 2 ^ 32

/-- Identity and global control, offsets 0 to 0xFFF. -/
def State.bar0Low (s : State) (off : Nat) : Nat :=
  if off = 0x0 then (if Config.sample then 2 else 0) + Config.siliconRev.toNat * 2 ^ 16 + 0x0B74 * 2 ^ 32 + Config.vendorId.toNat * 2 ^ 48
  else if off = 0x8 then s.boot.fwVer % 2 ^ 32 + s.boot.secVer * 2 ^ 32
  else if off = 0x10 then s.boot.devState
  else if off = 0x20 then s.guarantee
  else if off = 0x28 then s.boot.status
  else if off = 0x30 then s.cfg.status
  else if 0x40 ≤ off && off < 0x60 then
    bitsOf ((List.range 64).map (fun j => (s.tile (64 * ((off - 0x40) / 8) + j)).disabled))
  else if 0x100 ≤ off && off < 0x160 then s.ohmStatus ((off - 0x100) / 8)
  else if 0x200 ≤ off && off < 0x280 then s.partState ((off - 0x200) / 8)
  else if off = 0x400 then s.pkgPower
  else if 0x800 ≤ off && off < 0xA00 then (s.quad ((off - 0x800) / 8)).powerReg s.boot.inReset
  else 0

/-- Every other offset. -/
def State.bar0High (s : State) (off : Nat) : Nat :=
  if off = 0x1000 then s.clk.now % 2 ^ 64
  else if off = 0x1008 then s.clk.status
  else if 0x2000 ≤ off && off < 0x2200 then (s.quad ((off - 0x2000) / 8)).rateReg
  else if 0x3000 ≤ off && off < 0x3080 then (s.stack ((off - 0x3000) / 8)).status
  else if 0x3100 ≤ off && off < 0x3110 then (s.far ((off - 0x3100) / 8)).status
  else if 0x100000 ≤ off && off < 0x200000 then
    let q := s.qp ((off - 0x100000) / 256)
    [q.ctl, q.sqBase, q.cqBase, q.size, q.status].getD (off % 256 / 8) 0
  else if 0x200000 ≤ off && off < 0x208000 then
    let k := (off - 0x200000) / 4
    s.port.msixWord k + s.port.msixWord (k + 1) * 2 ^ 32
  else if 0x208000 ≤ off && off < 0x208100 then
    bitsOf ((List.range 64).map (fun j => s.port.pba.contains (8 * (off - 0x208000) + j)))
  else if off = 0x210000 then (if s.log.irq then 1 else 0) + s.log.msix * 2 ^ 16
  else if off = 0x210008 then s.log.tail + s.log.head * 2 ^ 32
  else if off = 0x210010 then (if s.log.overflow then 1 else 0) + s.log.lost * 2 ^ 32
  else if 0x220000 ≤ off && off < 0x260000 then
    match NMap.get? s.log.recs ((off - 0x220000) / 64) with
    | some e => leAt e.bytes (off % 64) 8
    | none => 0
  else if off = 0x30F000 then s.snapAt
  else if 0x300000 ≤ off && off < 0x380000 then s.ctr off
  else if 0x380000 ≤ off && off < 0x400000 then NMap.get 0 s.snapBank (off - 0x80000)
  else if 0x400000 ≤ off && off < 0x800000 then Bytes.le s.cfg.window (off - 0x400000) 8
  else if off = 0x800000 then s.trace.tail + s.trace.head * 2 ^ 32
  else if off = 0x800008 then bitsOf [s.trace.running, s.trace.steward] + s.trace.lost * 2 ^ 32
  else 0

/-- What an 8-byte read of BAR0 at a multiple of 8 returns (R355, R356, R456). -/
def State.bar0 (s : State) (off : Nat) : Nat :=
  if off < 0x1000 then s.bar0Low off else if s.boot.devState = 3 then 0 else s.bar0High off

/-- COMMON_COUNT_LOW_READ: the low half of the count; the high half is latched for the next read of 0x1004 (R36). -/
def execCommonCountLowRead (s : State) : Host.Outcome State Fault Refusal :=
  .next (if !s.barReads then s
    else if s.boot.devState = 3 then { s with port := { s.port with answer := List.replicate 4 0, answerPoison := false } }
    else
      { s with clk := { s.clk with latch := some (s.clk.now % 2 ^ 64 / 2 ^ 32) }
               port := { s.port with answer := leBytes 4 s.clk.now, answerPoison := false } })

/-- What a 32-bit read of 0x1004 returns next: the latched half once after a low-half read, else the live one (R36). -/
def Clock.high (c : Clock) : Nat := c.latch.getD (c.now % 2 ^ 64 / 2 ^ 32)

/-- A 32-bit read of 0x1004 with its effect: the latch serves one read (R36). The table has no row for a plain register read, so no
command makes it (log entry 70). -/
def State.readHigh (s : State) : Nat × State := (s.clk.high, { s with clk := { s.clk with latch := none } })

/-- What a read of BAR2 returns at any offset: its doorbells are write-only and every other byte reads zero (R286). -/
def State.bar2 (_s : State) (_off : Nat) : Nat := 0

/-! ### REGISTER_WRITE (R5, R285, R356, R361, R391, R394, R461) -/

/-- A register of a queue pair written. -/
def State.qpWrite (s : State) (n reg off : Nat) (wide : Bool) (v : Nat) : State :=
  let q := s.qp n
  match reg with
  | 0 =>
    let w := wrHalf q.ctl off wide v
    if bit w 0 then s.qpOn n w else s.qpOff n w
  | 1 => if q.enable then s else s.modQp n (fun q => { q with sqBase := wrHalf q.sqBase off wide v })
  | 2 => if q.enable then s else s.modQp n (fun q => { q with cqBase := wrHalf q.cqBase off wide v })
  | 3 =>
    let w := wrHalf q.size off wide v
    if q.enable then s else s.modQp n (fun q => { q with sqLog := bits w 0 5, cqLog := bits w 16 5 })
  | _ => s

/-- A write of BAR0; `c` are the bits written as 1. -/
def State.bar0Write (s : State) (off : Nat) (wide : Bool) (v : Nat) : State :=
  let a := off / 8 * 8
  let c := wrHalf 0 off wide v
  if a = 0x18 then if bits c 0 32 = 0xC01D0B74 then s.chipReset .chip else s
  else if a = 0x20 then
    { s with power := { s.power with outOfCond := s.power.outOfCond && !bit c 4, unchecked := s.power.unchecked && !bit c 3 } }
  else if a = 0x1008 then { s with clk := { s.clk with stepped := s.clk.stepped && !bit c 2 } }
  else if 0x100000 ≤ a && a < 0x200000 then s.qpWrite ((a - 0x100000) / 256) (a % 256 / 8) off wide v
  else if 0x200000 ≤ a && a < 0x208000 then
    let k := (off - 0x200000) / 4
    if wide then (s.msixWrite k v).msixWrite (k + 1) (v / 2 ^ 32) else s.msixWrite k v
  else if a = 0x210000 then
    let w := wrHalf (s.bar0 a) off wide v
    { s with log := { s.log with irq := bit w 0, msix := bits w 16 11 } }
  else if a = 0x210008 then s.evtHead (bits (wrHalf (s.bar0 a) off wide v) 32 12)
  else if a = 0x210010 then { s with log := { s.log with overflow := s.log.overflow && !bit c 0 } }
  else if 0x400000 ≤ a && a < 0x800000 then
    { s with cfg := { s.cfg with window := Bytes.wr s.cfg.window (off - 0x400000) (leBytes (if wide then 8 else 4) v) } }
  else if a = 0x800000 then s.traceHead (bits (wrHalf (s.bar0 a) off wide v) 32 32)
  else s

/-- REGISTER_WRITE: an access that is not naturally aligned has no effect (R356). -/
def execRegisterWrite (off : BitVec 26) (wide : Bool) (value : W64) (s : State) : Host.Outcome State Fault Refusal :=
  let o := off.toNat
  .next (if s.barOn && o % (if wide then 8 else 4) = 0 then
    s.bar0Write o wide (if wide then value.toNat else value.toNat % 2 ^ 32) else s)

end Sys2Proof.Machine
end

