-- ==== Sys2Proof/Machine/HostPort.lean ====
section
/-! DEFINITION. The CXL host port (17, R351 to R363): configuration requests, the HDM window, snoops, the port reset, and the DOE
mailbox with its SPDM responses (21, R441). -/

namespace Sys2Proof.Machine

/-! ### The port reset (R353) -/

/-- A queue pair at a port reset: one that was active ends as if enable had been written as 0. -/
def Qp.portReset (q : Qp) : Qp :=
  { q with enable := false, sqHbm := false, cqHbm := false, devQueue := false, ctx := 0, msix := 0, coalesce := 0,
           active := q.active && decide (q.taken ≠ 0), ringLost := true }

/-- A hot reset, a secondary bus reset or a link-down of the host port. -/
def State.portReset (s : State) : State :=
  { s with
    port := { s.port with memEnable := false, cfg := [], hdmBase := 0, hdmOn := false, hdmErr := false, msixEnable := false,
                          msixTable := [], pba := [], cache := [], doe := none, answer := [], answerPoison := false,
                          retryAnswer := false }
    qps := NMap.mapv s.qps (fun _ q => q.portReset) }

/-- HOT_RESET. -/
def execHotReset (s : State) : Host.Outcome State Fault Refusal := .next (if s.running then s.portReset else s)

/-! ### Configuration space (R351, R354, R355, R361) -/

/-- A register of configuration space as it reads. The places of the PCI header and of the MSI-X capability are those of the PCI
specification and a choice (assumption log entry 60). -/
def State.cfgRead (s : State) (r : Nat) : Nat :=
  let c := NMap.get 0 s.port.cfg r
  match r with
  | 0x00 => Config.vendorId.toNat + 0x0B74 * 2 ^ 16
  | 0x08 => Config.siliconRev.toNat + 0x120000 * 2 ^ 8
  | 0x10 => c + 4
  | 0x18 => c + 4
  | 0x34 => msixReg
  | 0xB0 => c + 2047 * 2 ^ 16 + 0x11
  | 0xB4 => 0x200000
  | 0xB8 => 0x208000
  | _ => c

/-- The bits of a register that a write changes. -/
def cfgMask (r : Nat) : Nat :=
  match r with
  | 0x04 => 0x546
  | 0x10 => 0xFC000000
  | 0x18 => 0xFF000000
  | 0x3C => 0xFF
  | 0xB0 => 0xC0000000
  | _ => 0

/-- A register of configuration space written. -/
def State.cfgWrite (s : State) (r v : Nat) : State :=
  let w := v &&& cfgMask r
  let p := { s.port with cfg := NMap.set 0 s.port.cfg r w }
  let p := if r = 0x04 then { p with memEnable := bit v 1 } else p
  let p := if r = msixReg then { p with msixEnable := bit v 31, pba := if bit v 31 then p.pba else [] } else p
  let s := { s with port := p }
  if r = msixReg then s.sendPending else s

/-- CONFIG_REQUEST: answered with Configuration Request Retry Status until the steward firmware is ready (R354). -/
def execConfigRequest (write : Bool) (reg : BitVec 12) (value : W32) (s : State) : Host.Outcome State Fault Refusal :=
  let r := reg.toNat / 4 * 4
  if !(s.pins.perstN && s.pins.supplies && (s.live || s.boot.devState = 3)) then .next s
  else if s.boot.retry || s.boot.inReset then .next { s with port := { s.port with answer := [], retryAnswer := true } }
  else if write then
    let s := s.cfgWrite r value.toNat
    .next { s with port := { s.port with answer := [], answerPoison := false, retryAnswer := false } }
  else
    .next { s with port := { s.port with answer := leBytes 4 (s.cfgRead r), answerPoison := false, retryAnswer := false } }

/-! ### The HDM window (R357 to R359) -/

/-- HDM_DECODER_COMMIT: a base in units of 256 MiB with interleave ways 1. -/
def execHdmDecoderCommit (base : W64) (ways : Byte) (s : State) : Host.Outcome State Fault Refusal :=
  .next (if !s.barOn then s
    else if ways.toNat ≠ 1 then { s with port := { s.port with hdmErr := true } }
    else { s with port := { s.port with hdmOn := true, hdmErr := false, hdmBase := base.toNat / 2 ^ 28 * 2 ^ 28 } })

/-- The device physical address of a request of at most one 64 B unit in the committed window. -/
def State.hdmAddr (s : State) (addr n : Nat) : Option Nat :=
  let b := s.port.hdmBase
  if s.running && s.port.hdmOn && decide (b ≤ addr) && decide (addr + n ≤ b + hbmSize) && decide (0 < n) &&
      decide (addr % 64 + n ≤ 64) then some (hbmBase + (addr - b)) else none

/-- The key under which the host reaches a host-open range: the staging key, or that of the context it is bound to; none where the
access is refused (R358). -/
def State.hostOpenKey (s : State) (pa : Nat) (write : Bool) : Option Nat :=
  match s.regionAt pa with
  | some r =>
    if write && !r.writable then none
    else if r.kind = 4 then some s.boot.stagingKey
    else if r.kind = 5 then (s.ctx? r.owner).map (fun c => c.key)
    else none
  | none => none

/-- A refused access: counted, and reported by at most one event in a millisecond (R358, R397). -/
def State.hostRefused (s : State) (addr : Nat) : State :=
  let s := s.count 0x304230 1
  let first := s.port.firstRefused.getD addr
  let due := match s.port.lastRefusal with
    | some t => decide (t + 1000000 ≤ s.clk.wall)
    | none => true
  if due then
    { s with port := { s.port with firstRefused := none, lastRefusal := some s.clk.wall } }.raise
      (evUnit 0 0 0x35 2 [(24, 8, first), (32, 8, s.ctr 0x304230)])
  else { s with port := { s.port with firstRefused := some first } }

/-- The data of a CXL.mem read handed to the host. -/
def State.memAnswer (s : State) (bs : List Byte) (poison : Bool) : State :=
  { s.count 0x304220 bs.length with port := { s.port with answer := bs, answerPoison := poison } }

/-- CXL_MEM_READ; `late`: the data could not be delivered within 4 µs. Poisoned data of such a read, or of an unavailable stack,
has free bytes. -/
def execCxlMemRead (addr : W64) (len : BitVec 7) (late : Bool) (upsets : List Upset) (s : State) :
    Host.Outcome State Fault Refusal :=
  let n := len.toNat
  match s.hdmAddr addr.toNat n with
  | none => .next s
  | some pa =>
    let s := s.strikeHbm upsets
    match s.hostOpenKey pa false with
    | none => .next ((s.hostRefused addr.toNat).memAnswer (List.replicate n 0) false)
    | some key =>
      let free := (List.range n).map (fun i => BitVec.ofNat 8 (s.fv i))
      if late || !(s.stack (stackOf pa)).available then .next ((s.used n).memAnswer free true)
      else
        let m := ((s.countTier pa n false).countRoute (daleAt pa) none n).hbmRead pa n key
        .next (m.st.memAnswer m.bytes m.bad)

/-- CXL_MEM_WRITE. -/
def execCxlMemWrite (addr : W64) (data : List Byte) (poison : Bool) (upsets : List Upset) (s : State) :
    Host.Outcome State Fault Refusal :=
  match s.hdmAddr addr.toNat data.length with
  | none => .next s
  | some pa =>
    let k := stackOf pa
    let s := (s.strikeHbm upsets).count 0x304228 data.length
    match s.hostOpenKey pa true with
    | none => .next (s.hostRefused addr.toNat)
    | some key =>
      let s := s.countRoute none (daleAt pa) data.length
      if !(s.stack k).available then .next (s.hbmDiscard k)
      else .next ((s.hbmWrite pa data key poison).countTier pa data.length true)

/-- HOST_SNOOP: the line leaves the device cache, which never holds modified data (R360). -/
def execHostSnoop (line : W64) (s : State) : Host.Outcome State Fault Refusal :=
  .next { s with port := { s.port with cache := s.port.cache.filter (fun l => l ≠ line.toNat / 64) } }

/-! ### Attestation (R362, R363, R441, R452) -/

/-- The DOE mailbox answers once configuration retry has ended; in test mode only with an error. -/
def State.spdm (s : State) (r : Spdm) : State :=
  if !s.running || s.boot.retry then s
  else { s with port := { s.port with doe := some (if s.boot.testMode then .error 0x07 else r) } }

/-- The chain of a certificate slot: 0 the device identity chain, 1 the alias chain of the running firmware. -/
def State.chain (s : State) (slot : Nat) : List Byte := Config.certChain (if slot = 0 then 0 else s.boot.alias_)

/-- A measurement block (R362). -/
def State.measure (s : State) (i : Nat) : List Byte :=
  match i with
  | 1 => leBytes 4 Config.romVersion
  | 2 => Config.sha256 s.boot.fwImage
  | 3 => leBytes 4 s.boot.secVer
  | 4 => Config.sha256 ((s.cfg.active.map (fun c => c.image)).getD [])
  | 5 => Config.sha256 s.boot.installRec
  | 6 => Config.sha256 s.boot.policy
  | _ => Config.sha256 s.boot.repairRec

/-- The blocks that a GET_MEASUREMENTS asks for: 0xFF all, 0 their number only. -/
def State.blocks (s : State) (i : Nat) : List (Nat × List Byte) :=
  if i = 0 then [(0, [7])]
  else (List.range' 1 7).filterMap (fun k => if i = 0xFF || i = k then some (k, s.measure k) else none)

/-- The bytes of measurement blocks. -/
def blockBytes (bs : List (Nat × List Byte)) : List Byte := bs.flatMap (fun b => BitVec.ofNat 8 b.1 :: b.2)

/-- DOE_ABORT. -/
def execDoeAbort (s : State) : Host.Outcome State Fault Refusal :=
  .next (if s.running && !s.boot.retry then { s with port := { s.port with doe := none } } else s)

/-- GET_VERSION. -/
def execGetVersion (s : State) : Host.Outcome State Fault Refusal := .next (s.spdm .version)

/-- GET_CAPABILITIES. -/
def execGetCapabilities (s : State) : Host.Outcome State Fault Refusal := .next (s.spdm .capabilities)

/-- NEGOTIATE_ALGORITHMS: ECDSA P-256 and SHA-256. -/
def execNegotiateAlgorithms (s : State) : Host.Outcome State Fault Refusal := .next (s.spdm .algorithms)

/-- GET_DIGESTS. -/
def execGetDigests (s : State) : Host.Outcome State Fault Refusal :=
  .next (s.spdm (.digests (Config.sha256 (s.chain 0)) (Config.sha256 (s.chain 1))))

/-- GET_CERTIFICATE. -/
def execGetCertificate (slot : BitVec 3) (s : State) : Host.Outcome State Fault Refusal :=
  .next (s.spdm (if slot.toNat < 2 then .certificate slot.toNat (s.chain slot.toNat) else .error 0x01))

/-- CHALLENGE, signed with the alias key. -/
def execChallenge (slot : BitVec 3) (nonce : List Byte) (s : State) : Host.Outcome State Fault Refusal :=
  let msg := nonce ++ Config.sha256 (s.chain slot.toNat) ++ blockBytes (s.blocks 0xFF)
  .next (s.spdm (if slot.toNat < 2 then .challengeAuth slot.toNat (Config.sign s.boot.alias_ msg) else .error 0x01))

/-- GET_MEASUREMENTS, signed with the alias key. -/
def execGetMeasurements (index : Byte) (nonce : List Byte) (s : State) : Host.Outcome State Fault Refusal :=
  let bs := s.blocks index.toNat
  .next (s.spdm (if bs.isEmpty then .error 0x01
    else .measurements bs (Config.sign s.boot.alias_ (nonce ++ blockBytes bs))))

/-- SPDM_UNSUPPORTED_REQUEST: ERROR with the code UnsupportedRequest. -/
def execSpdmUnsupportedRequest (_code : Byte) (s : State) : Host.Outcome State Fault Refusal := .next (s.spdm (.error 0x07))

end Sys2Proof.Machine
end

