-- ==== Sys2Proof/Machine/Configs.lean ====
section
/-! DEFINITION. Configuration sets (22, R460 to R464; 20, R421, R422; 21, R445 to R447) and live firmware activation (R439, R465,
R466). -/

namespace Sys2Proof.Machine

/-! ### The image of a set (R460) -/

/-- A section of an image: type, length, offset. -/
structure Section where
  type : Nat
  rsv : Nat
  len : Nat
  off : Nat
  deriving DecidableEq, Repr, Inhabited

/-- The section table of an image. -/
def sectionsOf (bs : List Byte) : List Section :=
  (List.range (leAt bs 6 2)).map (fun i =>
    { type := leAt bs (64 + 16 * i) 2, rsv := leAt bs (66 + 16 * i) 2, len := leAt bs (68 + 16 * i) 4,
      off := leAt bs (72 + 16 * i) 8 })

/-- Whether bytes `lo` to `lo + n - 1` are zero. -/
def zeroAt (bs : List Byte) (lo n : Nat) : Bool := ((bs.drop lo).take n).all (fun b => b = 0)

/-- Whether no two members of a list overlap, each given as start and length. -/
def disjoint : List (Nat × Nat) → Bool
  | [] => true
  | a :: r => r.all (fun b => decide (a.1 + a.2 ≤ b.1) || decide (b.1 + b.2 ≤ a.1) || a.2 = 0 || b.2 = 0) && disjoint r

/-- Whether a list names nothing twice. -/
def distinct (l : List Nat) : Bool := decide (l.eraseDups.length = l.length)

/-- The first step of validation: header, section table, section places (R461 step 1). -/
def imageBad (bs : List Byte) : Bool :=
  let ss := sectionsOf bs
  let n := leAt bs 6 2
  decide (0x400000 < bs.length) || decide (bs.length < 64) || leAt bs 0 4 ≠ 0x53464743 || leAt bs 4 2 ≠ 1 || n = 0 ||
  decide (8 < n) || leAt bs 8 4 ≠ bs.length || !zeroAt bs 16 48 || decide (bs.length < 64 + 16 * n) ||
  !distinct (ss.map (fun x => x.type)) || !(ss.any (fun x => x.type = 1)) || !(ss.any (fun x => x.type = 2)) ||
  ss.any (fun x => decide (bs.length < x.off + x.len)) ||
  !disjoint ((0, 64 + 16 * n) :: ss.map (fun x => (x.off, x.len)))

/-- The bytes of a section, if the image has it. -/
def sectionOf (bs : List Byte) (type : Nat) : Option (List Byte) :=
  ((sectionsOf bs).find? (fun x => x.type = type)).map (fun x => (bs.drop x.off).take x.len)

/-- A voltage policy record (R421). -/
def policyOf (b : List Byte) : Policy :=
  { mode := leAt b 0 1, vMin := leAt b 1 1, vMax := leAt b 2 1, vFixed := leAt b 3 1, cap := leAt b 4 2, margin := leAt b 6 1 }

/-- Whether a policy record breaks R421. -/
def policyBad (b : List Byte) : Bool :=
  let p := policyOf b
  decide (p.vFixed < p.vMin) || decide (p.vMax < p.vFixed) || decide (80 < p.vMax) || decide (3 < p.mode) ||
  decide (20 < p.margin) || decide (1700 < p.cap) || !zeroAt b 7 9

/-- The partitions of section 1. -/
def partsOf (b : List Byte) : NMap PartCfg :=
  (List.range 16).map (fun i =>
    let e := (b.drop (32 * i)).take 32
    (i, { glens := leAt e 0 2, present := bit (leAt e 2 1) 0, pol := policyOf (e.drop 16) }))

/-- Whether section 1 breaks its table. -/
def partsBad (b : List Byte) : Bool :=
  let ps := (partsOf b).filter (fun e => e.2.present)
  decide (b.length ≠ 514) || leAt b 512 2 = 0 || decide (1700 < leAt b 512 2) ||
  (List.range 16).any (fun i =>
    let e := (b.drop (32 * i)).take 32
    decide (1 < leAt e 2 1) || !zeroAt e 3 13 || policyBad (e.drop 16)) ||
  (List.range 16).any (fun g => decide (1 < (ps.filter (fun e => bit e.2.glens g)).length))

/-- The region entries of section 2. -/
def regionsOf (b : List Byte) : List Region :=
  (List.range (b.length / 16)).map (fun i =>
    let e := (b.drop (16 * i)).take 16
    let f := leAt e 14 1
    { base := leAt e 0 8, units := leAt e 8 4, kind := leAt e 12 1, owner := leAt e 13 1, compressed := bit f 0,
      writable := bit f 1, tset := f / 16 })

/-- Whether a region lies in one stack's HBM, or somewhere in HBM or the far tier. -/
def regionPlaced (r : Region) : Bool :=
  (decide (hbmBase ≤ r.base) && decide (r.base + r.size ≤ hbmBase + hbmSize)) ||
  (decide (farBase ≤ r.base) && decide (r.base + r.size ≤ farBase + 2 * farSpan))

/-- The default reduction areas of stacks without a kind 3 entry. -/
def defaultAreas (rs : List Region) : List (Nat × Nat) :=
  ((List.range 16).filter (fun k => !rs.any (fun r => r.kind = 3 && stackOf r.base = k))).map (fun k =>
    (hbmBase + (k + 1) * stackSize - 0x4000000, 0x4000000))

/-- Whether one region breaks its table (R342, R460, R461). -/
def regionBad (r : Region) (flags rsv : Nat) : Bool :=
  r.base % 0x200000 ≠ 0 || r.units = 0 || decide (5 < r.kind) || !regionPlaced r || rsv ≠ 0 || bits flags 2 2 ≠ 0 ||
  (if r.kind = 0 || r.kind = 2 then decide (15 < r.owner) else if r.kind = 5 then false else r.owner ≠ 0) ||
  ((r.kind = 1 || r.kind = 3) && decide (farBase ≤ r.base)) ||
  (r.compressed && (r.kind ≠ 0 || r.units % 3 ≠ 0 || decide (farBase ≤ r.base)))

/-- Whether section 2 breaks its table. -/
def regionsBad (b : List Byte) : Bool :=
  let rs := regionsOf b
  b.length % 16 ≠ 0 || decide (16384 < b.length) ||
  (List.range (b.length / 16)).any (fun i => regionBad (rs.getD i default) (leAt b (16 * i + 14) 1) (leAt b (16 * i + 15) 1)) ||
  !disjoint (rs.map (fun r => (r.base, r.size)) ++ defaultAreas rs)

/-- Whether an optional section breaks its table: 3 table sets, 4 tile modes, 5 rings, 6 limits. -/
def optionBad (l : Install) (type : Nat) (b : List Byte) : Bool :=
  match type with
  | 3 => b.length ≠ 3840
  | 4 => b.length ≠ 256 || b.any (fun x => decide (3 < x.toNat))
  | 5 => b.length ≠ 256 * (l.nx + l.ny) || (List.range (b.length / 4)).any (fun i => decide (2 ^ 17 ≤ leAt b (4 * i) 4))
  | 6 => b.length ≠ 288 || !zeroAt b 18 14 || (List.range 9).any (fun i => decide (10000 < leAt b (2 * i) 2))
  | 7 => b.length % 256 ≠ 0 || decide (65536 < b.length)
  | _ => decide (2 < type)

/-! ### Job key entries (R445, R446) -/

/-- The 256-byte entries of section 7. -/
def entriesOf (b : List Byte) : List (List Byte) := (List.range (b.length / 256)).map (fun i => (b.drop (256 * i)).take 256)

/-- Whether an entry breaks its table. -/
def entryBad (e : List Byte) : Bool :=
  let f := leAt e 4 1
  let a := bit f 0
  let b := bit f 1
  decide (7 < f) || !zeroAt e 5 3 || !zeroAt e 10 6 || !zeroAt e 176 64 ||
  !((a && leAt e 3 1 = leAt e 8 1) || (b && leAt e 3 1 = leAt e 9 1)) || (a && b && leAt e 8 1 = leAt e 9 1) ||
  (leAt e 0 2 = 0 && (b || bit f 2))

/-- Whether entries name a job or a context twice. -/
def entriesClash (es : List (List Byte)) : Bool :=
  !distinct (es.map (fun e => leAt e 0 2)) ||
  !distinct ((es.filter (fun e => leAt e 0 2 ≠ 0)).map (fun e => leAt e 2 1))

/-- An entry with its keys opened (R445). -/
def jobOfEntry (e keys : List Byte) : JobKey :=
  let f := leAt e 4 1
  { job := leAt e 0 2, ctx := leAt e 2 1, sendId := leAt e 3 1, idA := if bit f 0 then some (leAt e 8 1) else none,
    idB := if bit f 1 then some (leAt e 9 1) else none, dump := bit f 2, keyA := keys.take 32,
    keyB := (keys.drop 32).take 32, dumpKey := (keys.drop 64).take 32 }

/-- The identifiers of a job's keys with their bytes. -/
def JobKey.keys (j : JobKey) : List (Nat × List Byte) :=
  (j.idA.map (fun i => (i, j.keyA))).toList ++ (j.idB.map (fun i => (i, j.keyB))).toList

/-- Whether a key identifier that is installed for a job arrives with other bytes (R446). -/
def rekeyed (old new : List JobKey) : Bool :=
  new.any (fun j => old.any (fun k => k.job = j.job && j.keys.any (fun a => k.keys.any (fun b => a.1 = b.1 && a.2 ≠ b.2))))

/-! ### Validation (R461) -/

/-- A set as its image gives it, with its job entries opened. -/
def setOf (bs : List Byte) (js : List JobKey) : CfgSet :=
  let p := (sectionOf bs 1).getD []
  let lim := (sectionOf bs 6).getD []
  { serial := leAt bs 12 4
    parts := partsOf p
    pkgCap := leAt p 512 2
    regions := regionsOf ((sectionOf bs 2).getD [])
    tsets := (((sectionOf bs 3).getD []).zipIdx).map (fun e => (e.2, e.1.toNat))
    modes := NMap.tab 0 0 256 (fun t => leAt ((sectionOf bs 4).getD []) t 1)
    rings := let r := (sectionOf bs 5).getD []; NMap.tab 0 0 (r.length / 4) (fun i => leAt r (4 * i) 4)
    thr := NMap.tab 0 0 9 (fun k => leAt lim (2 * k) 2)
    wlim := NMap.tab 0 0 256 (fun c => leAt lim (32 + c) 1)
    jobs := js
    image := bs }

/-- The image among the bytes staged: as many of them as its header says (R460, R461). -/
def imageOf (bs : List Byte) : List Byte := if leAt bs 8 4 ≤ bs.length then bs.take (leAt bs 8 4) else bs

/-- An image validated in the order of R461: the set, or the status that refuses it. -/
def State.validate (s : State) (bs : List Byte) : Except Status CfgSet :=
  let bs := imageOf bs
  if imageBad bs then .error .formatFault
  else
    let ss := sectionsOf bs
    let es := entriesOf ((sectionOf bs 7).getD [])
    let opened := es.map (fun e => (Config.unwrap s.boot.alias_ e).map (jobOfEntry e))
    if partsBad ((sectionOf bs 1).getD []) || regionsBad ((sectionOf bs 2).getD []) ||
        ss.any (fun x => x.rsv ≠ 0 || optionBad s.links.inst x.type ((sectionOf bs x.type).getD [])) ||
        es.any entryBad || entriesClash es then .error .badCommand
    else if opened.any (fun o => o.isNone) then .error .permission
    else
      let c := setOf bs (opened.filterMap id)
      if c.parts.any (fun e => e.2.present && (List.range 16).any (fun g => bit e.2.glens g && s.glenFailed g)) ||
          c.jobs.any (fun j => j.job ≠ 0 && (s.ctx? j.ctx).isNone) ||
          rekeyed ((s.cfg.active.map (fun a => a.jobs)).getD []) c.jobs then .error .rejected
      else .ok c

/-- Whether a range lies wholly in one host-open staging range (R461, R465, R471, R476). -/
def State.inStaging (s : State) (pa n : Nat) : Bool :=
  match s.regionAt pa with
  | some r => r.kind = 4 && decide (pa + n ≤ r.base + r.size) && decide (r.base < farBase)
  | none => false

/-- The reply of a CONFIG_STAGE or CONFIG_SWAP, which CONFIG_STATUS remembers (R464). -/
def State.cfgReply (s : State) (h : Pkt) (st : Status) : State :=
  { s with cfg := { s.cfg with lastStatus := st.code } }.replyS h st

/-- The outcome of a CONFIG_STAGE: the shadow set replaced, or left invalid. -/
def State.stageDone (s : State) (h : Pkt) (x : Except Status CfgSet) : State :=
  match x with
  | .ok c => { s with cfg := { s.cfg with shadow := some c } }.cfgReply h .ok
  | .error st => { s with cfg := { s.cfg with shadow := none } }.cfgReply h st

/-- A command of R464 waits while a fence is under way. -/
def State.cfgFree (s : State) : Bool := s.cfg.fence.isNone

/-- CONFIG_STAGE. -/
def execConfigStage (h : Pkt) (source : Byte) (addr : W64) (len : W32) (s : State) : Host.Outcome State Fault Refusal :=
  let n := len.toNat
  if !s.cfgFree then .next s
  else .next (s.host h true false (decide (source.toNat < 2)) (fun _ s =>
    if source.toNat = 0 then
      if 0x400000 < n then s.stageDone h (.error .formatFault) else s.stageDone h (s.validate (Bytes.rd s.cfg.window 0 n))
    else if !s.inStaging addr.toNat n then s.stageDone h (.error .permission)
    else if 0x400000 < n then s.stageDone h (.error .formatFault)
    else
      let m := s.hbmRead addr.toNat n s.boot.stagingKey
      if m.bad then m.st.stageDone h (.error .poisoned) else m.st.stageDone h (m.st.validate m.bytes)))

/-! ### CONFIG_SWAP (R422, R446, R447, R463) -/

/-- Kind and owner of an address in a set. -/
def CfgSet.kindOwner (c : CfgSet) (pa : Nat) : Option (Nat × Nat) :=
  (c.regions.find? (fun r => r.holds pa)).map (fun r => (r.kind, r.owner))

/-- The addresses that pin their regions: page tables, KV runs and golden copies. -/
def State.pinnedPas (s : State) : List Nat :=
  s.ctxs.flatMap (fun e => e.2.tables) ++
  s.seqs.flatMap (fun e => e.2.runs.filterMap (fun r => r.2.pa)) ++
  s.prefixes.flatMap (fun p => p.runs.filterMap (fun r => r.2.pa)) ++
  s.models.flatMap (fun e => e.2.blocks.map (fun b => b.2.2))

/-- The reduction area of a stack under a set: base and size (R348, R460). -/
def CfgSet.redArea (c : CfgSet) (k : Nat) : Nat × Nat :=
  ((c.regions.find? (fun r => r.kind = 3 && stackOf r.base = k)).map (fun r => (r.base, r.size))).getD
    (hbmBase + (k + 1) * stackSize - 0x4000000, 0x4000000)

/-- Whether every byte of a stack's reduction area is still in its area under a new set. -/
def CfgSet.keepsArea (old new : CfgSet) (k : Nat) : Bool :=
  let a := old.redArea k
  let b := new.redArea k
  decide (b.1 ≤ a.1) && decide (a.1 + a.2 ≤ b.1 + b.2)

/-- Whether the present state refuses a set. -/
def State.swapRefused (s : State) (new : CfgSet) : Bool :=
  let moved := fun (p : Nat) => match NMap.get? s.parts p, NMap.get? new.parts p with
    | some a, some b => decide (a.glens ≠ b.glens) || !b.present
    | some _, none => true
    | none, _ => false
  (List.range 16).any (fun p => moved p &&
    (!(s.ctxsOf p).isEmpty || s.models.any (fun e => e.2.part = p))) ||
  (match s.cfg.active with
    | some old =>
      s.pinnedPas.any (fun a => decide (old.kindOwner a ≠ new.kindOwner a)) ||
      (List.range 16).any (fun k => !(s.stack k).trees.isEmpty && !old.keepsArea new k)
    | none => false) ||
  new.jobs.any (fun j => j.job ≠ 0 && (s.ctx? j.ctx).isNone)

/-- A quad under the new set: off outside the partitions, back from there into one unless its glen is disabled (R315); a partition whose
record changed starts at v_fixed (R419, R420, R422, R424). -/
def State.quadUnder (s : State) (old : Option CfgSet) (q : Nat) (x : Quad) : Quad :=
  match s.quadPart q with
  | none => if x.off then x else { x with off := true, offCause := 3 }
  | some p =>
    let dis := s.isDisabled 0 (q / 4)
    let pol := (NMap.get? s.parts p).map (fun c => c.pol)
    let was := old.bind (fun c => ((NMap.get? c.parts p).filter (fun c => c.present && bit c.glens (q / 4))).map (fun c => c.pol))
    if x.off && x.offCause = 3 then
      if dis then { x with offCause := 1 }
      else { x with off := false, offCause := 0, scrubPass := true, gov := s.startPoint p }
    else if x.off || x.scrubPass || s.partInReset p || was = pol then x
    else { x with gov := s.startPoint p }

/-- The frame counters kept over a swap: those of keys that stay installed (R447). -/
def keptFrames (old new : List JobKey) (k : Nat) : Bool :=
  let has := fun (js : List JobKey) => js.any (fun j => j.job = k / 65536 && j.keys.any (fun a => a.1 = k / 256 % 256))
  has old && has new

/-- Whether a quad is off because no partition holds it. -/
def Quad.absent (x : Quad) : Bool := x.off && x.offCause == 3

/-- The tiles of quads outside the partitions as they come back (assumption log entry 61). -/
def State.darken (s : State) : State :=
  { s with tiles := NMap.mapv s.tiles (fun t x => if (s.quad (quadOf t)).absent then x.afterReset else x) }

/-- The selector flipped: the new set is active, the former one discarded, the shadow invalid. -/
def State.flip (s : State) (new : CfgSet) : State :=
  let old := s.cfg.active
  let oldJobs := (old.map (fun c => c.jobs)).getD []
  let s := { s with
    cfg := { s.cfg with active := some new, shadow := none }
    links := { s.links with frames := s.links.frames.filter (fun e => keptFrames oldJobs new.jobs e.1) } }
  let s := (List.range 64).foldl (fun s q => s.modQuad q (s.quadUnder old q)) s
  s.darken

/-- CONFIG_SWAP; `fenceOk` is whether every unit reaches its boundary within 40 µs: the fence completes once the running transfers
stand at a restartable point with no write on its way (R220). -/
def execConfigSwap (h : Pkt) (fenceOk : Bool) (s : State) : Host.Outcome State Fault Refusal :=
  if !s.cfgFree || (fenceOk && !s.xfersAtRest) then .next s
  else .next (s.host h true false true (fun _ s =>
    match s.cfg.shadow with
    | none => s.cfgReply h .rejected
    | some c =>
      if s.swapRefused c then s.cfgReply h .rejected
      else if fenceOk then (s.pauseXfers.flip c).cfgReply h .ok
      else { s with cfg := { s.cfg with fence := some (h, s.clk.wall) } }))

/-- CONFIG_FENCE_TIMEOUT: 40 µs after the fence began, every unit resumes under the old set. -/
def execConfigFenceTimeout (s : State) : Host.Outcome State Fault Refusal :=
  match s.cfg.fence with
  | some (h, t) =>
    .next (if t + 40000 ≤ s.clk.wall then { s with cfg := { s.cfg with fence := none } }.cfgReply h .timeout else s)
  | none => .next s

/-! ### Firmware activation (R435, R439, R458, R465, R466) -/

/-- The `n` bytes of a record from byte `i` on. -/
def slice (bs : List Byte) (i n : Nat) : List Byte := (bs.drop i).take n

/-- Whether an image's root key is the vendor's, by the hash in mask ROM, and its signature verifies under it (R434, R435, R459). -/
def vendorSigned (bs : List Byte) : Bool :=
  let key := slice bs 24 64
  decide (BitVec.ofNat 256 (leAt (Config.sha256 key) 0 32) = Config.vendorRootHash) &&
  Config.ecdsaOk key (Config.sha256 (bs.take 88 ++ List.replicate 64 0 ++ bs.drop 152)) (slice bs 88 64)

/-- Whether an image passes the checks of R435 and of its header against the policy in force. -/
def State.imageOk (s : State) (bs : List Byte) : Bool :=
  decide (256 ≤ bs.length) && decide (bs.length ≤ 0x400000) && leAt bs 0 4 = 0x46573442 && leAt bs 4 4 = 1 &&
  leAt bs 8 4 + 256 = bs.length && decide (leAt bs 12 2 ≤ 4095) && decide (s.boot.owned → s.boot.floor ≤ leAt bs 12 2) &&
  decide (leAt bs 14 1 < 4) && leAt bs 15 1 = 0 && zeroAt bs 152 104 && (bit (leAt bs 14 1) 0 == s.boot.testMode) &&
  vendorSigned bs

/-- FW_STAGE. -/
def execFwStage (h : Pkt) (pa : W64) (len : W32) (s : State) : Host.Outcome State Fault Refusal :=
  let n := len.toNat
  if !s.cfgFree then .next s
  else .next (s.host h true false true (fun _ s =>
    if !s.inStaging pa.toNat n then s.replyS h .permission
    else if 0x400000 < n then s.replyS h .rejected
    else
      let m := s.hbmRead pa.toNat n s.boot.stagingKey
      let s := m.st
      if m.bad then s.replyS h .poisoned
      else if !s.imageOk m.bytes then s.replyS h .rejected
      else
        let w := (m.bytes, leAt m.bytes 16 4, leAt m.bytes 12 2, bit (leAt m.bytes 14 1) 1)
        { s with boot := { s.boot with staged := some w } }.replyS h .ok))

/-- FW_ACTIVATE: command interpretation pauses (R466). -/
def execFwActivate (h : Pkt) (s : State) : Host.Outcome State Fault Refusal :=
  if !s.cfgFree then .next s
  else .next (s.host h true false true (fun _ s =>
    match s.boot.staged with
    | none => s.replyS h .rejected
    | some w =>
      if !s.imageOk w.1 then s.replyS h .rejected
      else { s with boot := { s.boot with devState := 2, pause := some h } }))

/-- SHA-256 applied `n` times. -/
def hashed : Nat → List Byte → List Byte
  | 0, k => k
  | n + 1, k => hashed n (Config.sha256 k)

/-- The sealing key S(v) under a seal top (R438). -/
def sealKeyOf (top : List Byte) (v : Nat) : List Byte := hashed (4095 - v) top

/-- A steward record sealed by firmware of version `w` under S(w) (R440). -/
def sealRecord (key : List Byte) (w : Nat) (iv plain : List Byte) : List Byte :=
  let head := leBytes 2 w ++ leBytes 2 0 ++ iv
  head ++ Config.gcmSeal key iv head plain

/-- A sealed record as firmware of version `v` with key S(v) reads it: one of a later version, or whose tag fails, is absent (R440). -/
def openRecord (key : List Byte) (v : Nat) (bs : List Byte) : Option (List Byte) :=
  let w := leAt bs 0 2
  if bs.length < 32 || v < w then none
  else Config.gcmOpen (hashed (v - w) key) (slice bs 4 12) (bs.take 16) (bs.drop 16)

/-- The sealing key of a firmware version takes over, and the steward reads its records with it (R439, R440). In test mode there is no
seal top and nothing opens (R437). -/
def Boot.unseal (b : Boot) (v : Nat) : Boot :=
  if b.secret then
    let key := sealKeyOf b.sealTop v
    { b with sealKey := key, opened := b.sealed.filterMap (openRecord key v) }
  else { b with sealKey := [], opened := [] }

/-- COMMAND_INTERPRETATION_RESUMES: the new firmware runs with its own alias key and answers the activation (R439, R466). -/
def execCommandInterpretationResumes (s : State) : Host.Outcome State Fault Refusal :=
  match s.boot.pause, s.boot.staged with
  | some h, some (img, ver, sec, sup) =>
    if !s.running then .next s
    else
      let key := if s.boot.testMode then s.boot.alias_ else s.boot.keyNext
      let b := { s.boot with fwImage := img, fwVer := ver, secVer := sec, fwOk := sup, staged := none, pause := none,
                             devState := 1, alias_ := key, keyNext := s.boot.keyNext + 1 }
      .next ({ s with boot := b.unseal sec }.reply h .ok ver 0)
  | _, _ => .next s

end Sys2Proof.Machine
end

