-- ==== Sys2Proof/Machine/Observe.lean ====
section
/-! DEFINITION. Counter snapshots, trace control and hang dumps (23, R467 to R476), and the hang monitors (19, R399, R400). -/

namespace Sys2Proof

namespace Machine

/-! ### Snapshots (R469, R470) -/

/-- COUNTER_SNAPSHOT: an instant 10 µs to 1 s ahead; 0 stands for 10 µs. -/
def execCounterSnapshot (h : Pkt) (instant : W64) (s : State) : Host.Outcome State Fault Refusal :=
  .next (s.host h true false true (fun _ s =>
    let t := if instant.toNat = 0 then s.clk.now + 10000 else instant.toNat
    if t < s.clk.now + 10000 || s.clk.now + 1000000000 < t then s.replyS h .rejected
    else if s.snapPending.isSome then s.replyS h .noResource
    else { s with snapPending := some (h, t) }))

/-- COUNTER_SNAPSHOT_LATCH: at its instant every counter is latched, and the bank shows the new snapshot. -/
def execCounterSnapshotLatch (s : State) : Host.Outcome State Fault Refusal :=
  match s.snapPending with
  | some (h, t) =>
    .next (if t ≤ s.clk.now then
      { s with snapPending := none, snapBank := s.ctrs, snapAt := t }.reply h .ok t 0 else s)
  | none => .next s

/-! ### Trace (R471 to R473) -/

/-- Whether a ring size is a power of two from 64 KiB to 256 MiB. -/
def traceSizeOk (n : Nat) : Bool := (List.range' 16 13).any (fun k => n = 2 ^ k)

/-- Whether a ring lies wholly in a range that its source may use. -/
def State.traceRingOk (s : State) (steward : Bool) (ctx base size : Nat) : Bool :=
  match s.regionAt base with
  | some r =>
    decide (base + size ≤ r.base + r.size) && (if steward then r.kind = 4 else r.kind = 5 && r.owner = ctx && (s.ctx? ctx).isSome)
  | none => false

/-- TRACE_START: every core of the context writes a SYNC record. TRACE_POS.head is host software's, and the ring starts empty at it
(DESIGN CHOICE, log entry 157). -/
def execTraceStart (h : Pkt) (source ctx : Byte) (base : W64) (size : W32) (s : State) :
    Host.Outcome State Fault Refusal :=
  let st := decide (source.toNat = 1)
  let n := size.toNat
  .next (s.host h true false (decide (source.toNat < 2) && traceSizeOk n && base.toNat % n = 0) (fun _ s =>
    if !s.traceRingOk st ctx.toNat base.toNat n then s.replyS h .permission
    else if s.trace.running then s.replyS h .rejected
    else
      let s := { s with trace := { running := true, steward := st, ctx := ctx.toNat, base := base.toNat, size := n, head := s.trace.head,
                                   tail := s.trace.head % (n / 32), lost := 0, lostSince := 0 } }
      let ts := if st then [] else s.tilesBound ctx.toNat
      let s := ts.foldl (fun s t => (s.modCore t (fun c => { c with flow := [] })).traceSync t) s
      s.replyS h .ok))

/-- TRACE_STOP. -/
def execTraceStop (h : Pkt) (s : State) : Host.Outcome State Fault Refusal :=
  .next (s.host h true false true (fun _ s =>
    { s with trace := { s.trace with running := false } }.replyS h .ok))

/-! ### Hang dumps (R449, R474 to R476) -/

/-- Numbers as consecutive fields of `w` bytes, `n` of them, missing ones 0. -/
def fields (w n : Nat) (xs : List Nat) : List Byte := (List.range n).flatMap (fun i => leBytes w (xs.getD i 0))

/-- The status words of the latest 64 tickets of an engine, oldest first. -/
def Tickets.words (k : Tickets) (vec : Bool) : List Nat :=
  (List.range 64).map (fun i => if 64 ≤ k.issued + i + 1 then k.word (k.issued + i + 1 - 64) vec else 0)

/-- A progress record as a number (R216). -/
def Xfer.recordNat (q : Xfer) : Nat := ((q.record 0).map (fun d => d.2.2 * 2 ^ (8 * d.1))).sum

/-- The section of a tile; `unit` is the stalled unit, 0 for none. -/
def State.dumpSection (s : State) (t unit : Nat) : List Byte :=
  let x := s.tile t
  let c := x.core
  let cx := x.ctx.getD 0
  let tab := fun (w n : Nat) (m : NMap Nat) => fields w n ((List.range n).map (fun i => NMap.get 0 m i))
  leBytes 8 (t * 2 ^ 56 + x.gen * 2 ^ 48 + unit * 2 ^ 40) ++ leBytes 8 c.pc ++ tab 8 32 c.g ++ tab 4 16 c.f ++
  leBytes 8 (c.p % 256 + (if c.runahead then 256 else 0) + c.sticky % 32 * 2 ^ 16) ++
  fields 8 6 [x.tkA.issued, x.tkV.issued, x.tkD.issued, x.tkA.allDone, x.tkV.allDone, x.tkD.allDone] ++
  fields 8 64 (x.tkA.words false) ++ fields 8 64 (x.tkV.words true) ++ fields 8 64 (x.tkD.words false) ++
  fields 8 8 (x.aops.map (fun o => o.i.word)) ++ fields 8 8 (x.vops.map (fun o => o.i.word)) ++
  fields 32 16 (x.xfers.map Xfer.recordNat) ++
  tab 16 16 x.act ++ tab 16 16 x.drain ++ tab 16 16 x.vdesc ++ tab 8 256 x.chain ++ tab 16 16 x.patch ++ tab 16 16 x.sparse ++
  fields 16 4 ((List.range 4).map (fun i => (NMap.get Lut.reset x.luts i).hdr)) ++
  fields 8 64 ((List.range 64).map (fun j => NMap.get 0 s.rng (cx * 16384 + t * 64 + j))) ++ List.replicate 1720 0

/-- The dump key of a context: its job's, or a random one (R449). -/
def State.dumpKey (s : State) (c : Nat) : Nat × List Byte :=
  match s.cfg.active.bind (fun a => a.jobs.find? (fun j => j.job ≠ 0 && j.ctx = c && j.dump)) with
  | some j => (0, j.dumpKey)
  | none => (1, leBytes 8 s.boot.keyNext)

/-- A hang dump of a context's tiles, held among the 16 latest (R474, R475). -/
def State.takeDump (s : State) (c t unit dom : Nat) : State :=
  let ts := s.tilesBound c
  let n := ts.length
  let key := s.dumpKey c
  let iv := (List.range 12).map (fun i => BitVec.ofNat 8 (s.fv i))
  let hdr := leBytes 4 0x504D5544 ++ leBytes 2 1 ++ leBytes 1 c ++ leBytes 1 key.1 ++ leBytes 8 s.dumpNext ++
    leBytes 8 s.clk.now ++ leBytes 2 ((s.jobOf c).getD 0) ++ leBytes 2 n ++ leBytes 4 (80 + 8192 * n) ++ iv ++ leBytes 2 dom ++
    List.replicate 18 0
  let plain := ts.flatMap (fun u => s.dumpSection u (if u = t then unit else 0))
  let cipher := Config.sealBytes key.2 (hdr ++ plain)
  let body := (List.range (8192 * n + 16)).map (fun i => cipher.getD i 0)
  let d : Dump := { handle := s.dumpNext, ctx := c, bytes := hdr ++ body }
  { s.used 12 with
    dumps := (s.dumps ++ [d]).drop (s.dumps.length + 1 - 16)
    dumpNext := (s.dumpNext + 1) % 2 ^ 64
    boot := { s.boot with keyNext := s.boot.keyNext + 1 } }

/-- DUMP_READ. -/
def execDumpRead (h : Pkt) (handle dst : W64) (len : W32) (s : State) : Host.Outcome State Fault Refusal :=
  .next (s.host h true false true (fun _ s =>
    match s.dumps.find? (fun d => d.handle = handle.toNat) with
    | none => s.replyS h .rejected
    | some d =>
      if !s.inStaging dst.toNat len.toNat then s.replyS h .permission
      else if len.toNat < d.bytes.length then s.replyS h .noResource
      else match s.targetFails dst.toNat true with
        | some st => s.replyS h st
        | none => (s.hbmWrite dst.toNat d.bytes s.boot.stagingKey false).reply h .ok d.bytes.length 0))

/-! ### HANG (R396, R399, R400) -/

end Machine

/-- The index of a timing domain (R396). -/
def Domain.index : Domain → Nat
  | .engine t => t.toNat
  | .core t => 256 + t.toNat
  | .hbm k => 512 + k.toNat
  | .cxl => 528
  | .far p => 529 + p.toNat
  | .ohmist p => 531 + p.val
  | .saddle k => 543 + k.toNat
  | .colCore => 551
  | .steward => 552

/-- The kind of a timing domain, as the limits of a configuration set order them (R460). -/
def Domain.kind : Domain → Nat
  | .engine _ => 0 | .core _ => 1 | .hbm _ => 2 | .cxl => 3 | .far _ => 4 | .ohmist _ => 5 | .saddle _ => 6 | .colCore => 7
  | .steward => 8

namespace Machine

/-- The progress threshold of a domain kind in microseconds: 200 by default (R399, R460). -/
def State.threshold (s : State) (kind : Nat) : Nat :=
  let v := match s.cfg.active with
    | some c => NMap.get 0 c.thr kind
    | none => 0
  if v = 0 then 200 else 10 * v

/-- Whether a tile serves a context that is not suspended, and is neither off nor in reset. -/
def State.tileServes (s : State) (t : Nat) : Bool :=
  !(s.tile t).inReset && !s.tileOff t && ((((s.tile t).ctx).bind s.ctx?).map (fun c => !c.suspended)).getD false

/-- Whether a domain holds a request whose wait a progress monitor counts (R399). -/
def State.mayStall (s : State) (d : Domain) (unit : Nat) : Bool :=
  match d with
  | .core t => s.tileServes t.toNat && decide ((s.tile t.toNat).core.run = .running)
  | .engine t =>
    let x := s.tile t.toNat
    s.tileServes t.toNat && (match unit with
      | 2 => !x.aops.isEmpty && !x.aops.all (fun o => x.reloadHeld o)
      | 3 => !x.vops.isEmpty
      | 4 => !x.xfers.isEmpty
      | 5 => !x.xfers.isEmpty
      | _ => false)
  | .hbm k => (s.stack k.toNat).available
  | .far p => (s.far p.toNat).present && !(s.far p.toNat).failed
  | .ohmist p => (s.ohm p.val).up
  | .saddle k => decide (k.toNat < 4) || !s.saddleRerouted.contains (k.toNat - 4)
  | _ => true

/-- The stall of a tile's engine or core domain: the context's tiles stopped, the dump taken, the invocation ended with ST_TIMEOUT,
the tile reset. -/
def State.hangTile (s : State) (t unit dom : Nat) (ev : State → Nat → State) : State :=
  let c := ((s.tile t).ctx).getD 0
  let s := (s.tilesBound c).foldl (fun s u => s.modCore u Core.squash) s
  let h := s.dumpNext
  let s := ev (s.takeDump c t unit dom) h
  let s := s.endNow t .timeout
  ((s.worksOn t).foldl State.cancelOthers s).resetTile t

/-- HANG: a domain whose unit has made no progress for `timedNs`. -/
def execHang (d : Domain) (unit : Byte) (timedNs : Nat) (s : State) : Host.Outcome State Fault Refusal :=
  let us := s.threshold d.kind
  let ev := fun (s : State) (ctx : Option Nat) (h : Nat) => s.raise
    { evUnit 9 d.index 0x14 1 [(24, 4, us), (28, 1, unit.toNat), (32, 8, h)] with ctx := ctx }
  if !s.running || decide (timedNs < us * 1000) || !s.mayStall d unit.toNat then .next s
  else match d with
    | .engine t => .next (s.hangTile t.toNat unit.toNat d.index (fun s h => ev s (s.tile t.toNat).ctx h))
    | .core t => .next (s.hangTile t.toNat unit.toNat d.index (fun s h => ev s (s.tile t.toNat).ctx h))
    | .hbm k => .next ((ev s none 0).stackDown k.toNat)
    | .cxl => .next ((ev s none 0).portReset)
    | .far p =>
      .next (((ev s none 0).modFar p.toNat (fun f => { f with failed := true })).failFarWrites p.toNat)
    | .ohmist p => .next ((ev s none 0).portDown p.val 0)
    | .saddle k => .next ((ev s none 0).saddleDown k.toNat)
    | _ => .next ((ev s none 0).hardReset)

end Machine
end Sys2Proof
end

