-- ==== Sys2Proof/Machine/Boot.lean ====
section
/-! DEFINITION. Pins, power-up, boot and JTAG (21, R435 to R441, R451, R452; 22, R453 to R459; 24, R486; 25, R500; 17, R352, R354;
20, R432). -/

namespace Sys2Proof.Machine

/-! ### Pins (R453, R454, R486, R500) -/

/-- Whether a low pulse is recognised: never below 1 µs, always from 10 µs; between these a free value decides (R500). -/
def State.pulse (s : State) (widthNs : Nat) : Bool :=
  decide (1000 ≤ widthNs) && (decide (10000 ≤ widthNs) || decide (s.fv 0 % 2 = 1))

/-- A chip reset by a pin or by JTAG; a package that FAULT_N or THERMTRIP_N has stopped stays as it is. -/
def State.pinReset (s : State) : State := if s.live then s.chipReset .chip else s

/-- TRAY_RESET_N_ASSERT: while it is low the QSPI lands are in high impedance (R453). -/
def execTrayResetNAssert (widthNs : Nat) (s : State) : Host.Outcome State Fault Refusal :=
  let r := s.used 1
  .next (if s.pins.supplies && s.pulse widthNs then
      { r with pins := { r.pins with trayResetN := false, qspiHighZ := true } }.pinReset
    else r)

/-- PERST_N_ASSERT: a chip reset while TRAY_RESET_N is high (R352). -/
def execPerstNAssert (widthNs : Nat) (s : State) : Host.Outcome State Fault Refusal :=
  let r := s.used 1
  .next (if s.pins.supplies && s.pulse widthNs then
      let p := { r with pins := { r.pins with perstN := false } }
      if s.pins.trayResetN then p.pinReset else p
    else r)

/-- PERST_N_RELEASE. -/
def execPerstNRelease (s : State) : Host.Outcome State Fault Refusal :=
  .next (if s.pins.supplies then { s with pins := { s.pins with perstN := true } } else s)

/-- PWRGOOD_FALL: every quad off and the package in chip reset (R454). -/
def execPwrgoodFall (widthNs : Nat) (s : State) : Host.Outcome State Fault Refusal :=
  let r := s.used 1
  .next (if s.pins.supplies && s.pulse widthNs then
      { r with pins := { r.pins with pwrgood := false } }.pinReset.allQuadsOff
    else r)

/-- PWRGOOD_RISE: the hold in chip reset ends; the quads come up (R419, R454). -/
def execPwrgoodRise (s : State) : Host.Outcome State Fault Refusal :=
  .next (if s.pins.supplies && !s.pins.pwrgood then
      { s with pins := { s.pins with pwrgood := true }, quads := if s.live then [] else s.quads }
    else s)

/-- SUPPLY_REMOVAL: everything in the package is lost, and its open-drain outputs release (R432, R487). What lies outside stays:
the far tier's and the host's memory, what was sent. -/
def execSupplyRemoval (s : State) : Host.Outcome State Fault Refusal :=
  let z := State.reset
  .next { z with
    pending := s.pending
    pins := { z.pins with supplies := false, pwrgood := false }
    boot := { z.boot with keyNext := s.boot.keyNext }
    clk := { z.clk with wall := s.clk.wall }
    port := { z.port with sent := s.port.sent }
    mem := { z.mem with far := s.mem.far, farKey := s.mem.farKey, farPoison := s.mem.farPoison, farLost := s.mem.farLost,
                        host := s.mem.host, hostPoison := s.mem.hostPoison }
    links := { z.links with out := s.links.out }
    freeCtr := s.freeCtr }

/-- SUPPLIES_APPLIED: the SMBus address straps are latched (R486); ALERT_MASK reads 0 (R430). -/
def execSuppliesApplied (strap0 strap1 : Bool) (s : State) : Host.Outcome State Fault Refusal :=
  .next (if s.pins.supplies then s
    else
      { s with pins := { s.pins with supplies := true, straps := (if strap0 then 1 else 0) + (if strap1 then 2 else 0) }
               power := { s.power with alertMask := 0 } })

/-- The package's 7-bit SMBus address (R486). -/
def Pins.smbAddr (p : Pins) : Nat := 0x48 + p.straps

/-! ### JTAG (R451, R477) -/

/-- JTAG_EXTEST: a chip reset, held while EXTEST is selected. -/
def execJtagExtest (s : State) : Host.Outcome State Fault Refusal :=
  .next (if s.pins.supplies then { s with pins := { s.pins with jtag := 3 } }.pinReset else s)

/-- The 32 bits of IDCODE. -/
def idcode : Nat := 1 + Config.jedecId % 2 ^ 11 * 2 + 0x0B74 * 2 ^ 12 + Config.siliconRev.toNat % 16 * 2 ^ 28

/-- JTAG_IDCODE, shifted out least significant bit first. -/
def execJtagIdcode (s : State) : Host.Outcome State Fault Refusal :=
  .next (if s.pins.supplies then
    { s with pins := { s.pins with jtag := 1, tdo := (List.range 32).map (fun i => bit idcode i) } } else s)

/-- JTAG_BYPASS, for BYPASS and every unlisted code: a register of one bit that captures 0. -/
def execJtagBypass (_code : Byte) (s : State) : Host.Outcome State Fault Refusal :=
  .next (if s.pins.supplies then { s with pins := { s.pins with jtag := 0, tdo := [false] } } else s)

/-- JTAG_SAMPLE_PRELOAD: the levels of the lands are sampled and the chain is loaded. -/
def execJtagSamplePreload (pins preload : List Bool) (s : State) : Host.Outcome State Fault Refusal :=
  .next (if s.pins.supplies then { s with pins := { s.pins with jtag := 2, tdo := pins, bscan := preload } } else s)

/-! ### Flash records (R435, R436, R441, R456 to R459) -/

/-- Whether a present record fails: its signature, or a signer that may not sign it. `vendorToo`: the vendor's repair record is
accepted in an owned package. -/
def recordBad (owned vendorToo : Bool) (r : FlashRec) : Bool :=
  r.present && (!r.sigOk || (if owned then !r.owner && !vendorToo else r.owner))

/-- The error code a boot ends with, if it fails; checks in the order of the boot steps. -/
def bootError (b : BootInputs) (testMode : Bool) : Option Nat :=
  let owned := b.policy.present
  let floor := leAt b.policy.body 80 2
  if !b.dirOk then some 6
  else if !b.image.present || decide (b.imageRoot ≠ Config.vendorRootHash) || !b.image.sigOk || decide (4095 < b.imageSecVer) || (owned && decide (b.imageSecVer < floor)) ||
      b.imageTest ≠ testMode then some 1
  else if (owned && !b.policy.sigOk) || recordBad owned true b.repair || recordBad owned false b.install then some 2
  else if !b.identity || (!testMode && !b.pufOk) then some 3
  else if !testMode && !b.certOk then some 4
  else if !b.colSelfTest then some 5
  else none

/-- The entries of a repair record. -/
def repairEntries (r : FlashRec) : List Nat :=
  if r.present then (List.range ((r.body.length - 80) / 8)).map (fun i => leAt r.body (16 + 8 * i) 8) else []

/-- What an entry draws its spares from: its kind with its tile, or with its bank. -/
def repairBank (v : Nat) : Nat × Nat := (bits v 60 4, if bits v 60 4 = 4 then bits v 44 16 else bits v 52 8)

/-- The spares of an entry's bank: 4 lanes, 64 rows or 8 rows of a tile; what the HBM bank offers; none for another kind. -/
def repairSpares (v : Nat) : Nat :=
  match bits v 60 4 with
  | 1 => 4
  | 2 => 64
  | 3 => 8
  | 4 => Config.softRepairs (bits v 56 4) (bits v 51 5) (bits v 47 4) (bits v 44 3)
  | _ => 0

/-- The entries by index that are applied, and those that are skipped. -/
def repairSplit (es : List Nat) : List (Nat × Nat) × List (Nat × Nat) :=
  (es.zipIdx.map (fun e => (e.2, e.1))).partition (fun e =>
    decide (((es.take e.1).filter (fun v => repairBank v = repairBank e.2)).length < repairSpares e.2))

/-- The installation that a record describes (R459). -/
def installOf (r : FlashRec) : Install :=
  if !r.present then Install.standalone
  else
    let b := r.body
    { nx := leAt b 16 1 % 16 + 1
      ny := leAt b 17 1 % 16 + 1
      node := leAt b 18 2
      slots := leAt b 20 8
      cabled := leAt b 28 2
      planeSeed := leAt b 32 8
      master := leAt b 40 2
      parent := leAt b 42 1
      alternate := leAt b 43 1
      checkPeer := leAt b 44 2
      asymmetry := (List.range 12).map (fun p => sgn 16 (leAt b (48 + 2 * p) 2)) }

/-! ### Boot (R455 to R459) -/

/-- A boot that fails: DEV_STATE 3, FAULT_N asserted, configuration retry over (R413, R456). -/
def State.bootFails (s : State) (b : BootInputs) (code : Nat) : State :=
  { s.assertFault with
    boot := { s.boot with devState := 3, error := code, inReset := false, retry := false, owned := b.policy.present && b.policy.sigOk }
    resets := [] }

/-- Repair and self-test: array-disabled tiles, failed glens, quads whose regulator cannot be trimmed (R63, R457, R459). -/
def State.selfTest (s : State) (b : BootInputs) : State :=
  let rs := repairSplit (repairEntries b.repair)
  let full := (rs.2.filter (fun e => bits e.2 60 4 = 1)).map (fun e => bits e.2 52 8)
  let bad := (b.badLanes.map (fun e => e.1 % 256)) ++ full
  let glens := b.badGlens.map (fun g => g.1 % 16) ++ b.badQuads.map (fun q => q % 64 / 4)
  let s := bad.foldl (fun s t => s.modTile t (fun x => { x with disabled := true })) s
  let s := b.badQuads.foldl (fun s q => s.modQuad (q % 64) (fun x => { x with off := true, offCause := 2 })) s
  let s := (List.range 16).foldl (fun s k => s.modStack k (fun x =>
    { x with srepairs := (rs.1.filter (fun e => bits e.2 60 4 = 4 && bits e.2 56 4 = k)).length })) s
  { s with boot := { s.boot with skipped := rs.2.length, failedGlens := bitsOf ((List.range 16).map (fun g => glens.contains g)) } }

/-- HBM trained and zeroised; stacks that fail training are unavailable (R334, R443). -/
def State.trainHbm (s : State) (b : BootInputs) : State :=
  let s := { s with mem := { s.mem with hbm := [], hbmKey := [], hbmPoison := [], hbmLatent := [], hbmCopies := [] } }
  (List.range 16).foldl (fun s k => s.modStack k (fun x =>
    { x with trained := b.stacksTrained.contains k, available := b.stacksTrained.contains k })) s

/-- Far-tier ports enumerated, Ohmist ports set by the installation record (R337, R367, R459). -/
def State.enumerate (s : State) (b : BootInputs) : State :=
  let l := installOf b.install
  let s := (List.range 2).foldl (fun s p =>
    s.modFar p (fun _ => portWith (((b.farCap.find? (fun e => e.1 = p)).map (fun e => e.2)).getD default))) s
  let s := (List.range 12).foldl (fun s p => s.modOhm p (fun x =>
    { x with cabled := bit l.cabled p, nextTry := s.clk.wall })) s
  { s with links := { s.links with inst := l } }

/-- The records of a boot: skipped repairs, self-test, untrained stacks, trims, and the chip reset completed (R397, R457). -/
def State.bootEvents (s : State) (b : BootInputs) : State :=
  let rs := repairSplit (repairEntries b.repair)
  let lane := fun (t : Nat) => ((b.badLanes.find? (fun e => e.1 % 256 = t)).map (fun e => e.2)).getD 0
  let tiles := (List.range 256).filter (fun t => (s.tile t).disabled)
  let st := fun (t res cause row glen : Nat) => evUnit 1 t 0x24 1 [(24, 1, res), (25, 1, cause), (26, 2, row), (28, 1, glen)]
  s.raiseAll (
    (rs.2.filter (fun e => bits e.2 60 4 = 4)).map (fun e => evUnit 3 (bits e.2 56 4) 0x05 2 [(24, 2, e.1)]) ++
    tiles.map (fun t => st t 0 0 (lane t) 0) ++
    b.badGlens.map (fun g => st (g.2.2.1 % 256) 1 g.2.1 g.2.2.2 (g.1 % 16)) ++
    b.badQuads.map (fun q => st (q % 64 * 4) 1 5 0 (q % 64 / 4)) ++
    ((List.range 16).filter (fun k => !b.stacksTrained.contains k)).map (fun k => evUnit 3 k 0x06 1 [(24, 1, 0)]) ++
    b.trims.map (fun t => evUnit 2 t.1 0x25 2 [(24, 1, t.2.1), (25, 1, t.2.2.1), (28, 4, t.2.2.2.1), (32, 8, t.2.2.2.2)]) ++
    s.resets.map (fun r => evUnit 0 0 0x23 2 [(24, 1, 3), (25, 1, r.asked.code), (26, 2, 0), (28, 1, 1)]))

/-- P of R438: the digest of the owner policy record, or 32 zero bytes in an unowned package. -/
def policyDigest (b : BootInputs) : List Byte :=
  if b.policy.present then Config.sha256 b.policy.body else List.replicate 32 0

/-- Steps 2 to 7 of R455. -/
def State.bootRuns (s : State) (b : BootInputs) : State :=
  match bootError b s.boot.testMode with
  | some e => s.bootFails b e
  | none =>
    let k := s.boot.keyNext
    let l := installOf b.install
    let s := ((s.selfTest b).trainHbm b).enumerate b
    let w : Boot := { s.boot with
      inReset := false
      devState := 0
      owned := b.policy.present
      installed := b.install.present
      repaired := b.repair.present
      secVer := b.imageSecVer
      fwVer := b.imageFwVer % 2 ^ 32
      fwOk := b.imageSupported
      floor := leAt b.policy.body 80 2
      policy := if b.policy.present then b.policy.body else []
      fwImage := b.image.body
      repairRec := if b.repair.present then b.repair.body else []
      installRec := if b.install.present then b.install.body else []
      secret := !s.boot.testMode
      sealTop := if s.boot.testMode then [] else Config.kdf Config.deviceSecret "BT4-SEAL" (policyDigest b) 32
      sealed := b.sealed
      alias_ := if s.boot.testMode then 0 else k
      stagingKey := k + 1
      keyNext := k + 2
      retry := true }
    let s := { s with
      boot := w.unseal b.imageSecVer
      clk := { s.clk with master := decide (l.node = l.master) } }
    { s.bootEvents b with resets := [] }

/-- Whether nothing holds the package in chip reset: supplies, PWRGOOD, FAULT_N, THERMTRIP_N and EXTEST. -/
def State.mayBoot (s : State) : Bool :=
  s.boot.inReset && s.pins.supplies && s.pins.pwrgood && s.live && s.pins.jtag ≠ 3

/-- TRAY_RESET_N_RELEASE: TEST_N is sampled and boot runs; with TRAY_RESET_N high already, the boot that follows a chip reset not
caused by it, in which a high TEST_N ends test mode (R452, R455). -/
def execTrayResetNRelease (testN : Bool) (b : BootInputs) (s : State) : Host.Outcome State Fault Refusal :=
  let was := s.pins.trayResetN
  let s := { s with
    pins := { s.pins with trayResetN := s.pins.supplies || was, qspiHighZ := s.pins.qspiHighZ && !s.pins.supplies }
    boot := if s.boot.inReset then { s.boot with testMode := if was then s.boot.testMode && !testN else !testN } else s.boot }
  .next (if s.mayBoot then s.bootRuns b else s)

/-- STEWARD_FIRMWARE_READY: DEV_STATE 1, configuration retry over (R354, R455). -/
def execStewardFirmwareReady (s : State) : Host.Outcome State Fault Refusal :=
  .next (if s.running && s.boot.devState = 0 then { s with boot := { s.boot with devState := 1, retry := false } } else s)

end Sys2Proof.Machine
end

