-- ==== Sys2Proof/Machine/Dispatch.lean ====
section
/-! DEFINITION. The dispatch: one arm per command, each a direct call of its meaning. -/

namespace Sys2Proof.Machine

/-- The effect of a command on everything but the queue. -/
def exec (i : Instr) (s : State) : Host.Outcome State Fault Refusal :=
  match i with
  | .deviceQuery h => Sys2Proof.Machine.execDeviceQuery h s
  | .deviceNop h => Sys2Proof.Machine.execDeviceNop h s
  | .ctxCreate h seed part refMode swapBase swapSize => Sys2Proof.Machine.execCtxCreate h seed part refMode swapBase swapSize s
  | .ctxDestroy h => Sys2Proof.Machine.execCtxDestroy h s
  | .ctxReset h => Sys2Proof.Machine.execCtxReset h s
  | .ctxQuery h clear => Sys2Proof.Machine.execCtxQuery h clear s
  | .ctxResume h => Sys2Proof.Machine.execCtxResume h s
  | .ctxFaultAbort h => Sys2Proof.Machine.execCtxFaultAbort h s
  | .memMap h va pa len pageSize leaf => Sys2Proof.Machine.execMemMap h va pa len pageSize leaf s
  | .memUnmap h va len => Sys2Proof.Machine.execMemUnmap h va len s
  | .memSwapOut h va len backing => Sys2Proof.Machine.execMemSwapOut h va len backing s
  | .modelPlace h recPa recLen part model ext => Sys2Proof.Machine.execModelPlace h recPa recLen part model ext s
  | .modelRemove h model => Sys2Proof.Machine.execModelRemove h model s
  | .variantLoad h model variant va len ext => Sys2Proof.Machine.execVariantLoad h model variant va len ext s
  | .variantRemove h model variant => Sys2Proof.Machine.execVariantRemove h model variant s
  | .adapterLoad h model adapter va len outVa ext => Sys2Proof.Machine.execAdapterLoad h model adapter va len outVa ext s
  | .adapterRemove h model adapter => Sys2Proof.Machine.execAdapterRemove h model adapter s
  | .seqOpen h model variant maxLen cls nAds ads target pfx adm => Sys2Proof.Machine.execSeqOpen h model variant maxLen cls nAds ads target pfx adm s
  | .seqStep h handle posM1 drafts tokVa outVa argVa plan ext => Sys2Proof.Machine.execSeqStep h handle posM1 drafts tokVa outVa argVa plan ext s
  | .seqCancelEpoch h handle => Sys2Proof.Machine.execSeqCancelEpoch h handle s
  | .seqCancelSequence h handle => Sys2Proof.Machine.execSeqCancelSequence h handle s
  | .seqClose h handle => Sys2Proof.Machine.execSeqClose h handle s
  | .prefixSave h handle len pfx => Sys2Proof.Machine.execPrefixSave h handle len pfx s
  | .prefixRemove h pfx => Sys2Proof.Machine.execPrefixRemove h pfx s
  | .seqQuery h handle => Sys2Proof.Machine.execSeqQuery h handle s
  | .frameSubmit h model cls runLate frame deadline inVa outVa argVa predicted plan => Sys2Proof.Machine.execFrameSubmit h model cls runLate frame deadline inVa outVa argVa predicted plan s
  | .frameCancel h frame => Sys2Proof.Machine.execFrameCancel h frame s
  | .kernelLoad h va len ext => Sys2Proof.Machine.execKernelLoad h va len ext s
  | .kernelLaunch h glens tiles entry argsVa resVa ext => Sys2Proof.Machine.execKernelLaunch h glens tiles entry argsVa resVa ext s
  | .syncCreate h kind flags ident count initial home model => Sys2Proof.Machine.execSyncCreate h kind flags ident count initial home model s
  | .syncDestroy h kind ident => Sys2Proof.Machine.execSyncDestroy h kind ident s
  | .signalAdd h ident amount => Sys2Proof.Machine.execSignalAdd h ident amount s
  | .signalWait h ident target limitUs => Sys2Proof.Machine.execSignalWait h ident target limitUs s
  | .signalWaitLimit qp cmdId => Sys2Proof.Machine.execSignalWaitLimit qp cmdId s
  | .configStage h source addr len => Sys2Proof.Machine.execConfigStage h source addr len s
  | .configSwap h fenceOk => Sys2Proof.Machine.execConfigSwap h fenceOk s
  | .configFenceTimeout => Sys2Proof.Machine.execConfigFenceTimeout s
  | .functionDisable h kind mode index => Sys2Proof.Machine.execFunctionDisable h kind mode index s
  | .functionEnable h kind index device mem => Sys2Proof.Machine.execFunctionEnable h kind index device mem s
  | .fwStage h pa len => Sys2Proof.Machine.execFwStage h pa len s
  | .fwActivate h => Sys2Proof.Machine.execFwActivate h s
  | .engineReset h tile => Sys2Proof.Machine.execEngineReset h tile s
  | .partitionReset h part => Sys2Proof.Machine.execPartitionReset h part s
  | .counterSnapshot h instant => Sys2Proof.Machine.execCounterSnapshot h instant s
  | .counterSnapshotLatch => Sys2Proof.Machine.execCounterSnapshotLatch s
  | .dumpRead h handle dst len => Sys2Proof.Machine.execDumpRead h handle dst len s
  | .traceStart h source ctx base size => Sys2Proof.Machine.execTraceStart h source ctx base size s
  | .traceStop h => Sys2Proof.Machine.execTraceStop h s
  | .qpEnable qp value => Sys2Proof.Machine.execQpEnable qp value s
  | .qpDisable qp value => Sys2Proof.Machine.execQpDisable qp value s
  | .sqTail qp index readOk => Sys2Proof.Machine.execSqTail qp index readOk s
  | .cqHead qp index => Sys2Proof.Machine.execCqHead qp index s
  | .msixCoalesceTimer qp => Sys2Proof.Machine.execMsixCoalesceTimer qp s
  | .chipResetWrite key => Sys2Proof.Machine.execChipResetWrite key s
  | .commonCountLowRead => Sys2Proof.Machine.execCommonCountLowRead s
  | .evtHeadWrite head => Sys2Proof.Machine.execEvtHeadWrite head s
  | .traceHeadWrite head => Sys2Proof.Machine.execTraceHeadWrite head s
  | .registerWrite off wide value => Sys2Proof.Machine.execRegisterWrite off wide value s
  | .hdmDecoderCommit base ways => Sys2Proof.Machine.execHdmDecoderCommit base ways s
  | .configRequest write reg value => Sys2Proof.Machine.execConfigRequest write reg value s
  | .cxlMemRead addr len late upsets => Sys2Proof.Machine.execCxlMemRead addr len late upsets s
  | .cxlMemWrite addr data poison upsets => Sys2Proof.Machine.execCxlMemWrite addr data poison upsets s
  | .hostSnoop line => Sys2Proof.Machine.execHostSnoop line s
  | .hotReset => Sys2Proof.Machine.execHotReset s
  | .doeAbort => Sys2Proof.Machine.execDoeAbort s
  | .getVersion => Sys2Proof.Machine.execGetVersion s
  | .getCapabilities => Sys2Proof.Machine.execGetCapabilities s
  | .negotiateAlgorithms => Sys2Proof.Machine.execNegotiateAlgorithms s
  | .getDigests => Sys2Proof.Machine.execGetDigests s
  | .getCertificate slot => Sys2Proof.Machine.execGetCertificate slot s
  | .challenge slot nonce => Sys2Proof.Machine.execChallenge slot nonce s
  | .getMeasurements index nonce => Sys2Proof.Machine.execGetMeasurements index nonce s
  | .spdmUnsupportedRequest code => Sys2Proof.Machine.execSpdmUnsupportedRequest code s
  | .pwrNow => Sys2Proof.Machine.execPwrNow s
  | .tjMax col => Sys2Proof.Machine.execTjMax col s
  | .hbmTmax => Sys2Proof.Machine.execHbmTmax s
  | .trayLimitWRead => Sys2Proof.Machine.execTrayLimitWRead s
  | .trayLimitWWrite watts => Sys2Proof.Machine.execTrayLimitWWrite watts s
  | .pwrStatus => Sys2Proof.Machine.execPwrStatus s
  | .alertMaskRead => Sys2Proof.Machine.execAlertMaskRead s
  | .alertMaskWrite mask => Sys2Proof.Machine.execAlertMaskWrite mask s
  | .jtagExtest => Sys2Proof.Machine.execJtagExtest s
  | .jtagIdcode => Sys2Proof.Machine.execJtagIdcode s
  | .jtagBypass code => Sys2Proof.Machine.execJtagBypass code s
  | .jtagSamplePreload pins preload => Sys2Proof.Machine.execJtagSamplePreload pins preload s
  | .trayResetNRelease testN b => Sys2Proof.Machine.execTrayResetNRelease testN b s
  | .perstNAssert widthNs => Sys2Proof.Machine.execPerstNAssert widthNs s
  | .pwrgoodFall widthNs => Sys2Proof.Machine.execPwrgoodFall widthNs s
  | .supplyRemoval => Sys2Proof.Machine.execSupplyRemoval s
  | .resetEscalation => Sys2Proof.Machine.execResetEscalation s
  | .workItemStart work tile => Sys2Proof.Machine.execWorkItemStart work tile s
  | .frameStart work => Sys2Proof.Machine.execFrameStart work s
  | .frameDeadline work => Sys2Proof.Machine.execFrameDeadline work s
  | .workCommandComplete work => Sys2Proof.Machine.execWorkCommandComplete work s
  | .requestRerun work => Sys2Proof.Machine.execRequestRerun work s
  | .slotPreempt slot => Sys2Proof.Machine.execSlotPreempt slot s
  | .slotResume slot tagsOk => Sys2Proof.Machine.execSlotResume slot tagsOk s
  | .epochResolve slot => Sys2Proof.Machine.execEpochResolve slot s
  | .epochToken m ctx epoch commit count => Sys2Proof.Machine.execEpochToken m ctx epoch commit count s
  | .epochTokenApply slot => Sys2Proof.Machine.execEpochTokenApply slot s
  | .epochAckTimeout slot => Sys2Proof.Machine.execEpochAckTimeout slot s
  | .alu t late rd ra rb rc fn => Sys2Proof.Machine.execAlu t late rd ra rb rc fn s
  | .addi t late rd ra imm => Sys2Proof.Machine.execAddi t late rd ra imm s
  | .andi t late rd ra imm => Sys2Proof.Machine.execAndi t late rd ra imm s
  | .ori t late rd ra imm => Sys2Proof.Machine.execOri t late rd ra imm s
  | .xori t late rd ra imm => Sys2Proof.Machine.execXori t late rd ra imm s
  | .shi t late rd ra imm => Sys2Proof.Machine.execShi t late rd ra imm s
  | .li t late rd imm => Sys2Proof.Machine.execLi t late rd imm s
  | .lis t late rd imm => Sys2Proof.Machine.execLis t late rd imm s
  | .ld t late rd ra imm sz upsets => Sys2Proof.Machine.execLd t late rd ra imm sz upsets s
  | .st t rd ra imm sz upsets => Sys2Proof.Machine.execSt t rd ra imm sz upsets s
  | .ldf t late rd ra imm sz upsets => Sys2Proof.Machine.execLdf t late rd ra imm sz upsets s
  | .stf t rd ra imm sz upsets => Sys2Proof.Machine.execStf t rd ra imm sz upsets s
  | .cmp t late rd ra rb rc fn => Sys2Proof.Machine.execCmp t late rd ra rb rc fn s
  | .cmpi t late rd ra imm => Sys2Proof.Machine.execCmpi t late rd ra imm s
  | .plog t late rd ra rb rc fn => Sys2Proof.Machine.execPlog t late rd ra rb rc fn s
  | .br t pred neg hint disp => Sys2Proof.Machine.execBr t pred neg hint disp s
  | .call t pred neg hint disp => Sys2Proof.Machine.execCall t pred neg hint disp s
  | .jr t rd ra rb rc fn => Sys2Proof.Machine.execJr t rd ra rb rc fn s
  | .fop t late rd ra rb rc fn => Sys2Proof.Machine.execFop t late rd ra rb rc fn s
  | .fcmp t late rd ra rb rc fn => Sys2Proof.Machine.execFcmp t late rd ra rb rc fn s
  | .fmv t late rd ra rb rc fn => Sys2Proof.Machine.execFmv t late rd ra rb rc fn s
  | .hash t late rd ra rb rc fn => Sys2Proof.Machine.execHash t late rd ra rb rc fn s
  | .rdraw t late rd ra rb rc => Sys2Proof.Machine.execRdraw t late rd ra rb rc s
  | .rctr t late rd ra rb rc => Sys2Proof.Machine.execRctr t late rd ra rb rc s
  | .rctw t rd ra rb rc => Sys2Proof.Machine.execRctw t rd ra rb rc s
  | .csrr t late rd ra imm => Sys2Proof.Machine.execCsrr t late rd ra imm s
  | .csrw t rd ra imm => Sys2Proof.Machine.execCsrw t rd ra imm s
  | .cntr t late rd ra rb rc fn => Sys2Proof.Machine.execCntr t late rd ra rb rc fn s
  | .yield t rd ra => Sys2Proof.Machine.execYield t rd ra s
  | .workNext t rd ra => Sys2Proof.Machine.execWorkNext t rd ra s
  | .eventPost t rd ra => Sys2Proof.Machine.execEventPost t rd ra s
  | .svcUnlisted t rd ra num => Sys2Proof.Machine.execSvcUnlisted t rd ra num s
  | .halt t rd ra rb rc fn => Sys2Proof.Machine.execHalt t rd ra rb rc fn s
  | .descw t rd ra rb rc fn => Sys2Proof.Machine.execDescw t rd ra rb rc fn s
  | .tkstat t late rd ra rb rc fn => Sys2Proof.Machine.execTkstat t late rd ra rb rc fn s
  | .bundle t late value upsets => Sys2Proof.Machine.execBundle t late value upsets s
  | .syncWaitExpiry t => Sys2Proof.Machine.execSyncWaitExpiry t s
  | .pendingResultArrival t dst => Sys2Proof.Machine.execPendingResultArrival t dst s
  | .branchResolve t => Sys2Proof.Machine.execBranchResolve t s
  | .coreStop t resume => Sys2Proof.Machine.execCoreStop t resume s
  | .lockstepMismatch steward t => Sys2Proof.Machine.execLockstepMismatch steward t s
  | .stepOperationBegin t => Sys2Proof.Machine.execStepOperationBegin t s
  | .tritStep t laneErr upsets => Sys2Proof.Machine.execTritStep t laneErr upsets s
  | .outlierDigitStep t laneErr upsets => Sys2Proof.Machine.execOutlierDigitStep t laneErr upsets s
  | .planeToken t laneErr upsets => Sys2Proof.Machine.execPlaneToken t laneErr upsets s
  | .checkComparison t => Sys2Proof.Machine.execCheckComparison t s
  | .blockLoad t upsets => Sys2Proof.Machine.execBlockLoad t upsets s
  | .slotCopyLoad t upsets => Sys2Proof.Machine.execSlotCopyLoad t upsets s
  | .planeBlockLoad t upsets => Sys2Proof.Machine.execPlaneBlockLoad t upsets s
  | .drainBegin t upsets => Sys2Proof.Machine.execDrainBegin t upsets s
  | .drainRow t accErr residue upsets => Sys2Proof.Machine.execDrainRow t accErr residue upsets s
  | .queueRowWrite t => Sys2Proof.Machine.execQueueRowWrite t s
  | .chainRunBegin t upsets => Sys2Proof.Machine.execChainRunBegin t upsets s
  | .vectorBeat t residue upsets => Sys2Proof.Machine.execVectorBeat t residue upsets s
  | .queueRowConsume t => Sys2Proof.Machine.execQueueRowConsume t s
  | .lookupSlotLoad t upsets => Sys2Proof.Machine.execLookupSlotLoad t upsets s
  | .transferBegin t queue upsets => Sys2Proof.Machine.execTransferBegin t queue upsets s
  | .elementBatch t queue n checkFault upsets => Sys2Proof.Machine.execElementBatch t queue n checkFault upsets s
  | .translationWalk t queue checkFault upsets => Sys2Proof.Machine.execTranslationWalk t queue checkFault upsets s
  | .writeAcknowledged t queue => Sys2Proof.Machine.execWriteAcknowledged t queue s
  | .pageSwapIn ctx va tagsOk => Sys2Proof.Machine.execPageSwapIn ctx va tagsOk s
  | .remotePortRequest t write off data gen upsets => Sys2Proof.Machine.execRemotePortRequest t write off data gen upsets s
  | .scrubAccess t istore row upsets => Sys2Proof.Machine.execScrubAccess t istore row upsets s
  | .quadReturnScrubPass q upsets => Sys2Proof.Machine.execQuadReturnScrubPass q upsets s
  | .verifyingPass part upsets => Sys2Proof.Machine.execVerifyingPass part upsets s
  | .weightReload t block => Sys2Proof.Machine.execWeightReload t block s
  | .route callers => Sys2Proof.Machine.execRoute callers s
  | .combine t => Sys2Proof.Machine.execCombine t s
  | .abandon t => Sys2Proof.Machine.execAbandon t s
  | .kvAppend t => Sys2Proof.Machine.execKvAppend t s
  | .kvRecvOpen t => Sys2Proof.Machine.execKvRecvOpen t s
  | .windowDeadline ctx tag => Sys2Proof.Machine.execWindowDeadline ctx tag s
  | .windowCloseComplete ctx tag => Sys2Proof.Machine.execWindowCloseComplete ctx tag s
  | .intAddOperand t queue checkFault => Sys2Proof.Machine.execIntAddOperand t queue checkFault s
  | .fp32TreeOperand t queue checkFault => Sys2Proof.Machine.execFp32TreeOperand t queue checkFault s
  | .unorderedAdd t queue checkFault => Sys2Proof.Machine.execUnorderedAdd t queue checkFault s
  | .hbmPatrol k channel unit upsets => Sys2Proof.Machine.execHbmPatrol k channel unit upsets s
  | .hbmStackUnavailable k => Sys2Proof.Machine.execHbmStackUnavailable k s
  | .farReadTimeout t queue => Sys2Proof.Machine.execFarReadTimeout t queue s
  | .farWriteFailure p errorCompletion addr => Sys2Proof.Machine.execFarWriteFailure p errorCompletion addr s
  | .hostReadTimeout t queue => Sys2Proof.Machine.execHostReadTimeout t queue s
  | .dataFlit port fec bytes => Sys2Proof.Machine.execDataFlit port fec bytes s
  | .retryRequest port fec bytes => Sys2Proof.Machine.execRetryRequest port fec bytes s
  | .idleFlit port fec bytes => Sys2Proof.Machine.execIdleFlit port fec bytes s
  | .trainingControl port fec bytes => Sys2Proof.Machine.execTrainingControl port fec bytes s
  | .linkTraining port low high => Sys2Proof.Machine.execLinkTraining port low high s
  | .linkDown port => Sys2Proof.Machine.execLinkDown port s
  | .packetInject t queue n => Sys2Proof.Machine.execPacketInject t queue n s
  | .transitForward port pk => Sys2Proof.Machine.execTransitForward port pk s
  | .write port pk => Sys2Proof.Machine.execWrite port pk s
  | .int32Add port pk => Sys2Proof.Machine.execInt32Add port pk s
  | .int64Add port pk => Sys2Proof.Machine.execInt64Add port pk s
  | .fp32Add port pk => Sys2Proof.Machine.execFp32Add port pk s
  | .acknowledgement pk => Sys2Proof.Machine.execAcknowledgement pk s
  | .refusal pk => Sys2Proof.Machine.execRefusal pk s
  | .retryLater pk => Sys2Proof.Machine.execRetryLater pk s
  | .retryLaterTimer t node => Sys2Proof.Machine.execRetryLaterTimer t node s
  | .resendTimeout t node => Sys2Proof.Machine.execResendTimeout t node s
  | .flowForget sender t node cls => Sys2Proof.Machine.execFlowForget sender t node cls s
  | .linkStateNotice m port up => Sys2Proof.Machine.execLinkStateNotice m port up s
  | .generationNotice m job part gen => Sys2Proof.Machine.execGenerationNotice m job part gen s
  | .barrierArrivalForward m job ident tgen => Sys2Proof.Machine.execBarrierArrivalForward m job ident tgen s
  | .barrierCompletion m job ident broken => Sys2Proof.Machine.execBarrierCompletion m job ident broken s
  | .barrierTimeout ctx ident => Sys2Proof.Machine.execBarrierTimeout ctx ident s
  | .timeExchange => Sys2Proof.Machine.execTimeExchange s
  | .timeExchangeReply m t2 t3 t4 => Sys2Proof.Machine.execTimeExchangeReply m t2 t3 t4 s
  | .timeAheadNotice m count => Sys2Proof.Machine.execTimeAheadNotice m count s
  | .checkPeerExchange offset => Sys2Proof.Machine.execCheckPeerExchange offset s
  | .rateMonitorWindow q rate junction voltage => Sys2Proof.Machine.execRateMonitorWindow q rate junction voltage s
  | .governorEvaluation part predicted => Sys2Proof.Machine.execGovernorEvaluation part predicted s
  | .efficiencyMeasurement q best => Sys2Proof.Machine.execEfficiencyMeasurement q best s
  | .powerMeasurement w100us w1ms quads => Sys2Proof.Machine.execPowerMeasurement w100us w1ms quads s
  | .powerLimiterStep => Sys2Proof.Machine.execPowerLimiterStep s
  | .thermalLimiterStep q temp => Sys2Proof.Machine.execThermalLimiterStep q temp s
  | .thermtrip sensor => Sys2Proof.Machine.execThermtrip sensor s
  | .regulatorWindow q retention code forNs => Sys2Proof.Machine.execRegulatorWindow q retention code forNs s
  | .hang d unit timedNs => Sys2Proof.Machine.execHang d unit timedNs s
  | .saddleFailed k => Sys2Proof.Machine.execSaddleFailed k s
  | .trayResetNAssert widthNs => Sys2Proof.Machine.execTrayResetNAssert widthNs s
  | .perstNRelease => Sys2Proof.Machine.execPerstNRelease s
  | .pwrgoodRise => Sys2Proof.Machine.execPwrgoodRise s
  | .suppliesApplied strap0 strap1 => Sys2Proof.Machine.execSuppliesApplied strap0 strap1 s
  | .stewardFirmwareReady => Sys2Proof.Machine.execStewardFirmwareReady s
  | .commandInterpretationResumes => Sys2Proof.Machine.execCommandInterpretationResumes s
  | .epochTokenAcknowledgement m slot => Sys2Proof.Machine.execEpochTokenAcknowledgement m slot s
  | .timeExchangeAtParent m t1 t2 => Sys2Proof.Machine.execTimeExchangeAtParent m t1 t2 s
  | .sourceReadReturn t queue data poison upsets => Sys2Proof.Machine.execSourceReadReturn t queue data poison upsets s
  | .outOfConditions rail => Sys2Proof.Machine.execOutOfConditions rail s
  | .hbmDoubledRefresh k temp => Sys2Proof.Machine.execHbmDoubledRefresh k temp s

end Sys2Proof.Machine
end

