-- ==== Sys2Proof/Machine/Tick.lean ====
section
/-! DEFINITION. What one nanosecond without a command does (assumption log entry 6): the common count advances, by slewing where it
is to be brought into line (02, R33, R34), and resets and disables that wait for nothing more complete. -/

namespace Sys2Proof.Machine

/-- The count after one nanosecond: of a slew outstanding, one nanosecond is made up in every 5,000 (R34: 200 parts per million). -/
def Clock.tick (c : Clock) : Clock :=
  let due := decide (4999 ≤ c.phase) && c.slew ≠ 0
  { c with
    wall := c.wall + 1
    now := if due then (if 0 < c.slew then c.now + 2 else c.now) else c.now + 1
    slew := if due then (if 0 < c.slew then c.slew - 1 else c.slew + 1) else c.slew
    phase := if due || c.slew = 0 then 0 else c.phase + 1 }

/-- One nanosecond without a command. In chip reset only wall time passes. -/
def State.tick (s : State) : State :=
  if s.running then ({ s with clk := s.clk.tick }.pumpResets).pumpDisables
  else { s with clk := { s.clk with wall := s.clk.wall + 1 } }

end Sys2Proof.Machine
end

