-- ==== Sys2Proof/Safety.lean ====
section
/-! DEFINITION. What counts as a safe run, and the conditions on a state under which statements say that a command takes
effect: a host command accepted, a scalar instruction issued, work under way on a tile. -/

namespace Sys2Proof

/-- The machine takes its next step. -/
def Safe (s : Machine.State) : Prop := ∃ t, Machine.step s = .next t

namespace Machine

/-- The steward takes the command now, reads its ring entry, and no check of R293 refuses it: `d` a D command, `work` it
starts work, `ok` its operands are in range. -/
def State.accepts (s : State) (h : Pkt) (d work ok : Bool) : Bool :=
  s.mayTake h && s.packetReads h && ((s.take h).refusal h d work ok).isNone

/-- The core of a tile issues the instruction at its pc, no library of the steward stands there, and no word of the `n` bytes
there is uncorrectable or wants correcting (R157, R167, R172). -/
def State.fetches (s : State) (t n : Nat) : Bool :=
  let c := (s.tile t).core
  s.issues t && !s.libAt t c.pc && decide (c.pc < 0x20000) &&
    (cellsOf c.pc n).all (fun k => !c.ipoison.contains k && (NMap.get? c.ilatent k).isNone)

/-- The core of a tile issues the 4-byte instruction whose word is `w`. -/
def State.stands (s : State) (t w : Nat) : Bool :=
  s.fetches t 4 && decide ((s.tile t).core.iword (s.tile t).core.pc = w)

/-- Nothing beyond the core itself happens when an instruction of a running invocation commits: no branch is unresolved, the
core is not traced, and no command it works for has a failed item (R170, R295, R472). -/
def State.plain (s : State) (t : Nat) : Bool :=
  (s.tile t).core.ckpts.isEmpty && !s.traced t &&
    (s.worksOn t).all (fun n => match NMap.get? s.works n with
      | some w => !w.items.any (fun i => match i.st with | .ended st _ => decide (st ≠ .ok) | _ => false)
      | none => true)

end Machine
end Sys2Proof
end

