-- ==== Sys2Proof/Certificates/Slice0/Obligations.lean ====
section
/-! DEFINITION. The statements for the provers. Each part of a statement is a proposition of its own under `Sys2Proof.Says`, with
the rules of the spec it follows; an obligation is the conjunction of its parts. A completion part says what `exec` answers on
the occasion its hypotheses name: every hypothesis is on the state and the operands alone. Outside such an occasion a command is
one that could not come, and changes nothing (assumption log entry 3). -/

set_option linter.unusedVariables false

open Sys2Proof Sys2Proof.Machine

namespace Sys2Proof.Says

/-! ### Host commands for the device, contexts and memory (R294 to R298) -/

/-- R294: DEVICE_QUERY returns the free contexts, the free sequence slots and the free KV pool bytes. -/
def deviceQuery : Prop := ∀ (h : Pkt) (s : State), s.accepts h true false true = true →
  exec (.deviceQuery h) s = .next ((s.take h).reply h .ok
    ((256 - s.ctxs.length) + (1024 - (s.seqs.filter (fun e => e.2.state != 0)).length) * 2 ^ 16)
    (((List.range 16).map (s.take h).kvFree).sum))

/-- R294: DEVICE_NOP replies ST_OK and does nothing else. -/
def deviceNop : Prop := ∀ (h : Pkt) (s : State), s.accepts h false false true = true →
  exec (.deviceNop h) s = .next ((s.take h).replyS h .ok)

/-- R296: CTX_CREATE gives the lowest free number a fresh context and replies with it. -/
def ctxCreate : Prop := ∀ (h : Pkt) (seed : W64) (part : Byte) (ref : Bool) (base size : W64) (c : Nat) (s : State),
  s.accepts h true false (part.toNat < 16 && base.toNat % 4096 = 0) = true → s.boot.testMode = false →
  s.partInReset part.toNat = false → (NMap.get? s.parts part.toNat).isSome = true →
  c < 256 → s.ctx? c = none → (∀ b < c, s.ctx? b ≠ none) →
  exec (.ctxCreate h seed part ref base size) s = .next (State.reply
    { s.take h with
      ctxs := NMap.put s.ctxs c (Ctx.fresh seed.toNat part.toNat ref base.toNat size.toNat s.boot.keyNext)
      ctrs := NMap.del s.ctrs (0x305000 + 8 * c)
      boot := { s.boot with keyNext := s.boot.keyNext + 1 } } h .ok c 0)

/-- R296: CTX_CREATE with every number in use answers ST_NO_RESOURCE. -/
def ctxCreateFull : Prop := ∀ (h : Pkt) (seed : W64) (part : Byte) (ref : Bool) (base size : W64) (s : State),
  s.accepts h true false (part.toNat < 16 && base.toNat % 4096 = 0) = true → s.boot.testMode = false →
  s.partInReset part.toNat = false → (∀ b < 256, s.ctx? b ≠ none) →
  exec (.ctxCreate h seed part ref base size) s = .next ((s.take h).replyS h .noResource)

/-- R401: CTX_DESTROY asks for a context reset of the context the packet names that removes it and answers the packet at its end. -/
def ctxDestroy : Prop := ∀ (h : Pkt) (s : State), s.accepts h true false true = true → (s.ctx? h.ctx.toNat).isSome = true →
  exec (.ctxDestroy h) s = .next (((s.take h).askReset ((s.take h).newReset .context h.ctx.toNat [h] []
    [h.ctx.toNat] [h.ctx.toNat])).pumpResets)

/-- R401: CTX_RESET asks for a context reset of the context the packet names that keeps it and answers the packet at its end. -/
def ctxReset : Prop := ∀ (h : Pkt) (s : State), s.accepts h true false true = true → (s.ctx? h.ctx.toNat).isSome = true →
  exec (.ctxReset h) s = .next (((s.take h).askReset ((s.take h).newReset .context h.ctx.toNat [h] []
    [h.ctx.toNat] [])).pumpResets)

/-- R297: CTX_QUERY returns the sticky status in bits 0 to 4, whether the context is suspended (8), whether a not-present fault
is pending (9), its reference mode (10) and its open slots, and clears the sticky status when asked to. -/
def ctxQuery : Prop := ∀ (h : Pkt) (clear : Bool) (x : Ctx) (s : State), s.accepts h false false true = true →
  s.ctx? (s.pktCtx h) = some x →
  exec (.ctxQuery h clear) s = .next (State.reply
    (if clear then (s.take h).stickyClear (s.pktCtx h) else s.take h) h .ok
    ((s.take h).stickyOf (s.pktCtx h) + (if x.suspended then 2 ^ 8 else 0)
      + (if x.susp.any (fun f => f.2.2 = 1) then 2 ^ 9 else 0) + (if x.refMode then 2 ^ 10 else 0))
    (s.seqs.filter (fun e => e.2.state != 0 && e.2.ctx = s.pktCtx h)).length)

/-- R297: CTX_RESUME with a not-present fault pending resumes the context; without one it answers ST_REJECTED. -/
def ctxResume : Prop := ∀ (h : Pkt) (s : State), s.accepts h false false true = true →
  exec (.ctxResume h) s = .next (if s.faultPending (s.pktCtx h) then
      ((s.take h).resumeFaults (s.pktCtx h)).replyS h .ok else (s.take h).replyS h .rejected)

/-- R220, R297: CTX_FAULT_ABORT ends each transfer that faulted not present with ST_TRANSLATION_FAULT, then resumes the
context. -/
def ctxFaultAbort : Prop := ∀ (h : Pkt) (x : Ctx) (s : State), s.accepts h false false true = true →
  s.ctx? (s.pktCtx h) = some x → x.susp.any (fun f => f.2.2 = 1) = true →
  exec (.ctxFaultAbort h) s = .next ((((x.susp.filter (fun f => f.2.2 = 1)).foldl (fun s f =>
      match (s.tile f.1).xfers.find? (fun q => q.ticket = f.2.1) with
      | some q => s.abortX f.1 q .translationFault
      | none => s) (s.take h)).resumeFaults (s.pktCtx h)).replyS h .ok)

/-- The page sizes of R298, by code. -/
def pageBytes (ps : Byte) : Nat := if ps.toNat = 0 then 4096 else if ps.toNat = 1 then 0x200000 else 0x40000000

/-- R298: the operands of MEM_MAP that are in range: page size and leaf bits defined, addresses and length multiples of the page,
the range below 2^52. -/
def mapOperands (va pa len : W64) (ps leaf : Byte) : Bool :=
  decide (ps.toNat < 3) && decide (leaf.toNat < 32) && decide (leaf.toNat / 8 < 2) &&
  decide (va.toNat + len.toNat ≤ 2 ^ 52) && va.toNat % pageBytes ps = 0 && pa.toNat % pageBytes ps = 0 &&
  len.toNat % pageBytes ps = 0

/-- R298: MEM_MAP of a range outside the KV aperture, of addresses the context may reach, with nothing mapped there, writes the
present leaf of every page and replies ST_OK. -/
def memMap : Prop := ∀ (h : Pkt) (va pa len : W64) (ps leaf : Byte) (s s' : State),
  s.accepts h true false (mapOperands va pa len ps leaf) = true → (s.ctx? (s.pktCtx h)).isSome = true →
  len ≠ 0 → va.toNat + len.toNat ≤ kvBase → (s.take h).rangeDenied (s.pktCtx h) pa.toNat len.toNat = false →
  ((s.take h).leaves (s.pktCtx h)).any (fun e => overlap va.toNat len.toNat e.1 e.2.1) = false →
  (s.take h).mapPages (s.pktCtx h) va.toNat pa.toNat (pageBytes ps)
    (1 + (if 1 ≤ ps.toNat then 2 else 0) + bits leaf.toNat 0 2 * 4 + bits leaf.toNat 2 1 * 64 + bits leaf.toNat 3 2 * 128)
    (len.toNat / pageBytes ps) = some s' →
  exec (.memMap h va pa len ps leaf) s = .next ((s'.modCtx (s.pktCtx h) (fun x =>
    { x with swapped := x.swapped.filter (fun e => !overlap va.toNat len.toNat e.1 e.2.2.2) })).replyS h .ok)

/-- R298: MEM_MAP refuses a range over one already mapped with ST_REJECTED and writes nothing. -/
def memMapTwice : Prop := ∀ (h : Pkt) (va pa len : W64) (ps leaf : Byte) (s : State),
  s.accepts h true false (mapOperands va pa len ps leaf) = true → (s.ctx? (s.pktCtx h)).isSome = true →
  len ≠ 0 → va.toNat + len.toNat ≤ kvBase → (s.take h).rangeDenied (s.pktCtx h) pa.toNat len.toNat = false →
  ((s.take h).leaves (s.pktCtx h)).any (fun e => overlap va.toNat len.toNat e.1 e.2.1) = true →
  exec (.memMap h va pa len ps leaf) s = .next ((s.take h).replyS h .rejected)

/-- R202, R298: MEM_UNMAP of whole pages, once no write through them is outstanding, clears the leaves, drops the cached
translations of the range, forgets what of it is swapped out, and replies ST_OK. -/
def memUnmap : Prop := ∀ (h : Pkt) (va len : W64) (s : State),
  s.accepts h true false (va.toNat % 4096 = 0 && len.toNat % 4096 = 0) = true → s.memReady h va.toNat len.toNat = true →
  (s.ctx? (s.pktCtx h)).isSome = true → (s.take h).partPage (s.pktCtx h) va.toNat len.toNat = false →
  exec (.memUnmap h va len) s = .next (
    let c := s.pktCtx h
    let u := ((s.take h).rewriteLeaves c ((s.take h).leavesIn c va.toNat len.toNat) (fun _ => 0)).invalidate c va.toNat len.toNat
    let gone := ((u.ctx? c).map (fun x => x.swapped.filter (fun e => overlap va.toNat len.toNat e.1 e.2.2.2))).getD []
    ((gone.foldl (fun s e => (s.mapEntry c e.1 (levelOf e.2.2.2) 0).getD s) u).modCtx c (fun x =>
      { x with swapped := x.swapped.filter (fun e => !overlap va.toNat len.toNat e.1 e.2.2.2) })).replyS h .ok)

/-- R298: MEM_UNMAP of part of a large page answers ST_BAD_COMMAND and changes no mapping. -/
def memUnmapPart : Prop := ∀ (h : Pkt) (va len : W64) (s : State),
  s.accepts h true false (va.toNat % 4096 = 0 && len.toNat % 4096 = 0) = true → s.memReady h va.toNat len.toNat = true →
  (s.ctx? (s.pktCtx h)).isSome = true → (s.take h).partPage (s.pktCtx h) va.toNat len.toNat = true →
  exec (.memUnmap h va len) s = .next ((s.take h).replyS h .badCommand)

/-- R298: MEM_SWAP_OUT of whole mapped pages of the tiers to a backing that can take them invalidates the range, copies each page
out and marks its entry swapped. -/
def memSwapOut : Prop := ∀ (h : Pkt) (va len b : W64) (s : State),
  s.accepts h true false (va.toNat % 4096 = 0 && len.toNat % 4096 = 0) = true → s.memReady h va.toNat len.toNat = true →
  (s.ctx? (s.pktCtx h)).isSome = true → (s.take h).backingFails b.toNat len.toNat = none →
  (s.take h).partPage (s.pktCtx h) va.toNat len.toNat = false →
  ((s.take h).leavesIn (s.pktCtx h) va.toNat len.toNat).all (fun e => inTiers (pteAddr e.2.2)) = true →
  exec (.memSwapOut h va len b) s = .next ((((s.take h).leavesIn (s.pktCtx h) va.toNat len.toNat).foldl
    (fun u e => u.swapPage (s.pktCtx h) va.toNat b.toNat e)
    ((s.take h).invalidate (s.pktCtx h) va.toNat len.toNat)).replyS h .ok)

/-! ### Variants and adapters (R300) -/

/-- The variants that a context has registered: model, number, address and length of the image. -/
def variantsOf (s : State) (c : Nat) : List (Nat × Nat × Nat × Nat) := ((s.ctx? c).map (·.variants)).getD []

/-- The adapters that a context has registered. -/
def adaptersOf (s : State) (c : Nat) : List Adapter := ((s.ctx? c).map (·.adapters)).getD []

/-- R300, R505: VARIANT_LOAD of a number not in use, from an image whose directory names for every tile a part inside the image,
registers the variant. -/
def variantLoad : Prop := ∀ (h : Pkt) (model variant : W16) (va len : W64) (ext : Ext) (dir : List Byte) (s s' : State),
  s.accepts h false false (decide (variant.toNat ≠ 0)) = true → s.modelFor (s.pktCtx h) model.toNat = true →
  (variantsOf s (s.pktCtx h)).any (fun e => e.2.1 = variant.toNat) = false → 4096 ≤ len.toNat →
  (s.take h).stewardWaits (s.pktCtx h) va.toNat 4096 = false →
  (s.take h).stewardRead (s.pktCtx h) va.toNat 4096 ext = (.ok dir, s') →
  (∀ t < 256, leAt dir (16 * t) 8 + leAt dir (16 * t + 8) 8 ≤ len.toNat) →
  exec (.variantLoad h model variant va len ext) s = .next ((s'.modCtx (s.pktCtx h) (fun x =>
    { x with variants := x.variants ++ [(model.toNat, variant.toNat, va.toNat, len.toNat)] })).replyS h .ok)

/-- R300: VARIANT_REMOVE of a variant no open slot names removes it. -/
def variantRemove : Prop := ∀ (h : Pkt) (model variant : W16) (s : State), s.accepts h false false true = true →
  (variantsOf s (s.pktCtx h)).any (fun e => e.1 = model.toNat && e.2.1 = variant.toNat) = true →
  s.named (s.pktCtx h) model.toNat variant.toNat true = false →
  exec (.variantRemove h model variant) s = .next (((s.take h).modCtx (s.pktCtx h) (fun x =>
    { x with variants := x.variants.filter (fun e => !(e.1 = model.toNat && e.2.1 = variant.toNat)) })).replyS h .ok)

/-- R238, R239, R300: ADAPTER_LOAD of a number not in use, from a record whose header R238 accepts, whose values are finite and
whose dimensions are the layer's, writes its B16 image at the output address, registers the adapter with its scale and each
block's e_ref, and replies with the image's length. -/
def adapterLoad : Prop := ∀ (h : Pkt) (model adapter : W16) (va len out : W64) (ext : LayerExt) (bs : List Byte) (x : Bn2)
  (s s' s'' : State),
  s.accepts h false false (decide (adapter.toNat ≠ 0)) = true → s.modelFor (s.pktCtx h) model.toNat = true →
  (adaptersOf s (s.pktCtx h)).any (fun e => e.id = adapter.toNat) = false → 32 ≤ len.toNat →
  (s.take h).stewardWaits (s.pktCtx h) va.toNat len.toNat = false →
  (s.take h).stewardRead (s.pktCtx h) va.toNat len.toNat ext.ext = (.ok bs, s') → bn2 bs len.toNat = some x →
  anyNonFinite bs x.aOff (x.r * x.dIn) = false → anyNonFinite bs x.bOff (x.r * x.dOut) = false →
  ext.fits = true → s'.stewardWaits (s.pktCtx h) out.toNat (adapterImage x bs).length = false →
  s'.stewardWrite (s.pktCtx h) out.toNat (adapterImage x bs) (badFrame ext.ext) = (.ok (), s'') →
  exec (.adapterLoad h model adapter va len out ext) s = .next ((s''.modCtx (s.pktCtx h) (fun y =>
    { y with adapters := y.adapters ++ [{
      model := model.toNat, id := adapter.toNat, va := out.toNat, len := (adapterImage x bs).length, layer := x.layer
      scale := x.scale, rank := x.r, dIn := x.dIn, dOut := x.dOut, eRefs := adapterRefs x bs }] })).reply
      h .ok (adapterImage x bs).length 0)

/-- R300: ADAPTER_REMOVE of an adapter no open slot names removes it. -/
def adapterRemove : Prop := ∀ (h : Pkt) (model adapter : W16) (s : State), s.accepts h false false true = true →
  (adaptersOf s (s.pktCtx h)).any (fun e => e.model = model.toNat && e.id = adapter.toNat) = true →
  s.named (s.pktCtx h) model.toNat adapter.toNat false = false →
  exec (.adapterRemove h model adapter) s = .next (((s.take h).modCtx (s.pktCtx h) (fun x =>
    { x with adapters := x.adapters.filter (fun e => !(e.model = model.toNat && e.id = adapter.toNat)) })).replyS h .ok)

/-- R300: removing a variant or adapter that an open slot names answers ST_REJECTED. -/
def removeNamed : Prop := ∀ (h : Pkt) (m v : W16) (s : State), s.accepts h false false true = true →
  (s.named (s.pktCtx h) m.toNat v.toNat true = true →
    exec (.variantRemove h m v) s = .next ((s.take h).replyS h .rejected)) ∧
  (s.named (s.pktCtx h) m.toNat v.toNat false = true →
    exec (.adapterRemove h m v) s = .next ((s.take h).replyS h .rejected))

/-! ### Signals and barriers (R317 to R327) -/

/-- R317, R325: SYNC_CREATE of a free signal identifier makes a signal with the initial count. -/
def syncCreateSignal : Prop := ∀ (h : Pkt) (flags : Byte) (ident : W16) (initial : W64) (s : State),
  flags.toNat < 2 → ident.toNat < 16384 → s.accepts h false false true = true →
  NMap.get? s.signals (objKey (s.pktCtx h) ident.toNat) = none → s.signals.length < 16384 →
  exec (.syncCreate h 0 flags ident 0 initial 0 0) s = .next (
    let g : Signal := { count := initial.toNat, commitBound := bit flags.toNat 0 }
    State.replyS { s.take h with signals := NMap.put s.signals (objKey (s.pktCtx h) ident.toNat) g } h .ok)

/-- R317, R319, R322, R325: SYNC_CREATE of a free barrier identifier makes a barrier of count + 1 participants, none arrived,
in phase 0, not broken; with job scope its home is the position given in the model's package list, else this package. -/
def syncCreateBarrier : Prop := ∀ (h : Pkt) (flags : Byte) (ident : W16) (count : W32) (home model : W16) (s : State),
  flags.toNat < 4 → ident.toNat < 4096 → count.toNat < 2 ^ 20 → s.accepts h false false true = true →
  (bit flags.toNat 1 = false → home = 0 ∧ model = 0) →
  (bit flags.toNat 1 = true → (s.homeFor model.toNat home.toNat).isSome = true) →
  NMap.get? s.barriers (objKey (s.pktCtx h) ident.toNat) = none → s.barriers.length < 4096 →
  exec (.syncCreate h 1 flags ident count 0 home model) s = .next (
    let b : Barrier := { p := count.toNat + 1, arrived := 0, phase := 0, broken := false,
                         commitBound := bit flags.toNat 0,
                         home := if bit flags.toNat 1 then s.homeFor model.toNat home.toNat else none, lastSent := none }
    State.replyS { s.take h with barriers := NMap.put s.barriers (objKey (s.pktCtx h) ident.toNat) b } h .ok)

/-- R325: SYNC_DESTROY of an object that nothing waits on and no epoch holds actions on removes it. -/
def syncDestroy : Prop := ∀ (h : Pkt) (kind : Byte) (ident : W16) (s : State),
  kind.toNat < 2 → ident.toNat < kindLimit kind.toNat → s.accepts h false false true = true →
  s.hasObject (s.pktCtx h) kind.toNat ident.toNat = true →
  (s.take h).slotWaits (s.pktCtx h) kind.toNat ident.toNat = false →
  (kind = 0 → s.waits.any (fun w => w.ctx = s.pktCtx h && w.ident = ident.toNat) = false) →
  s.held.any (fun e => e.ctx = s.pktCtx h && e.ident = ident.toNat && e.barrier = (kind.toNat != 0)) = false →
  exec (.syncDestroy h kind ident) s = .next (
    if kind.toNat = 0 then
      State.replyS { s.take h with signals := NMap.del s.signals (objKey (s.pktCtx h) ident.toNat) } h .ok
    else State.replyS { s.take h with barriers := NMap.del s.barriers (objKey (s.pktCtx h) ident.toNat) } h .ok)

/-- R318, R325: SIGNAL_ADD adds to the count, saturating at 2^64 - 1 and then setting overflow in the col die's sticky status,
answers the SIGNAL_WAITs whose target is reached, decides the sync slots it releases, and replies. -/
def signalAdd : Prop := ∀ (h : Pkt) (ident : W16) (amount : W64) (g : Signal) (s : State),
  ident.toNat < 16384 → s.accepts h false false true = true →
  NMap.get? s.signals (objKey (s.pktCtx h) ident.toNat) = some g →
  exec (.signalAdd h ident amount) s = .next (
    let n := min (g.count + amount.toNat) (2 ^ 64 - 1)
    let u : State := { s.take h with signals := NMap.put s.signals (objKey (s.pktCtx h) ident.toNat) { g with count := n } }
    let u := if 2 ^ 64 - 1 < g.count + amount.toNat then u.modCtx (s.pktCtx h) (fun x => { x with stickyCol := true }) else u
    ((u.wakeWaits (s.pktCtx h) ident.toNat n).decideWaits (s.pktCtx h)).replyS h .ok)

/-- R325: SIGNAL_WAIT answers at once when the target is reached, answers ST_TIMEOUT when its limit is 0, and else waits. -/
def signalWait : Prop := ∀ (h : Pkt) (ident : W16) (target : W64) (limit : W32) (g : Signal) (s : State),
  ident.toNat < 16384 → s.accepts h false false true = true →
  NMap.get? s.signals (objKey (s.pktCtx h) ident.toNat) = some g → s.waits.length < 1024 →
  exec (.signalWait h ident target limit) s = .next (
    if target.toNat ≤ g.count then (s.take h).reply h .ok g.count 0
    else if limit = 0 then (s.take h).reply h .timeout g.count 0
    else
      let w : SigWait := { h := h, ctx := s.pktCtx h, ident := ident.toNat, target := target.toNat,
                           deadline := s.clk.now + 1000 * limit.toNat }
      { s.take h with waits := s.waits ++ [w] })

/-- R325: a pending SIGNAL_WAIT whose limit has passed answers ST_TIMEOUT with the signal's count. -/
def signalWaitLimit : Prop := ∀ (w : SigWait) (g : Signal) (s : State),
  s.waits.find? (fun x => decide (x.h.qp = w.h.qp) && decide (x.h.cmdId = w.h.cmdId) && decide (x.deadline ≤ s.clk.now)) =
    some w →
  NMap.get? s.signals (objKey w.ctx w.ident) = some g →
  exec (.signalWaitLimit w.h.qp w.h.cmdId) s = .next (State.reply { s with waits := s.waits.erase w } w.h .timeout g.count 0)

/-- R293, R324: a command on an object that does not exist answers ST_PERMISSION. -/
def noObject : Prop := ∀ (h : Pkt) (ident : W16) (x : W64) (limit : W32) (s : State),
  ident.toNat < 16384 → s.accepts h false false true = true →
  NMap.get? s.signals (objKey (s.pktCtx h) ident.toNat) = none →
  exec (.signalAdd h ident x) s = .next ((s.take h).replyS h .permission) ∧
  exec (.signalWait h ident x limit) s = .next ((s.take h).replyS h .permission) ∧
  exec (.syncDestroy h 0 ident) s = .next ((s.take h).replyS h .permission)

/-! ### Models and kernel images (R299, R301) -/

/-- R299: MODEL_PLACE of a record that parses and passes the package's checks, when no quad it writes is in its scrub pass, places
the model and replies ST_OK. -/
def modelPlace : Prop := ∀ (h : Pkt) (pa len : W64) (part : Byte) (model : W16) (ext : Ext) (bs : List Byte) (r : PRec)
  (as : List Nat) (s s' : State),
  s.accepts h true false (decide (part.toNat < 16) && decide (model.toNat ≠ 0)) = true → s.boot.testMode = false →
  s.partInReset part.toNat = false → (NMap.get? s.parts part.toNat).isSome = true →
  (s.take h).recordRead pa.toNat len.toNat ext = (.ok bs, s') → parsePlacement bs = some r →
  s'.placeChecked model.toNat part.toNat r = .ok as →
  r.blocks.any (fun b => (s'.quad (quadOf b.1)).scrubPass) = false →
  exec (.modelPlace h pa len part model ext) s = .next ((s'.placeModel model.toNat part.toNat r as).replyS h .ok)

/-- R299, R443: MODEL_REMOVE of a model that nothing uses, no write through its images being outstanding, unmaps its store images, clears the masks of its resident blocks, drops
its prefixes and removes it. -/
def modelRemove : Prop := ∀ (h : Pkt) (model : W16) (x : Model) (s : State),
  s.accepts h true false (decide (model.toNat ≠ 0)) = true → NMap.get? s.models model.toNat = some x →
  s.modelUsed model.toNat = false →
  s.ctxs.any (fun e => (s.take h).writesThrough e.1 ((s.take h).storeLeaves x e.1)) = false →
  exec (.modelRemove h model) s = .next (
    let u := x.blocks.foldl (fun u b => u.modTile b.1 (fun t =>
      { t with resid := t.resid.erase b.2.1, reload := t.reload.erase b.2.1, lostGold := t.lostGold.erase b.2.1 }))
      ((s.take h).unmapStores x)
    State.replyS { u with
      models := NMap.del u.models model.toNat
      prefixes := u.prefixes.filter (fun p => p.model ≠ model.toNat) } h .ok)

/-- R299: MODEL_REMOVE of a model a slot or a work command uses answers ST_REJECTED. -/
def modelRemoveUsed : Prop := ∀ (h : Pkt) (model : W16) (x : Model) (s : State),
  s.accepts h true false (decide (model.toNat ≠ 0)) = true → NMap.get? s.models model.toNat = some x →
  s.modelUsed model.toNat = true →
  exec (.modelRemove h model) s = .next ((s.take h).replyS h .rejected)

/-- R301: KERNEL_LOAD of an image that fits and can be read replaces the context's kernel image. -/
def kernelLoad : Prop := ∀ (h : Pkt) (va len : W64) (ext : Ext) (bs : List Byte) (x : Ctx) (s s' : State),
  s.accepts h false false true = true → s.ctx? (s.pktCtx h) = some x →
  len.toNat ≤ s.imageLimit x.part false false → (s.take h).stewardWaits (s.pktCtx h) va.toNat len.toNat = false →
  (s.take h).stewardRead (s.pktCtx h) va.toNat len.toNat ext = (.ok bs, s') →
  exec (.kernelLoad h va len ext) s = .next ((s'.modCtx (s.pktCtx h) (fun x => { x with image := bs })).replyS h .ok)

/-! ### Sequence slots (R302 to R309) -/

/-- The prefix that SEQ_OPEN names, if it names one (R306). -/
def namesPrefix (s : State) (c : Nat) (pfx : W64) (p : Option Prefix) : Prop :=
  if pfx = 0 then p = none
  else p.isSome = true ∧ s.prefixes.find? (fun p => p.ctx = c && decide (p.handle = pfx.toNat)) = p

/-- The slot `q` as it stands while SEQ_OPEN looks for room: its number is taken, the prefix it names has just been used, and
prefixes not in use are evicted for its reservation (R276, R304, R306). -/
def opening (u : State) (c part n : Nat) (pfx : W64) (q : Seq) : State :=
  let v : State := { u.modSeq n (fun _ => { q with maxLen := 40 * q.inh }) with
    openSeq := u.openSeq + 1
    prefixes := u.prefixes.map (fun x =>
      if pfx ≠ 0 && x.ctx = c && decide (x.handle = pfx.toNat) then { x with used := u.clk.now } else x) }
  v.evictFor part (u.reservation q) v.prefixes.length

/-- R303, R306: SEQ_OPEN takes the lowest free slot `n` when nothing of R306 refuses it. With room, after as many pre-emptions of
lower classes as it takes, it reserves the KV pages, maps the model's store images and replies with the handle and the
reservation; without, it answers ST_DEFERRED with the retry hint and keeps nothing. -/
def seqOpen : Prop := ∀ (h : Pkt) (model variant : W16) (maxLen : W32) (cls nAds : Byte) (ads : List W16) (target : W32)
  (pfx : W64) (adm : Admission) (p : Option Prefix) (n : Nat) (x : Ctx) (s : State),
  s.accepts h false false (decide (cls.toNat < 4) && decide (nAds.toNat ≤ 4) && decide (nAds.toNat ≤ ads.length)) = true →
  s.ctx? (s.pktCtx h) = some x → s.partInReset x.part = false → s.ctxInReset (s.pktCtx h) = false →
  n < 1024 → (s.seq n).state = 0 → (∀ m < n, (s.seq m).state ≠ 0) → namesPrefix s (s.pktCtx h) pfx p →
  let as := (ads.take nAds.toNat).map (fun (a : W16) => a.toNat)
  let q := (s.seq n).open_ (s.pktCtx h) model.toNat variant.toNat as cls.toNat target.toNat maxLen.toNat
    ((p.map (·.len)).getD 0) s.openSeq ((p.map (·.runs)).getD [])
  let need := (s.take h).reservation q
  let v := opening (s.take h) (s.pktCtx h) x.part n pfx q
  let room := if adm.feasible then v.preemptFor x.part cls.toNat need v.seqs.length else none
  (s.take h).openRejected (s.pktCtx h) model.toNat variant.toNat as target.toNat adm q p = false →
  (room = none → exec (.seqOpen h model variant maxLen cls nAds ads target pfx adm) s =
    .next ((s.take h).reply h .deferred 0 adm.hint.toNat)) ∧
  (∀ s3 s4, room = some s3 →
    (s3.modSeq n (fun _ => { q with reserved := need })).mapStores (s.pktCtx h) model.toNat = some s4 →
    exec (.seqOpen h model variant maxLen cls nAds ads target pfx adm) s = .next (
      (if s4.victimIn (some x.part) then s4
       else ((s4.copyPartial n).map (fun (s : State) => s.modSeq n (fun q => { q with fresh := false }))).getD s4).reply h .ok
        (q.handle n) need))

/-- R303, R306: SEQ_OPEN with every slot in use answers ST_NO_RESOURCE. -/
def seqOpenFull : Prop := ∀ (h : Pkt) (model variant : W16) (maxLen : W32) (cls nAds : Byte) (ads : List W16) (target : W32)
  (pfx : W64) (adm : Admission) (x : Ctx) (s : State),
  s.accepts h false false (decide (cls.toNat < 4) && decide (nAds.toNat ≤ 4) && decide (nAds.toNat ≤ ads.length)) = true →
  s.ctx? (s.pktCtx h) = some x → s.partInReset x.part = false → s.ctxInReset (s.pktCtx h) = false →
  (∀ m < 1024, (s.seq m).state ≠ 0) →
  exec (.seqOpen h model variant maxLen cls nAds ads target pfx adm) s = .next ((s.take h).replyS h .noResource)

/-- R295, R307: SEQ_STEP on a slot that takes steps, with its token identifiers read, is put behind the slot's earlier
commands with one work item for each tile of the plan; the slot then goes on with what it can. -/
def seqStep : Prop := ∀ (h : Pkt) (handle : W32) (posM1 drafts : BitVec 6) (tok out arg : W64) (plan : List Byte) (ext : Ext)
  (n : Nat) (x : Ctx) (bs : List Byte) (s s' : State),
  s.accepts h false true (decide (drafts.toNat < posM1.toNat + 1)) = true → s.ctx? (s.pktCtx h) = some x →
  s.partInReset x.part = false → s.ctxInReset (s.pktCtx h) = false → s.slotFor (s.pktCtx h) handle.toNat = some n →
  let q := s.seq n
  let verify := ((NMap.get? s.models q.model).map (·.verify)).getD 0
  let ts := s.planTiles x.part plan verify (drafts.toNat ≠ 0)
  s.tilesRefuse ts = none → q.state ≠ 5 → q.state ≠ 6 → s.streamBusy h (s.pktCtx h) n ts = false →
  (s.take h).stewardWaits (s.pktCtx h) tok.toNat (8 * (posM1.toNat + 1)) = false →
  (s.take h).stewardRead (s.pktCtx h) tok.toNat (8 * (posM1.toNat + 1)) ext = (.ok bs, s') →
  exec (.seqStep h handle posM1 drafts tok out arg plan ext) s = .next (
    (s'.addWork { Work.base h .step (s.pktCtx h) n with
      items := itemsFor ts 0 [handle.toNat, tok.toNat, out.toNat, arg.toNat, 0, 0, 0, 0]
      handle := handle.toNat
      pos := posM1.toNat + 1
      drafts := drafts.toNat
      model := q.model
      verify := verify
      cls := q.cls
      rngSave := s'.saveRng (s.pktCtx h) h.streamClaim ts
      toks := (List.range (posM1.toNat + 1)).map (fun i => leAt bs (8 * i) 8) }).advanceAll)

/-- R302: SEQ_QUERY of a slot in use that has not failed returns its state and class, and its committed and appended lengths. -/
def seqQuery : Prop := ∀ (h : Pkt) (handle : W32) (n : Nat) (s : State), s.accepts h false false true = true →
  s.slotFor (s.pktCtx h) handle.toNat = some n → (s.seq n).state ≠ 5 →
  exec (.seqQuery h handle) s = .next ((s.take h).reply h .ok ((s.seq n).state + (s.seq n).cls * 256)
    ((s.seq n).c + (s.seq n).a * 2 ^ 32))

/-- R308: SEQ_CANCEL with scope 0 does nothing but reply when no epoch is open; an open, undecided epoch is cancelled and the
reply waits for the step. -/
def seqCancelEpoch : Prop := ∀ (h : Pkt) (handle : W32) (n : Nat) (s : State), s.accepts h false false true = true →
  s.slotFor (s.pktCtx h) handle.toNat = some n →
  exec (.seqCancelEpoch h handle) s = .next (
    if (s.seq n).epoch = 0 ∨ (s.seq n).action.isSome = true then (s.take h).replyS h .ok
    else ((s.take h).decideEpoch n false 0).addWork
      { Work.base h .cancel (s.pktCtx h) n with handle := handle.toNat, pos := 0 })

/-- R308: SEQ_CANCEL with scope 1 cancels an open epoch and answers the queued steps ST_CANCELLED; with a step in flight that step
is told to end and the reply waits for it, without one the slot is freed and the command answered. -/
def seqCancelSequence : Prop := ∀ (h : Pkt) (handle : W32) (n : Nat) (s : State), s.accepts h false false true = true →
  s.slotFor (s.pktCtx h) handle.toNat = some n →
  exec (.seqCancelSequence h handle) s = .next (
    let u := ((s.take h).decideEpoch n false 0).cancelQueued n
    match u.runningWork n with
    | some e => (u.cancelWork e.1).addWork { Work.base h .cancel (s.pktCtx h) n with handle := handle.toNat, pos := 1 }
    | none => ((u.freeSlot n).replyS h .ok).advanceAll)

/-- R308: SEQ_CLOSE is put behind the slot's earlier commands; the slot then goes on with what it can. -/
def seqClose : Prop := ∀ (h : Pkt) (handle : W32) (n : Nat) (s : State), s.accepts h false false true = true →
  s.slotFor (s.pktCtx h) handle.toNat = some n →
  exec (.seqClose h handle) s = .next
    (((s.take h).addWork { Work.base h .close (s.pktCtx h) n with handle := handle.toNat }).advanceAll)

/-- R309: PREFIX_SAVE is put behind the slot's earlier commands; the slot then goes on with what it can. -/
def prefixSave : Prop := ∀ (h : Pkt) (handle len : W32) (pfx : W64) (n : Nat) (s : State),
  s.accepts h false false true = true → s.slotFor (s.pktCtx h) handle.toNat = some n →
  exec (.prefixSave h handle len pfx) s = .next (((s.take h).addWork
    { Work.base h .save (s.pktCtx h) n with handle := handle.toNat, pos := len.toNat, drafts := pfx.toNat }).advanceAll)

/-- R309: PREFIX_REMOVE of a prefix of the context removes it; of any other handle it answers ST_PREFIX_GONE. -/
def prefixRemove : Prop := ∀ (h : Pkt) (pfx : W64) (s : State), s.accepts h false false true = true →
  exec (.prefixRemove h pfx) s = .next (
    if pfx ≠ 0 ∧ s.prefixes.any (fun p => p.ctx = s.pktCtx h && decide (p.handle = pfx.toNat)) = true then
      State.replyS { s.take h with
        prefixes := s.prefixes.filter (fun p => !(p.ctx = s.pktCtx h && decide (p.handle = pfx.toNat))) } h .ok
    else (s.take h).replyS h .prefixGone)

/-- R303: a handle that names no slot of the context is answered ST_REJECTED by SEQ_QUERY, SEQ_CANCEL, SEQ_CLOSE
and PREFIX_SAVE. -/
def noSlot : Prop := ∀ (h : Pkt) (handle len : W32) (pfx : W64) (s : State), s.accepts h false false true = true →
  s.slotFor (s.pktCtx h) handle.toNat = none →
  exec (.seqQuery h handle) s = .next ((s.take h).replyS h .rejected) ∧
  exec (.seqCancelEpoch h handle) s = .next ((s.take h).replyS h .rejected) ∧
  exec (.seqCancelSequence h handle) s = .next ((s.take h).replyS h .rejected) ∧
  exec (.seqClose h handle) s = .next ((s.take h).replyS h .rejected) ∧
  exec (.prefixSave h handle len pfx) s = .next ((s.take h).replyS h .rejected)

/-! ### Frames, launches and work (R143, R282, R295, R301, R310, R311, R415) -/

/-- R310: FRAME_SUBMIT of a frame whose deadline can be met (or that may run late) keeps the frame, with one work item for each
tile of its plan. -/
def frameSubmit : Prop := ∀ (h : Pkt) (model : W16) (cls : Byte) (late : Bool) (frame : W32)
  (deadline inVa outVa argVa predicted : W64) (plan : List Byte) (x : Ctx) (s s' : State),
  s.accepts h false true (decide (cls.toNat < 4)) = true → s.ctx? (s.pktCtx h) = some x →
  s.partInReset x.part = false → s.ctxInReset (s.pktCtx h) = false →
  let verify := ((NMap.get? s.models model.toNat).map (·.verify)).getD 0
  let ts := s.planTiles x.part plan verify false
  s.tilesRefuse ts = none → s.modelFor (s.pktCtx h) model.toNat = true →
  (late = true ∨ s.clk.now ≤ deadline.toNat ∧ predicted.toNat ≤ deadline.toNat) →
  (s.works.filter (fun e => e.2.ctx = s.pktCtx h && e.2.kind = .frame)).length < 256 →
  s.streamBusy h (s.pktCtx h) 1024 ts = false → (s.take h).mapStores (s.pktCtx h) model.toNat = some s' →
  exec (.frameSubmit h model cls late frame deadline inVa outVa argVa predicted plan) s = .next (
    s'.addWork { Work.base h .frame (s.pktCtx h) 1024 with
      items := itemsFor ts 0 [frame.toNat, inVa.toNat, outVa.toNat, argVa.toNat, 0, 0, 0, 0]
      model := model.toNat
      verify := verify
      frame := frame.toNat
      deadline := deadline.toNat
      runLate := late
      cls := cls.toNat
      rngSave := s'.saveRng (s.pktCtx h) h.streamClaim ts })

/-- R310: a frame that may not run late and whose deadline cannot be met is answered ST_REJECTED at take. -/
def frameTooLate : Prop := ∀ (h : Pkt) (model : W16) (cls : Byte) (frame : W32) (deadline inVa outVa argVa predicted : W64)
  (plan : List Byte) (x : Ctx) (s : State),
  s.accepts h false true (decide (cls.toNat < 4)) = true → s.ctx? (s.pktCtx h) = some x →
  s.partInReset x.part = false → s.ctxInReset (s.pktCtx h) = false →
  s.tilesRefuse (s.planTiles x.part plan (((NMap.get? s.models model.toNat).map (·.verify)).getD 0) false) = none →
  (deadline.toNat < s.clk.now ∨ deadline.toNat < predicted.toNat) →
  exec (.frameSubmit h model cls false frame deadline inVa outVa argVa predicted plan) s =
    .next ((s.take h).replyS h .rejected)

/-- R310: FRAME_START starts the waiting frame that is the next of its context and model. -/
def frameStart : Prop := ∀ (n : Nat) (w : Work) (s : State), NMap.get? s.works n = some w → w.kind = .frame →
  w.started = false → s.frameFirst n w = true →
  exec (.frameStart n) s = .next (s.modWork n (fun w => { w with started := true }))

/-- R310: a running frame whose deadline has passed is told to end with ST_TIMEOUT, or marked late if it may run late. -/
def frameDeadline : Prop := ∀ (n : Nat) (w : Work) (s : State), NMap.get? s.works n = some w → w.kind = .frame →
  w.started = true → w.deadline ≤ s.clk.now →
  exec (.frameDeadline n) s = .next (
    if w.runLate then s.modWork n (fun w => { w with late := true })
    else (s.modWork n (fun w => { w with answer := some (w.answer.getD .timeout) })).cancelWork n)

/-- R311: FRAME_CANCEL of a pending or running frame ends it with ST_CANCELLED and replies ST_OK; with no such frame it answers
ST_REJECTED. -/
def frameCancel : Prop := ∀ (h : Pkt) (frame : W32) (s : State), s.accepts h false false true = true →
  exec (.frameCancel h frame) s = .next (
    match s.works.find? (fun e => e.2.kind = .frame && e.2.ctx = s.pktCtx h && decide (e.2.frame = frame.toNat) &&
        e.2.answer.isNone) with
    | none => (s.take h).replyS h .rejected
    | some e =>
      if e.2.started then
        (((s.take h).modWork e.1 (fun w => { w with answer := some .cancelled })).cancelWork e.1).replyS h .ok
      else ((s.take h).answerWork e.1 .cancelled 0 0).replyS h .ok)

/-- R301: KERNEL_LAUNCH on glens of the context's partition starts one invocation for each tile of the masks, with the eight
argument words in g1 to g8. -/
def kernelLaunch : Prop := ∀ (h : Pkt) (glens tiles : W16) (entry : W32) (argsVa resVa : W64) (ext : Ext) (x : Ctx)
  (bs : List Byte) (s s' : State),
  s.accepts h false true (decide (entry.toNat < 0x20000) && entry.toNat % 4 = 0) = true →
  s.ctx? (s.pktCtx h) = some x → s.partInReset x.part = false → s.ctxInReset (s.pktCtx h) = false →
  s.tilesRefuse (maskTiles glens.toNat tiles.toNat) = none →
  (∀ g < 16, bit glens.toNat g = true → s.partOfGlen g = some x.part) →
  s.streamBusy h (s.pktCtx h) 1024 (maskTiles glens.toNat tiles.toNat) = false →
  (s.take h).stewardWaits (s.pktCtx h) argsVa.toNat 64 = false →
  (s.take h).stewardRead (s.pktCtx h) argsVa.toNat 64 ext = (.ok bs, s') →
  exec (.kernelLaunch h glens tiles entry argsVa resVa ext) s = .next (
    if (maskTiles glens.toNat tiles.toNat).isEmpty then s'.replyS h .ok
    else s'.addWork { Work.base h .launch (s.pktCtx h) 1024 with
      items := itemsFor (maskTiles glens.toNat tiles.toNat) entry.toNat ((List.range 8).map (fun i => leAt bs (8 * i) 8))
      started := true
      resVa := resVa.toNat
      rngSave := s'.saveRng (s.pktCtx h) h.streamClaim (maskTiles glens.toNat tiles.toNat) })

/-- R143, R305: a tile that can run an item now: idle, quiet, on, in no reset or scrub pass, its context neither suspended nor in
reset, with no item of an earlier command waiting for it (before: of a higher class, or the order of R305 within one). -/
def tileFree (s : State) (w : Work) (t : Nat) : Prop :=
  (s.tile t).core.run = .idle ∧ (s.tile t).quiet = true ∧ (s.tile t).inReset = false ∧ s.tileRuns t = true ∧
  s.ctxInReset w.ctx = false ∧ (s.quad (quadOf t)).scrubPass = false ∧
  ((s.ctx? w.ctx).map (·.suspended)) = some false ∧ s.earlierWaits t w = false

/-- R143: WORK_ITEM_START binds the tile to the command's context, loads the kernel image, starts the invocation at the item's
entry with its arguments, and marks the item running; a traced tile begins with a SYNC record. -/
def workItemStart : Prop := ∀ (n : Nat) (t : Byte) (w : Work) (i : WItem) (s : State), NMap.get? s.works n = some w →
  w.started = true → w.items.find? (fun i => i.tile = t.toNat && i.st = .ready) = some i → tileFree s w t.toNat →
  exec (.workItemStart n t) s = .next (
    let u := s.bindTile t.toNat w.ctx
    let u := u.modCore t.toNat (fun k => (k.loadImage (u.imageFor w)).invoke n w i false)
    let u := u.modWork n (fun w => { w with items := w.items.map (fun j => if j = i then { j with st := .running } else j) })
    if u.traced t.toNat then u.traceSync t.toNat else u)

/-- R295, R301, R307, R310: a work command whose items have all ended, its epoch settled and no re-run due, is answered. -/
def workCommandComplete : Prop := ∀ (n : Nat) (w : Work) (s : State), NMap.get? s.works n = some w →
  s.workOver w = true → s.rerunDue w = false →
  (w.kind = .step → exec (.workCommandComplete n) s = .next (
    let u := s.endStep w (s.workStatus w)
    ((u.answerWork n (s.workStatus w) (u.seq w.slot).c w.j).endCancels w.slot).advanceAll)) ∧
  (w.kind = .frame → exec (.workCommandComplete n) s = .next (s.answerWork n (s.workStatus w) 0 0)) ∧
  (∀ s', w.kind = .launch → s.stewardWaits w.ctx w.resVa (8 * w.items.length) = false →
    s.writeResults w = (.ok (), s') →
    exec (.workCommandComplete n) s = .next (s'.answerWork n (s.workStatus w) w.items.length 0))

/-- R415: a command that failed with ST_POISONED, once the reloads of its tiles are done, takes its random streams back to where
they stood, reports the re-run and is released again in its order. -/
def requestRerun : Prop := ∀ (n : Nat) (w : Work) (s : State), NMap.get? s.works n = some w → s.workOver w = true →
  s.rerunDue w = true → (∀ i ∈ w.items, (s.tile i.tile).reload = []) →
  exec (.requestRerun n) s = .next (
    let u := (if w.kind = .step then s.endStep w .poisoned else s).restoreRng w.rngSave
    let u := u.modWork n (fun w =>
      { w with started := false, rerun := true, epoch := 0, j := 0, answer := none, tokSt := none,
               items := w.items.map (fun i => { i with st := .ready }) })
    (u.raise { type := 0x22, kind := 2, ctx := some w.ctx, unit := 7, index := 0, gen := 0,
               detail := [(24, 4, w.h.cmdId.toNat), (28, 2, w.h.qp.toNat)] }).advanceAll)

/-! ### Epochs and pre-emption (R277 to R283) -/

/-- R282, R283: a step whose epoch is open and undecided: a failed item, or a token that failed, cancels it; else the verifying item's result, if it is
at most the drafts, commits that many; a larger one cancels and ends the step with ST_BAD_COMMAND. -/
def epochResolve : Prop := ∀ (slot : BitVec 10) (k : Nat) (w : Work) (s : State),
  s.runningWork slot.toNat = some (k, w) → (s.seq slot.toNat).epoch ≠ 0 → (s.seq slot.toNat).action = none →
  w.epoch = (s.seq slot.toNat).epoch →
  ((w.failure.isSome = true ∨ w.tokSt.isSome = true) → exec (.epochResolve slot) s = .next (s.decideEpoch slot.toNat false 0)) ∧
  (∀ st j, w.failure = none → w.tokSt = none → w.verdict = some (st, j) → exec (.epochResolve slot) s = .next (
    if j ≤ (s.seq slot.toNat).a - (s.seq slot.toNat).c then s.decideEpoch slot.toNat true j
    else (s.modWork k (fun w => { w with answer := some .badCommand })).decideEpoch slot.toNat false 0))

/-- R282: a token for an epoch that a slot here has open and undecided is recorded and acted on; for one that no slot here has,
it is acted on and acknowledged at once, and windows open under it are closed. -/
def epochToken : Prop := ∀ (m : MgmtHdr) (ctx : Byte) (e : W16) (commit : Bool) (count : BitVec 7) (s : State),
  s.mgmtOk m false = true → e.toNat ≠ 0 →
  (∀ n q, s.seqs.find? (fun x => x.2.state != 0 && x.2.ctx = ctx.toNat && x.2.epoch = e.toNat) = some (n, q) →
    q.action = none → exec (.epochToken m ctx e commit count) s = .next
      ((s.modSeq n (fun q => { q with action := some (commit, count.toNat), tokenAt := s.clk.now, tokenHeld := true })).onToken
        ctx.toNat e.toNat commit)) ∧
  (s.seqs.find? (fun x => x.2.state != 0 && x.2.ctx = ctx.toNat && x.2.epoch = e.toNat) = none →
    exec (.epochToken m ctx e commit count) s = .next
      (((s.onToken ctx.toNat e.toNat commit).closeWindows (fun w => w.ctx = ctx.toNat && w.tag = e.toNat) .cancelled).send
        (.tokenAck e.toNat)))

/-- R282: a decided epoch whose work items have all ended is applied. -/
def epochTokenApply : Prop := ∀ (slot : BitVec 10) (s : State), (s.seq slot.toNat).epoch ≠ 0 →
  (s.seq slot.toNat).action ≠ none →
  (∀ e ∈ s.works, e.2.ctx = (s.seq slot.toNat).ctx → e.2.epoch = (s.seq slot.toNat).epoch → e.2.ended = true) →
  exec (.epochTokenApply slot) s = .next (s.applyEpoch slot.toNat)

/-- R283: an acknowledgement strikes its node off those the slot waits for. -/
def epochTokenAcknowledgement : Prop := ∀ (m : MgmtHdr) (slot : BitVec 10) (s : State), s.mgmtOk m false = true →
  ∃ t, exec (.epochTokenAcknowledgement m slot) s = .next t ∧
    (t.seq slot.toNat).acks = (s.seq slot.toNat).acks.filter (fun n => n ≠ m.node.toNat) ∧
    (∀ n, n ≠ slot.toNat → t.seq n = s.seq n) ∧ { t with seqs := s.seqs } = s

/-- R283: 10 ms after a token, acknowledgements still owed fail the slot, and the step it runs ends with ST_TIMEOUT. -/
def epochAckTimeout : Prop := ∀ (slot : BitVec 10) (k : Nat) (w : Work) (s : State), (s.seq slot.toNat).acks ≠ [] →
  (s.seq slot.toNat).tokenAt + 10000000 ≤ s.clk.now →
  (s.runningWork slot.toNat = none → exec (.epochAckTimeout slot) s = .next (s.modSeq slot.toNat (fun q =>
    { q with acks := [], state := 5 }))) ∧
  (s.runningWork slot.toNat = some (k, w) → exec (.epochAckTimeout slot) s = .next ((s.modSeq slot.toNat (fun q => { q with acks := [], state := 5 })).modWork k
    (fun w => { w with answer := some .timeout })))

/-- R278: a slot chosen for pre-emption, between steps, with a destination for its runs: they leave the pool, its reservation is
given up, and an idle slot becomes pre-empted. -/
def slotPreempt : Prop := ∀ (slot : BitVec 10) (dst : Nat) (s : State), (s.seq slot.toNat).victim = true →
  s.runningWork slot.toNat = none → s.swapDest (s.seq slot.toNat) = some dst →
  exec (.slotPreempt slot) s = .next (
    let u := (s.swapRuns slot.toNat dst).invalidateKv (s.seq slot.toNat).ctx slot.toNat
    let v := u.modSeq slot.toNat (fun q =>
      { q with state := if q.state = 1 then 4 else q.state, victim := false, reserved := 0, preempted := u.openSeq })
    { v with openSeq := u.openSeq + 1 }.advanceAll)

/-- R279: the first pre-empted slot of a partition, when its reservation fits again, gets its runs back and takes steps again. -/
def slotResume : Prop := ∀ (slot : BitVec 10) (ok : Bool) (s s' : State), (s.seq slot.toNat).state = 4 →
  s.firstPreempted (s.partOfSeq (s.seq slot.toNat)) = some slot.toNat →
  s.victimIn (s.partOfSeq (s.seq slot.toNat)) = false →
  s.owed (s.seq slot.toNat) ≤ s.kvFree ((s.partOfSeq (s.seq slot.toNat)).getD 0) →
  (NMap.keysOf (s.seq slot.toNat).runs (fun _ r => r.pa.isNone)).foldlM (fun s k => s.runIn slot.toNat k (fun _ => !ok)) s = some s' →
  exec (.slotResume slot ok) s = .next
    ((s'.modSeq slot.toNat (fun q => { q with state := 1, reserved := s'.reservation q })).advanceAll)

/-! ### Configuration, firmware, functions (R314, R315, R460 to R466) -/

/-- R461, R464: CONFIG_STAGE from the staging window (source 0), of a set that fits it, validates the set and makes it the shadow
set. -/
def configStage : Prop := ∀ (h : Pkt) (addr : W64) (len : W32) (s : State), s.cfgFree = true →
  s.accepts h true false true = true → len.toNat ≤ 0x400000 →
  exec (.configStage h 0 addr len) s =
    .next ((s.take h).stageDone h ((s.take h).validate (Bytes.rd s.cfg.window 0 len.toNat)))

/-- R461: CONFIG_STAGE from HBM (source 1), inside the staging area and read without error, does the same; a poisoned source
answers ST_POISONED. -/
def configStageHbm : Prop := ∀ (h : Pkt) (addr : W64) (len : W32) (s : State), s.cfgFree = true →
  s.accepts h true false true = true → (s.take h).inStaging addr.toNat len.toNat = true → len.toNat ≤ 0x400000 →
  exec (.configStage h 1 addr len) s = .next (
    let m := (s.take h).hbmRead addr.toNat len.toNat s.boot.stagingKey
    if m.bad then m.st.stageDone h (.error .poisoned) else m.st.stageDone h (m.st.validate m.bytes))

/-- R462 to R464: CONFIG_SWAP with no shadow set, or one the swap rules refuse, answers ST_REJECTED; else, the fence reached and
every transfer at a restartable point, the shadow set becomes active; a fence not reached leaves the command waiting. -/
def configSwap : Prop := ∀ (h : Pkt) (fenceOk : Bool) (s : State), s.cfgFree = true → s.accepts h true false true = true →
  (fenceOk = true → s.xfersAtRest = true) →
  (s.cfg.shadow = none → exec (.configSwap h fenceOk) s = .next ((s.take h).cfgReply h .rejected)) ∧
  (∀ c, s.cfg.shadow = some c → (s.take h).swapRefused c = true →
    exec (.configSwap h fenceOk) s = .next ((s.take h).cfgReply h .rejected)) ∧
  (∀ c, s.cfg.shadow = some c → (s.take h).swapRefused c = false →
    exec (.configSwap h fenceOk) s = .next (if fenceOk then ((s.take h).pauseXfers.flip c).cfgReply h .ok
      else { s.take h with cfg := { s.cfg with fence := some (h, s.clk.wall) } }))

/-- R464: a fence not reached within 40 us ends the swap with ST_TIMEOUT and keeps the active set. -/
def configFenceTimeout : Prop := ∀ (h : Pkt) (t : Nat) (s : State), s.cfg.fence = some (h, t) → t + 40000 ≤ s.clk.wall →
  exec .configFenceTimeout s = .next (State.cfgReply { s with cfg := { s.cfg with fence := none } } h .timeout)

/-- R465: FW_STAGE of an image in the staging area, read without error, keeps an image the steward accepts as the staged one; any
other image answers ST_REJECTED. -/
def fwStage : Prop := ∀ (h : Pkt) (pa : W64) (len : W32) (s : State), s.cfgFree = true →
  s.accepts h true false true = true → (s.take h).inStaging pa.toNat len.toNat = true → len.toNat ≤ 0x400000 →
  let m := (s.take h).hbmRead pa.toNat len.toNat s.boot.stagingKey
  m.bad = false →
  exec (.fwStage h pa len) s = .next (
    if m.st.imageOk m.bytes then State.replyS { m.st with boot := { m.st.boot with
      staged := some (m.bytes, leAt m.bytes 16 4, leAt m.bytes 12 2, bit (leAt m.bytes 14 1) 1) } } h .ok
    else m.st.replyS h .rejected)

/-- R465, R466: FW_ACTIVATE of a staged image the steward accepts pauses command interpretation; of any other it answers
ST_REJECTED. -/
def fwActivate : Prop := ∀ (h : Pkt) (w : List Byte × Nat × Nat × Bool) (s : State), s.cfgFree = true →
  s.accepts h true false true = true → s.boot.staged = some w →
  exec (.fwActivate h) s = .next (
    if (s.take h).imageOk w.1 then { s.take h with boot := { s.boot with devState := 2, pause := some h } }
    else (s.take h).replyS h .rejected)

/-- R465, R466: when command interpretation resumes the staged image runs, with its versions, and FW_ACTIVATE is answered. -/
def commandInterpretationResumes : Prop := ∀ (h : Pkt) (img : List Byte) (ver sec : Nat) (sup : Bool) (s : State),
  s.running = true → s.boot.pause = some h → s.boot.staged = some (img, ver, sec, sup) →
  ∃ b, exec .commandInterpretationResumes s = .next (State.reply { s with boot := b } h .ok ver 0) ∧
    b.fwImage = img ∧ b.fwVer = ver ∧ b.secVer = sec ∧ b.devState = 1 ∧ b.staged = none ∧ b.pause = none

/-- R314: FUNCTION_DISABLE of a function that is on and not the sender's own queue pair disables it and answers when it is
drained; mode 1 aborts what it does. -/
def functionDisable : Prop := ∀ (h : Pkt) (kind mode : Byte) (index : W16) (s : State),
  s.accepts h true false (decide (kind.toNat < 4) && decide (mode.toNat < 2) && functionIndexOk kind.toNat index.toNat) =
    true →
  (kind.toNat = 3 → index.toNat ≠ h.qp.toNat) → s.isDisabled kind.toNat index.toNat = false →
  s.disabling.find? (fun d => d.kind = kind.toNat && d.index = index.toNat) = none →
  exec (.functionDisable h kind mode index) s = .next (
    let abort := decide (mode.toNat = 1)
    let d : Disable := { hs := [h], keep := if abort then [] else (s.take h).aiming kind.toNat index.toNat, enables := [],
                         kind := kind.toNat, index := index.toNat, abort := abort }
    let u : State := { s.take h with
      disabled := s.disabled ++ [(kind.toNat, index.toNat)]
      disabling := s.disabling ++ [d] }
    (if abort then u.abortFunction kind.toNat index.toNat else u).pumpDisables)

/-- R315: FUNCTION_ENABLE of a function that is disabled, or of a far-tier port, turns it on; with any other that is not being
disabled it does nothing. It answers ST_OK. -/
def functionEnable : Prop := ∀ (h : Pkt) (kind : Byte) (index : W16) (device : Byte) (mem : FarMem) (s : State),
  s.accepts h true false (decide (kind.toNat < 4) && functionIndexOk kind.toNat index.toNat) = true →
  s.disabling.any (fun d => d.kind = kind.toNat && d.index = index.toNat) = false →
  exec (.functionEnable h kind index device mem) s = .next
    ((if s.isDisabled kind.toNat index.toNat ∨ kind.toNat = 2 then (s.take h).functionOn kind.toNat index.toNat { kind := device.toNat, mem := mem }
      else s.take h).replyS h .ok)

/-! ### Resets (R193, R194, R401 to R405) -/

/-- R401: ENGINE_RESET of a tile that is on asks for an engine reset of it. -/
def engineReset : Prop := ∀ (h : Pkt) (t : Byte) (s : State), s.accepts h true false true = true → s.tileOff t.toNat = false →
  exec (.engineReset h t) s = .next
    (((s.take h).askReset ((s.take h).newReset .engine t.toNat [h] [t.toNat] [] [])).pumpResets)

/-- R401: PARTITION_RESET of a partition of the active set asks for a reset of it. -/
def partitionReset : Prop := ∀ (h : Pkt) (p : Byte) (s : State), s.accepts h true false (decide (p.toNat < 16)) = true →
  (NMap.get? s.parts p.toNat).isSome = true →
  exec (.partitionReset h p) s = .next
    (((s.take h).askReset ((s.take h).newReset .partition p.toNat [h] [] [] [])).pumpResets)

/-- R401, R404: a chip reset by its register needs the key 0xC01D0B74; any other value does nothing. -/
def chipResetWrite : Prop := ∀ (s : State),
  (s.live = true → s.port.memEnable = true → s.boot.inReset = false →
    exec (.chipResetWrite 0xC01D0B74) s = .next (s.chipReset .chip)) ∧
  (∀ key : W32, key ≠ 0xC01D0B74 → exec (.chipResetWrite key) s = .next s)

/-- R194: the verifying pass of a reset meets the upsets of its tiles, zeroises and checks every tile, brings the tiles back, gives the quads their
starting point and completes the reset. -/
def verifyingPass : Prop := ∀ (p : BitVec 4) (upsets : List (Nat × Upset)) (r : Reset) (s : State),
  s.resets.find? (fun r => decide (r.target = p.toNat) && s.readyToVerify r) = some r →
  exec (.verifyingPass p upsets) s = .next (
    let u := r.tiles.foldl (fun u t => (u.modTile t (fun x => x.zeroise false)).passCells t (fun _ => true)) (s.strikeAll (upsets.filter (fun u => r.tiles.contains u.1)))
    let u := r.tiles.foldl (fun u t => u.modTile t Tile.afterReset) u
    let qs := (List.range 64).filter (fun q => u.partOfGlen (q / 4) = some p.toNat)
    let u := qs.foldl (fun u q => u.modQuad q (fun x => { x with retLost := false, gov := u.startPoint p.toNat })) u
    u.resetOver r (u.gen p.toNat))

/-- R404: every reset that has passed its limit is escalated. -/
def resetEscalation : Prop := ∀ (s : State), exec .resetEscalation s = .next (
  let u := s.pumpResets
  (u.resets.filter (fun r => decide (r.since + r.limit ≤ u.clk.wall))).foldl
    (fun u r => if u.resets.contains r then u.escalate r else u) u)

/-! ### Observability (R469 to R475) -/

/-- R469: COUNTER_SNAPSHOT of an instant 10 us to 1 s ahead (0: the nearest) waits for it. -/
def counterSnapshot : Prop := ∀ (h : Pkt) (instant : W64) (s : State), s.accepts h true false true = true →
  let t := if instant.toNat = 0 then s.clk.now + 10000 else instant.toNat
  s.clk.now + 10000 ≤ t → t ≤ s.clk.now + 1000000000 → s.snapPending = none →
  exec (.counterSnapshot h instant) s = .next { s.take h with snapPending := some (h, t) }

/-- R469: an instant outside those bounds is refused with ST_REJECTED. -/
def counterSnapshotBounds : Prop := ∀ (h : Pkt) (instant : W64) (s : State), s.accepts h true false true = true →
  instant.toNat ≠ 0 → (instant.toNat < s.clk.now + 10000 ∨ s.clk.now + 1000000000 < instant.toNat) →
  exec (.counterSnapshot h instant) s = .next ((s.take h).replyS h .rejected)

/-- R469: at the instant every counter is latched into the snapshot bank and the command answers with the instant. -/
def counterSnapshotLatch : Prop := ∀ (h : Pkt) (t : Nat) (s : State), s.snapPending = some (h, t) → t ≤ s.clk.now →
  exec .counterSnapshotLatch s = .next (State.reply { s with snapPending := none, snapBank := s.ctrs, snapAt := t } h .ok t 0)

/-- R475: DUMP_READ of a dump that fits the destination copies it there and answers with its length. -/
def dumpRead : Prop := ∀ (h : Pkt) (handle dst : W64) (len : W32) (d : Dump) (s : State),
  s.accepts h true false true = true → s.dumps.find? (fun d => d.handle = handle.toNat) = some d →
  (s.take h).inStaging dst.toNat len.toNat = true → d.bytes.length ≤ len.toNat →
  (s.take h).targetFails dst.toNat true = none →
  exec (.dumpRead h handle dst len) s =
    .next (((s.take h).hbmWrite dst.toNat d.bytes s.boot.stagingKey false).reply h .ok d.bytes.length 0)

/-- R471, R473: TRACE_START of a context's tiles into a ring it may use, with no trace running, starts it with the ring empty (the
tail at the head that software last wrote: the model's choice, log entry 157) and a SYNC record for every bound tile. -/
def traceStart : Prop := ∀ (h : Pkt) (source ctx : Byte) (base : W64) (size : W32) (s : State), source.toNat < 2 →
  s.accepts h true false (decide (source.toNat < 2) && traceSizeOk size.toNat && decide (base.toNat % size.toNat = 0)) = true →
  (s.take h).traceRingOk (decide (source.toNat = 1)) ctx.toNat base.toNat size.toNat = true → s.trace.running = false →
  exec (.traceStart h source ctx base size) s = .next (
    let u : State := { s.take h with trace :=
      { running := true, steward := decide (source.toNat = 1), ctx := ctx.toNat, base := base.toNat, size := size.toNat,
        head := s.trace.head, tail := s.trace.head % (size.toNat / 32), lost := 0, lostSince := 0 } }
    ((if source.toNat = 1 then [] else u.tilesBound ctx.toNat).foldl (fun u t =>
      (u.modCore t (fun c => { c with flow := [] })).traceSync t) u).replyS h .ok)

/-- R471: TRACE_STOP ends the trace. -/
def traceStop : Prop := ∀ (h : Pkt) (s : State), s.accepts h true false true = true →
  exec (.traceStop h) s = .next (State.replyS { s.take h with trace := { s.trace with running := false } } h .ok)

/-! ### Registers of the host port (R36, R285 to R289, R355, R356, R394, R473) -/

/-- The occasion on which BAR0 and BAR2 decode and act: memory space enabled, the package out of reset and live, no boot failure. -/
def barActs (s : State) : Prop :=
  s.port.memEnable = true ∧ s.boot.inReset = false ∧ s.live = true ∧ s.boot.devState ≠ 3

/-- R285: enable written as 1 to a disabled queue pair with ring sizes of 2^4 to 2^16 entries, of the device or of a context that
exists, makes it active with the fields written, both rings empty from entry 0, no error, phase 1; no other pair changes. -/
def qpEnable : Prop := ∀ (n : BitVec 12) (v : W64) (s : State), barActs s → bit v.toNat 0 = true →
  (s.qp n.toNat).enable = false → ringLog (s.qp n.toNat).sqLog = true → ringLog (s.qp n.toNat).cqLog = true →
  (bit v.toNat 3 = true ∨ (s.ctx? (bits v.toNat 8 8)).isSome = true) →
  ∃ t, exec (.qpEnable n v) s = .next t ∧
    t.qp n.toNat = { s.qp n.toNat with
      enable := true, active := true, error := false, errCode := 0
      sqHbm := bit v.toNat 1, cqHbm := bit v.toNat 2, devQueue := bit v.toNat 3
      ctx := bits v.toNat 8 8, msix := bits v.toNat 16 11, coalesce := bits v.toNat 32 8
      sqHead := 0, sqTail := 0, cqTail := 0, cqHead := 0, phase := true, cq := [], since := 0, oldest := none
      ringHbm := bit v.toNat 2, ringLost := false } ∧
    (∀ m, m ≠ n.toNat → t.qp m = s.qp m) ∧ { t with qps := s.qps } = s

/-- R285, R288: with a ring size out of range, or a context that does not exist, the pair is in error with ST_BAD_COMMAND and not
active. -/
def qpEnableBad : Prop := ∀ (n : BitVec 12) (v : W64) (s : State), barActs s → bit v.toNat 0 = true →
  (s.qp n.toNat).enable = false →
  (ringLog (s.qp n.toNat).sqLog = false ∨ ringLog (s.qp n.toNat).cqLog = false ∨
    (bit v.toNat 3 = false ∧ s.ctx? (bits v.toNat 8 8) = none)) →
  ∃ t, exec (.qpEnable n v) s = .next t ∧ (t.qp n.toNat).error = true ∧ (t.qp n.toNat).errCode = Status.badCommand.code ∧
    (t.qp n.toNat).active = false ∧ { t with qps := s.qps } = s

/-- R285: enable written as 0 to an enabled pair stops the taking of commands; it stays active while replies are owed. -/
def qpDisable : Prop := ∀ (n : BitVec 12) (v : W64) (s : State), barActs s → bit v.toNat 0 = false →
  (s.qp n.toNat).enable = true →
  ∃ t, exec (.qpDisable n v) s = .next t ∧
    t.qp n.toNat = { s.qp n.toNat with
      enable := false, active := (s.qp n.toNat).active && decide ((s.qp n.toNat).taken ≠ 0) } ∧
    (∀ m, m ≠ n.toNat → t.qp m = s.qp m) ∧ { t with qps := s.qps } = s

/-- R286, R288: SQ_TAIL of an active pair: an index inside the ring submits up to it when the entries can be read; an index
outside stops the pair with ST_BAD_COMMAND, entries that cannot be read stop it with ST_TRANSLATION_FAULT. -/
def sqTail : Prop := ∀ (n : BitVec 12) (i : W16) (ok : Bool) (s : State), barActs s → (s.qp n.toNat).active = true →
  (i.toNat < 2 ^ (s.qp n.toNat).sqLog → (ok && s.ringOk (s.qp n.toNat).sqHbm (s.qp n.toNat).sqBase) = true →
    exec (.sqTail n i ok) s = .next (s.modQp n.toNat (fun q => { q with sqTail := i.toNat }))) ∧
  (i.toNat < 2 ^ (s.qp n.toNat).sqLog → (ok && s.ringOk (s.qp n.toNat).sqHbm (s.qp n.toNat).sqBase) = false →
    exec (.sqTail n i ok) s = .next (s.modQp n.toNat (fun q => { q with error := true, errCode := 0x11 }))) ∧
  (2 ^ (s.qp n.toNat).sqLog ≤ i.toNat →
    exec (.sqTail n i ok) s = .next (s.modQp n.toNat (fun q => { q with error := true, errCode := 0x1B })))

/-- R286, R287: CQ_HEAD frees the completion entries up to its index; an index outside the ring stops the pair. -/
def cqHead : Prop := ∀ (n : BitVec 12) (i : W16) (s : State), barActs s → (s.qp n.toNat).active = true →
  (i.toNat < 2 ^ (s.qp n.toNat).cqLog → exec (.cqHead n i) s = .next (s.modQp n.toNat (fun q =>
    { q with cqHead := i.toNat, cq := q.cq.drop ((i.toNat + 2 ^ q.cqLog - q.cqHead) % 2 ^ q.cqLog) }))) ∧
  (2 ^ (s.qp n.toNat).cqLog ≤ i.toNat →
    exec (.cqHead n i) s = .next (s.modQp n.toNat (fun q => { q with error := true, errCode := 0x1B })))

/-- R289: 4 us after the oldest reply that has not raised its pair's vector, the vector is raised. -/
def msixCoalesceTimer : Prop := ∀ (n : BitVec 12) (t : Nat) (s : State), s.running = true →
  (s.qp n.toNat).oldest = some t → t + 4000 ≤ s.clk.now →
  exec (.msixCoalesceTimer n) s = .next (s.raiseQp n.toNat)

/-- R36: a read of the low half of COMMON_COUNT returns it and latches the high half for the next read of 0x1004. -/
def commonCountLowRead : Prop := ∀ (s : State), barActs s →
  exec .commonCountLowRead s = .next { s with
    clk := { s.clk with latch := some (s.clk.now % 2 ^ 64 / 2 ^ 32) }
    port := { s.port with answer := leBytes 4 s.clk.now, answerPoison := false } }

/-- R394, R473: EVT_POS.head and TRACE_POS.head take the value written; nothing else changes. -/
def headWrites : Prop := ∀ (e : BitVec 12) (h : W32) (s : State), barActs s →
  exec (.evtHeadWrite e) s = .next { s with log := { s.log with head := e.toNat } } ∧
  exec (.traceHeadWrite h) s = .next { s with trace := { s.trace with head := h.toNat } }

/-- R356: a naturally aligned register write has the effect of its register; one that is not aligned has none. -/
def registerWrite : Prop := ∀ (off : BitVec 26) (wide : Bool) (v : W64) (s : State), barActs s →
  (off.toNat % (if wide then 8 else 4) = 0 →
    exec (.registerWrite off wide v) s =
      .next (s.bar0Write off.toNat wide (if wide then v.toNat else v.toNat % 2 ^ 32))) ∧
  (off.toNat % (if wide then 8 else 4) ≠ 0 → exec (.registerWrite off wide v) s = .next s)

/-- R354, R355: with memory space disabled no register command has an effect. -/
def barOff : Prop := ∀ (n : BitVec 12) (v : W64) (i : W16) (ok : Bool) (e : BitVec 12) (h key : W32) (off : BitVec 26)
  (wide : Bool) (b : W64) (w : Byte) (s : State), s.port.memEnable = false →
  ∀ c ∈ [Instr.qpEnable n v, .qpDisable n v, .sqTail n i ok, .cqHead n i, .chipResetWrite key, .commonCountLowRead,
    .evtHeadWrite e, .traceHeadWrite h, .registerWrite off wide v, .hdmDecoderCommit b w], exec c s = .next s

/-! ### Configuration space and the HDM window (R351 to R360) -/

/-- R354: configuration requests are answered with Configuration Request Retry Status until the steward firmware is ready. -/
def configRetry : Prop := ∀ (w : Bool) (r : BitVec 12) (v : W32) (s : State), s.pins.perstN = true →
  s.pins.supplies = true → s.live = true → (s.boot.retry = true ∨ s.boot.inReset = true) →
  exec (.configRequest w r v) s = .next { s with port := { s.port with answer := [], retryAnswer := true } }

/-- R351: after that a read answers with the register at its 4-byte place, and a write writes it. -/
def configRequest : Prop := ∀ (r : BitVec 12) (v : W32) (s : State), s.pins.perstN = true → s.pins.supplies = true →
  s.live = true → s.boot.retry = false → s.boot.inReset = false →
  exec (.configRequest false r v) s = .next { s with port :=
    { s.port with answer := leBytes 4 (s.cfgRead (r.toNat / 4 * 4)), answerPoison := false, retryAnswer := false } } ∧
  exec (.configRequest true r v) s = .next (
    let u := s.cfgWrite (r.toNat / 4 * 4) v.toNat
    { u with port := { u.port with answer := [], answerPoison := false, retryAnswer := false } })

/-- R357: HDM_DECODER_COMMIT with one way commits the base in units of 256 MiB; with any other number it reports an error and commits
nothing. -/
def hdmDecoderCommit : Prop := ∀ (base : W64) (ways : Byte) (s : State), barActs s →
  exec (.hdmDecoderCommit base 1) s = .next { s with port :=
    { s.port with hdmOn := true, hdmErr := false, hdmBase := base.toNat / 2 ^ 28 * 2 ^ 28 } } ∧
  (ways ≠ 1 → exec (.hdmDecoderCommit base ways) s = .next { s with port := { s.port with hdmErr := true } })

/-- R358, R359: a CXL.mem read of a host-open unit on an available stack, in time, crosses the stack's dale's saddle and
returns its bytes under the key of the range, and both are counted; a read that R358 refuses returns zeros. -/
def cxlMemRead : Prop := ∀ (addr : W64) (len : BitVec 7) (pa : Nat) (us : List Upset) (s : State),
  s.hdmAddr addr.toNat len.toNat = some pa →
  (∀ key, (s.strikeHbm us).hostOpenKey pa false = some key → ((s.strikeHbm us).stack (stackOf pa)).available = true →
    exec (.cxlMemRead addr len false us) s = .next (
      let m := (((s.strikeHbm us).countTier pa len.toNat false).countRoute (daleAt pa) none len.toNat).hbmRead pa len.toNat key
      m.st.memAnswer m.bytes m.bad)) ∧
  (∀ late, (s.strikeHbm us).hostOpenKey pa false = none → exec (.cxlMemRead addr len late us) s =
    .next (((s.strikeHbm us).hostRefused addr.toNat).memAnswer (List.replicate len.toNat 0) false))

/-- R358, R359: a CXL.mem write of a host-open unit on an available stack crosses the saddle of the stack's dale and writes its bytes under the key of the range; a
write that R358 refuses writes nothing. -/
def cxlMemWrite : Prop := ∀ (addr : W64) (data : List Byte) (poison : Bool) (pa : Nat) (us : List Upset) (s : State),
  s.hdmAddr addr.toNat data.length = some pa →
  let u := (s.strikeHbm us).count 0x304228 data.length
  (∀ key, u.hostOpenKey pa true = some key → (u.stack (stackOf pa)).available = true →
    exec (.cxlMemWrite addr data poison us) s =
      .next (((u.countRoute none (daleAt pa) data.length).hbmWrite pa data key poison).countTier pa data.length true)) ∧
  (u.hostOpenKey pa true = none → exec (.cxlMemWrite addr data poison us) s = .next (u.hostRefused addr.toNat))

/-- R360: a snoop removes its line from the device cache. -/
def hostSnoop : Prop := ∀ (line : W64) (s : State),
  exec (.hostSnoop line) s = .next { s with port := { s.port with
    cache := s.port.cache.filter (fun l => l ≠ line.toNat / 64) } }

/-- R353: a hot reset takes the port to its reset values, ends every queue pair as if enable had been written as 0, keeps what is
owed, and changes nothing else. -/
def hotReset : Prop := ∀ (s : State), s.running = true →
  exec .hotReset s = .next { s with
    port := { Port0.reset with sent := s.port.sent, lastRefusal := s.port.lastRefusal, firstRefused := s.port.firstRefused }
    qps := NMap.mapv s.qps (fun _ q => { q with
      enable := false, sqHbm := false, cqHbm := false, devQueue := false, ctx := 0, msix := 0, coalesce := 0
      active := q.active && decide (q.taken ≠ 0), ringLost := true }) }

/-! ### Attestation (R362, R363, R452) -/

/-- The DOE mailbox answers: the package runs, configuration retry is over, it is not in test mode. -/
def doeAnswers (s : State) : Prop := s.running = true ∧ s.boot.retry = false ∧ s.boot.testMode = false

/-- R362, R363: each SPDM request leaves its response in the mailbox and changes nothing else; a request that is not listed
gets ERROR UnsupportedRequest; an abort empties the mailbox. -/
def spdmAnswers : Prop := ∀ (slot : BitVec 3) (code : Byte) (s : State), doeAnswers s → slot.toNat < 2 →
  exec .getVersion s = .next { s with port := { s.port with doe := some .version } } ∧
  exec .getCapabilities s = .next { s with port := { s.port with doe := some .capabilities } } ∧
  exec .negotiateAlgorithms s = .next { s with port := { s.port with doe := some .algorithms } } ∧
  exec .getDigests s = .next { s with port := { s.port with
    doe := some (.digests (Config.sha256 (s.chain 0)) (Config.sha256 (s.chain 1))) } } ∧
  exec (.getCertificate slot) s = .next { s with port := { s.port with
    doe := some (.certificate slot.toNat (s.chain slot.toNat)) } } ∧
  exec (.spdmUnsupportedRequest code) s = .next { s with port := { s.port with doe := some (.error 0x07) } } ∧
  exec .doeAbort s = .next { s with port := { s.port with doe := none } }

/-- R362, R441: CHALLENGE and GET_MEASUREMENTS are signed with the alias key over the nonce and the blocks. -/
def spdmSigned : Prop := ∀ (slot : BitVec 3) (nonce : List Byte) (i : Byte) (s : State), doeAnswers s → slot.toNat < 2 →
  1 ≤ i.toNat → i.toNat ≤ 7 →
  exec (.challenge slot nonce) s = .next { s with port := { s.port with doe := some (.challengeAuth slot.toNat
    (Config.sign s.boot.alias_ (nonce ++ Config.sha256 (s.chain slot.toNat) ++ blockBytes (s.blocks 0xFF)))) } } ∧
  exec (.getMeasurements i nonce) s = .next { s with port := { s.port with doe := some (.measurements
    [(i.toNat, s.measure i.toNat)]
    (Config.sign s.boot.alias_ (nonce ++ blockBytes [(i.toNat, s.measure i.toNat)]))) } }

/-- R452: in test mode the mailbox answers every request with an error. -/
def spdmTestMode : Prop := ∀ (slot : BitVec 3) (nonce : List Byte) (i : Byte) (s : State), s.running = true →
  s.boot.retry = false → s.boot.testMode = true →
  ∀ c ∈ [Instr.getVersion, .getCapabilities, .negotiateAlgorithms, .getDigests, .getCertificate slot, .challenge slot nonce,
    .getMeasurements i nonce], exec c s = .next { s with port := { s.port with doe := some (.error 0x07) } }

/-! ### SMBus telemetry (R430, R431) -/

/-- The package with an SMBus answer; nothing else changes. -/
def smbSays (s : State) (v : Nat) : State := { s with power := { s.power with smb := some v } }

/-- R430, R431: with the supplies applied each read command answers with its value and changes nothing else. -/
def smbReads : Prop := ∀ (col : Byte) (s : State), s.pins.supplies = true →
  exec .pwrNow s = .next (smbSays s s.power.w100us) ∧
  exec (.tjMax col) s = .next (smbSays s (((List.range 64).map (fun q => (s.quad q).junction)).foldl max col.toNat)) ∧
  exec .hbmTmax s = .next (smbSays s (((List.range 16).map (fun k => (s.stack k).temp)).foldl max 0)) ∧
  exec .trayLimitWRead s = .next (smbSays s s.power.trayLimit) ∧
  exec .alertMaskRead s = .next (smbSays s s.power.alertMask) ∧
  exec .pwrStatus s = .next (smbSays s (
    (if s.anyHeldT then 1 else 0) + (if s.anyHeldP then 2 else 0) + (if s.power.outOfCond then 4 else 0) +
    (if s.pins.faultN then 0 else 8) + (if s.boot.devState = 1 then 16 else 0)))

/-- R430: TRAY_LIMIT_W takes a value up to 1,700 and no other; ALERT_MASK takes the value written. -/
def smbWrites : Prop := ∀ (watts : W16) (mask : Byte) (s : State), s.pins.supplies = true →
  (watts.toNat ≤ 1700 → exec (.trayLimitWWrite watts) s = .next { s with power := { s.power with trayLimit := watts.toNat } }) ∧
  (1700 < watts.toNat → exec (.trayLimitWWrite watts) s = .next s) ∧
  exec (.alertMaskWrite mask) s = .next { s with power := { s.power with alertMask := mask.toNat } }

/-! ### Rates, governors, power and temperature (R30, R417 to R429) -/

/-- R30: a rate window that ends a new window of 1,024 ns sets the quad's rate, junction temperature, voltage (0 to 80) and valid
bit; a quad that is off has rate 0. -/
def rateMonitorWindow : Prop := ∀ (q : BitVec 6) (rate : BitVec 28) (j v : Byte) (s : State), s.running = true →
  (s.quad q.toNat).window < s.clk.now / 1024 →
  ∃ t, exec (.rateMonitorWindow q rate j v) s = .next t ∧
    t.quad q.toNat = { s.quad q.toNat with
      rate := if (s.quad q.toNat).off then 0 else rate.toNat, junction := j.toNat, voltage := min 80 v.toNat, valid := true
      window := s.clk.now / 1024 } ∧
    (∀ n, n ≠ q.toNat → t.quad n = s.quad n) ∧ { t with quads := s.quads } = s

/-- R424: a governor evaluation gives every governed quad of its partition the set point of the partition's policy. -/
def governorEvaluation : Prop := ∀ (p : BitVec 4) (want : Option (BitVec 7)) (pol : Policy) (s : State),
  s.policy p.toNat = some pol →
  exec (.governorEvaluation p want) s = .next (((s.governed p.toNat).foldl (fun u q => u.modQuad q (fun x =>
    { x with gov := pol.next x.gov (u.fv 0) (want.map (fun v => v.toNat)) })) s).used 1)

/-- R424: in efficiency mode a governed quad takes the code of least measured energy within the policy's bounds. -/
def efficiencyMeasurement : Prop := ∀ (q : BitVec 6) (best : BitVec 7) (p : Nat) (pol : Policy) (s : State),
  s.quadPart q.toNat = some p → s.policy p = some pol → pol.mode = 3 → (s.governed p).contains q.toNat = true →
  ∃ t, exec (.efficiencyMeasurement q best) s = .next t ∧
    t.quad q.toNat = { s.quad q.toNat with gov := max pol.vMin (min pol.vMax best.toNat) } ∧
    (∀ n, n ≠ q.toNat → t.quad n = s.quad n) ∧ { t with quads := s.quads } = s

/-- R420, R427: a power measurement sets the package averages and the power of each quad listed, and nothing else. -/
def powerMeasurement : Prop := ∀ (w100 w1 : W16) (qs : List (Nat × Nat)) (s : State),
  exec (.powerMeasurement w100 w1 qs) s = .next ((qs.filter (fun e => decide (e.1 < 64))).foldl
    (fun u e => u.modQuad e.1 (fun x => { x with power := e.2 % 65536 }))
    { s with power := { s.power with w100us := w100.toNat, w1ms := w1.toNat } })

/-- R426: the power limiter: above the cap, from the 1 ms average passing it until the 100 us average has come down to it, one
lowering step every 10 us; at least 3% below it, one raising step every 100 us; else nothing but that it no longer lowers. -/
def powerLimiterStep : Prop := ∀ (s : State), s.running = true →
  (s.capNow < s.power.w100us → (s.power.lowering = true ∨ s.capNow < s.power.w1ms) → s.power.limAt + 10000 ≤ s.clk.wall →
    exec .powerLimiterStep s = .next (
      let u := s.lowerStep
      { u with power := { u.power with lowering := true, limAt := u.clk.wall } })) ∧
  (s.power.w100us ≤ s.capNow → 100 * s.power.w1ms ≤ 97 * s.capNow → s.power.limAt + 100000 ≤ s.clk.wall →
    exec .powerLimiterStep s = .next (
      let u := s.raiseStep
      { u with power := { u.power with lowering := false, limAt := u.clk.wall } })) ∧
  (s.power.w100us ≤ s.capNow → 97 * s.capNow < 100 * s.power.w1ms →
    exec .powerLimiterStep s = .next { s with power := { s.power with lowering := false } })

/-- R428: the thermal limiter: from 100 °C up, 10 mV down every 20 us; from 97 °C down, 10 mV up every 100 us until the ceiling
binds no more; between, nothing. -/
def thermalLimiterStep : Prop := ∀ (q : BitVec 6) (temp : Byte) (s : State), s.running = true → temp.toNat ≤ 105 →
  let x := s.quad q.toNat
  (100 ≤ temp.toNat → x.thermAt + 20000 ≤ s.clk.wall → exec (.thermalLimiterStep q temp) s =
    .next (s.modQuad q.toNat (fun x => { x with ceilT := min x.ceilT x.gov - 2, thermAt := s.clk.wall }))) ∧
  (temp.toNat ≤ 97 → x.ceilT < 80 → x.thermAt + 100000 ≤ s.clk.wall → exec (.thermalLimiterStep q temp) s =
    .next (s.modQuad q.toNat (fun x =>
      { x with ceilT := if x.gov ≤ x.ceilT + 2 then 80 else x.ceilT + 2, thermAt := s.clk.wall }))) ∧
  (97 < temp.toNat → temp.toNat < 100 → exec (.thermalLimiterStep q temp) s = .next s)

/-- R391, R428: above 105 °C the package also leaves its conditions. -/
def thermalOutOfConditions : Prop := ∀ (q : BitVec 6) (temp : Byte) (s : State), s.running = true → 105 < temp.toNat →
  ∃ t, exec (.thermalLimiterStep q temp) s = .next t ∧ t.power = { s.power with outOfCond := true }

/-- R429: a sensor at 115 °C or more asserts THERMTRIP_N and every quad is off; below that nothing happens. -/
def thermtrip : Prop := ∀ (temp : Byte) (s : State), s.pins.supplies = true →
  (115 ≤ temp.toNat → ∃ t, exec (.thermtrip temp) s = .next t ∧ t.pins = { s.pins with thermtripN := false } ∧
    (∀ q < 64, (t.quad q).off = true)) ∧
  (temp.toNat < 115 → exec (.thermtrip temp) s = .next s)

/-- R417, R418: a regulator output out of its window for more than 10 us, of a quad that is on, or the retention output of one whose
retention has not failed before, is reported and fails the quad; for up to 10 us nothing happens. -/
def regulatorWindow : Prop := ∀ (q : BitVec 6) (ret : Bool) (code : Byte) (ns : Nat) (s : State), s.running = true →
  (10000 < ns → ((s.quad q.toNat).off = true → ret = true ∧ ¬((s.quad q.toNat).offCause = 2 ∧ (s.quad q.toNat).retLost = true)) →
    exec (.regulatorWindow q ret code ns) s =
    .next ((s.raise (evUnit 2 q.toNat 0x16 1 [(24, 1, code.toNat)])).quadFails q.toNat ret)) ∧
  (ns ≤ 10000 → exec (.regulatorWindow q ret code ns) s = .next s)

/-- R391: a rail or sensor that leaves its limits sets out_of_conditions and nothing else. -/
def outOfConditions : Prop := ∀ (rail : Byte) (s : State), s.running = true →
  exec (.outOfConditions rail) s = .next { s with power := { s.power with outOfCond := true } }

/-! ### Pins, boot and JTAG (R351, R352, R432, R437, R451 to R456, R486, R487, R500) -/

/-- R352, R419, R453, R500: a low pulse of at least 10 us on TRAY_RESET_N, which also takes the QSPI pins to high impedance, or on
PERST_N while TRAY_RESET_N is high, or on PWRGOOD, which also takes every quad off, is a chip reset; one of less than 1 us is none. -/
def resetPulses : Prop := ∀ (ns : Nat) (s : State), s.pins.supplies = true → s.live = true →
  (10000 ≤ ns → exec (.trayResetNAssert ns) s =
    .next (State.chipReset { s.used 1 with pins := { s.pins with trayResetN := false, qspiHighZ := true } } .chip)) ∧
  (10000 ≤ ns → s.pins.trayResetN = true → exec (.perstNAssert ns) s =
    .next (State.chipReset { s.used 1 with pins := { s.pins with perstN := false } } .chip)) ∧
  (10000 ≤ ns → exec (.pwrgoodFall ns) s =
    .next (State.chipReset { s.used 1 with pins := { s.pins with pwrgood := false } } .chip).allQuadsOff) ∧
  (ns < 1000 → exec (.trayResetNAssert ns) s = .next (s.used 1) ∧ exec (.perstNAssert ns) s = .next (s.used 1) ∧
    exec (.pwrgoodFall ns) s = .next (s.used 1))

/-- R352: PERST_N low while TRAY_RESET_N is low changes the pin only; its release does too. -/
def perstN : Prop := ∀ (ns : Nat) (s : State), s.pins.supplies = true →
  (10000 ≤ ns → s.pins.trayResetN = false →
    exec (.perstNAssert ns) s = .next { s.used 1 with pins := { s.pins with perstN := false } }) ∧
  exec .perstNRelease s = .next { s with pins := { s.pins with perstN := true } }

/-- R419, R454: PWRGOOD rising lets the package boot again; its quads come up at their reset values. -/
def pwrgoodRise : Prop := ∀ (s : State), s.pins.supplies = true → s.pins.pwrgood = false → s.live = true →
  exec .pwrgoodRise s = .next { s with pins := { s.pins with pwrgood := true }, quads := [] }

/-- R432, R486: the removal of the supplies leaves the package at its reset values, with PWRGOOD low; what lies outside it (what it
sent, far-tier devices, host memory, packets on the wires, elapsed time), the queue of commands and the model's own counters stay.
Applying the supplies latches the address straps and clears ALERT_MASK. -/
def supplies : Prop := ∀ (a b : Bool) (s : State),
  exec .supplyRemoval s = .next { State.reset with
    pending := s.pending
    pins := { State.reset.pins with supplies := false, pwrgood := false }
    boot := { State.reset.boot with keyNext := s.boot.keyNext }
    clk := { State.reset.clk with wall := s.clk.wall }
    port := { State.reset.port with sent := s.port.sent }
    mem := { State.reset.mem with
      far := s.mem.far, farKey := s.mem.farKey, farPoison := s.mem.farPoison, farLost := s.mem.farLost
      host := s.mem.host, hostPoison := s.mem.hostPoison }
    links := { State.reset.links with out := s.links.out }
    freeCtr := s.freeCtr } ∧
  (s.pins.supplies = false → exec (.suppliesApplied a b) s = .next { s with
    pins := { s.pins with supplies := true, straps := (if a then 1 else 0) + (if b then 2 else 0) }
    power := { s.power with alertMask := 0 } })

/-- R452, R455: TRAY_RESET_N released from low, with nothing else holding the package in reset, samples TEST_N and boots. -/
def trayResetNRelease : Prop := ∀ (testN : Bool) (b : BootInputs) (s : State), s.boot.inReset = true →
  s.pins.supplies = true → s.pins.pwrgood = true → s.live = true → s.pins.jtag ≠ 3 → s.pins.trayResetN = false →
  exec (.trayResetNRelease testN b) s = .next (State.bootRuns { s with
    pins := { s.pins with trayResetN := true, qspiHighZ := false }
    boot := { s.boot with testMode := !testN } } b)

/-- R455, R456: a boot that fails ends with DEV_STATE 3, its error code and FAULT_N asserted; one that does not leaves chip
reset with DEV_STATE 0 and the versions of its image. -/
def bootOutcome : Prop := ∀ (testN : Bool) (b : BootInputs) (s : State), s.boot.inReset = true →
  s.pins.supplies = true → s.pins.pwrgood = true → s.live = true → s.pins.jtag ≠ 3 → s.pins.trayResetN = false →
  ∃ t, exec (.trayResetNRelease testN b) s = .next t ∧ t.boot.inReset = false ∧
    (∀ e, bootError b (!testN) = some e → t.boot.devState = 3 ∧ t.boot.error = e ∧ t.pins.faultN = false) ∧
    (bootError b (!testN) = none → t.boot.devState = 0 ∧ t.boot.secVer = b.imageSecVer ∧
      t.boot.fwVer = b.imageFwVer % 2 ^ 32 ∧ t.boot.retry = true ∧ t.pins.faultN = s.pins.faultN)

/-- R354, R455: the steward firmware ready: DEV_STATE 1, configuration retry over. -/
def stewardFirmwareReady : Prop := ∀ (s : State), s.running = true → s.boot.devState = 0 →
  exec .stewardFirmwareReady s = .next { s with boot := { s.boot with devState := 1, retry := false } }

/-- R451: the JTAG instructions: EXTEST holds the package in chip reset; IDCODE shifts out the identity code, least significant
bit first; SAMPLE/PRELOAD samples the lands; BYPASS and every other code select the bypass bit. -/
def jtag : Prop := ∀ (code : Byte) (ps pre : List Bool) (s : State), s.pins.supplies = true →
  (s.live = true → exec .jtagExtest s = .next (State.chipReset { s with pins := { s.pins with jtag := 3 } } .chip)) ∧
  exec .jtagIdcode s = .next { s with pins :=
    { s.pins with jtag := 1, tdo := (List.range 32).map (fun i => bit idcode i) } } ∧
  exec (.jtagBypass code) s = .next { s with pins := { s.pins with jtag := 0, tdo := [false] } } ∧
  exec (.jtagSamplePreload ps pre) s = .next { s with pins := { s.pins with jtag := 2, tdo := ps, bscan := pre } }

/-! ### Faults and scrubbing (R186 to R195, R334, R338, R389, R398 to R410) -/

/-- R398, R399: a lockstep mismatch of a tile core that runs is reported and its tile taken through an engine reset; one of the
steward's is a hard reset of the package. -/
def lockstepMismatch : Prop := ∀ (t : Byte) (s : State),
  (s.boot.inReset = false → exec (.lockstepMismatch true t) s =
    .next ((s.raise (evUnit 7 0 0x13 1 [(24, 4, 0)])).hardReset)) ∧
  ((s.tile t.toNat).core.run ≠ .idle → (s.tile t.toNat).inReset = false → exec (.lockstepMismatch false t) s =
    .next ((s.raise (s.evTile t.toNat 0x13 1 [(24, 4, (s.tile t.toNat).core.pc)])).resetTile t.toNat))

/-- R333, R392: a failed saddle: one of the first four is a chip reset, one of the others is rerouted, once. -/
def saddleFailed : Prop := ∀ (k : BitVec 3) (s : State), s.boot.inReset = false →
  (k.toNat < 4 → exec (.saddleFailed k) s = .next ((s.raise (evUnit 6 k.toNat 0x15 1 [(24, 1, 0)])).chipReset .chip)) ∧
  (4 ≤ k.toNat → s.saddleRerouted.contains (k.toNat - 4) = false → exec (.saddleFailed k) s = .next (State.raise
    { s with saddleRerouted := insertNat s.saddleRerouted (k.toNat - 4) } (evUnit 6 k.toNat 0x15 1 [(24, 1, 1)])))

/-- R399, R400: a unit that may stall, stalled for its threshold, is a hang: the engines and the core of a tile are dumped, ended and
reset; a stack, a far port, a link or a saddle is taken down; the host port is reset; the col die or the steward is a hard
reset. Each raises the HANG event first. -/
def hang : Prop := ∀ (d : Domain) (unit : Byte) (ns : Nat) (s : State), s.running = true →
  s.threshold d.kind * 1000 ≤ ns → s.mayStall d unit.toNat = true →
  let ev := fun (u : State) (ctx : Option Nat) (x : Nat) => u.raise
    { evUnit 9 d.index 0x14 1 [(24, 4, s.threshold d.kind), (28, 1, unit.toNat), (32, 8, x)] with ctx := ctx }
  exec (.hang d unit ns) s = .next (match d with
    | .engine t => s.hangTile t.toNat unit.toNat d.index (fun u x => ev u (u.tile t.toNat).ctx x)
    | .core t => s.hangTile t.toNat unit.toNat d.index (fun u x => ev u (u.tile t.toNat).ctx x)
    | .hbm k => (ev s none 0).stackDown k.toNat
    | .cxl => (ev s none 0).portReset
    | .far p => ((ev s none 0).modFar p.toNat (fun f => { f with failed := true })).failFarWrites p.toNat
    | .ohmist p => (ev s none 0).portDown p.toNat 0
    | .saddle k => (ev s none 0).saddleDown k.toNat
    | .colCore => (ev s none 0).hardReset
    | .steward => (ev s none 0).hardReset)

/-- R186: a remote port access of a tile that can serve it, in the current generation, reads or writes one 64 B unit and counts
it; one it cannot serve answers with its status and moves nothing. -/
def remotePortRequest : Prop := ∀ (t : Byte) (off : BitVec 25) (data : List Byte) (gen : Byte) (us : List Upset) (s : State),
  let a := off.toNat / 64 * 64
  let u := (s.modTile t.toNat (fun x => x.strike us)).count (0x300000 + 64 * t.toNat + 48) 64
  (s.portRefuses t.toNat a gen.toNat true = none → (s.quad (quadOf t.toNat)).scrubPass = false →
    exec (.remotePortRequest t true off data gen us) s =
      .next { u.spWrite t.toNat a (data.take 64) false with remote := some (Status.ok.code, [], false) }) ∧
  (s.portRefuses t.toNat a gen.toNat false = none → (s.quad (quadOf t.toNat)).scrubPass = false →
    exec (.remotePortRequest t false off data gen us) s = .next (
      let r := u.spRead t.toNat a 64
      { r.2.2 with remote := some (Status.ok.code, r.1, !r.2.1.isEmpty) })) ∧
  (∀ write st, s.portRefuses t.toNat a gen.toNat write = some st →
    exec (.remotePortRequest t write off data gen us) s = .next { s with remote := some (st.code, [], false) })

/-- R190, R191: a scrub access of a tile whose quad is on and whose scrubbing is not off reads and corrects one row of 64
cells, or one word of the instruction store. -/
def scrubAccess : Prop := ∀ (t : Byte) (row : W16) (us : List Upset) (s : State),
  (s.quad (quadOf t.toNat)).off = false → s.scrubOff t.toNat = false →
  (row.toNat < 36864 → exec (.scrubAccess t false row us) s =
    .next ((s.modTile t.toNat (fun x => x.strike us)).scrubCells t.toNat (List.range' (64 * row.toNat) 64))) ∧
  (row.toNat < 16384 → exec (.scrubAccess t true row us) s =
    .next ((s.modCore t.toNat (fun c => c.strike us)).scrubWord t.toNat row.toNat))

/-- R194, R419: the scrub pass of a quad that has come back on meets the upsets of its four tiles, reads every cell of them, ends the pass and gives the quad
its starting point, unless its partition is in reset. -/
def quadReturnScrubPass : Prop := ∀ (q : BitVec 6) (upsets : List (Nat × Upset)) (s : State), (s.quad q.toNat).scrubPass = true →
  (s.quad q.toNat).off = false →
  exec (.quadReturnScrubPass q upsets) s = .next (
    let u := (List.range' (4 * q.toNat) 4).foldl (fun u t =>
      (NMap.keysOf (u.tile t).core.ilatent (fun _ _ => true)).foldl (fun u k => u.scrubWord t k) (u.passCells t (fun _ => true)))
      (s.strikeAll (upsets.filter (fun e => quadOf e.1 = q.toNat)))
    let v := match u.partOfGlen (q.toNat / 4) with
      | some p => if u.partInReset p then (u.quad q.toNat).gov else u.startPoint p
      | none => (u.quad q.toNat).gov
    u.modQuad q.toNat (fun x => { x with scrubPass := false, gov := v }))

/-- R189, R410: the reload of a resident block whose golden copy reads without error writes it back and clears its reloading
mark; a golden copy that does not is lost with ST_POISONED. -/
def weightReload : Prop := ∀ (t : Byte) (b : BitVec 10) (m pa key : Nat) (s : State),
  (s.tile t.toNat).reload.contains b.toNat = true →
  s.tileOff t.toNat = false → (s.quad (quadOf t.toNat)).scrubPass = false →
  ((s.tile t.toNat).inReset = true → (s.quad (quadOf t.toNat)).retLost = true) →
  s.goldenOf t.toNat b.toNat = some (m, pa, key) →
  exec (.weightReload t b) s = .next (
    let r := s.hbmRead pa 32768 key
    let u := r.st.modTile t.toNat (fun x => { x with reload := x.reload.erase b.toNat })
    if r.bad then (u.modTile t.toNat (fun x => { x with lostGold := insertNat x.lostGold b.toNat })).reloaded
      t.toNat b.toNat m .poisoned
    else (u.spWrite t.toNat (b.toNat * 32768) r.bytes false).reloaded t.toNat b.toNat m .ok)

/-- R328, R331, R332, R335: the patrol of an available stack reads one unit of a pseudo-channel and corrects it; a unit that is the
next of the pass advances it, and the last one ends it and says so in the stack's status. -/
def hbmPatrol : Prop := ∀ (k : BitVec 4) (c : BitVec 5) (unit : BitVec 24) (us : List Upset) (s : State),
  unit.toNat < stackSize / 64 / 32 → (s.stack k.toNat).available = true →
  exec (.hbmPatrol k c unit us) s = .next (
    let n := (unit.toNat / 4 * 32 + c.toNat) * 4 + unit.toNat % 4
    let u := ((s.strikeHbm us).hbmUnit ((hbmBase + k.toNat * stackSize) / 64 + n) true).2
    u.modStack k.toNat (fun x =>
      if n ≠ x.patrolAt then x
      else if n + 1 = stackSize / 64 then { x with patrolAt := 0, patrolDone := true }
      else { x with patrolAt := n + 1 }))

/-- R334: a stack that becomes unavailable says so in its status and in an event; HBM_DOUBLED_REFRESH sets its temperature and its
hot bit, above 95 °C. -/
def hbmStacks : Prop := ∀ (k : BitVec 4) (temp : Byte) (s : State),
  ((s.stack k.toNat).available = true → exec (.hbmStackUnavailable k) s = .next
    ((s.modStack k.toNat (fun x => { x with available := false })).raise (evUnit 3 k.toNat 0x06 1 [(24, 1, 1)]))) ∧
  exec (.hbmDoubledRefresh k temp) s = .next
    (s.modStack k.toNat (fun x => { x with temp := temp.toNat, hot := decide (95 < temp.toNat) }))

/-! ### Ohmist ports (R367 to R372, R377) -/

/-- A valid flit of a kind at a port that is up: 256 bytes, its error correction and CRC good (R368). -/
def goodFlit (s : State) (p : Nat) (bs : List Byte) (kind : Nat) : Prop :=
  (s.ohm p).up = true ∧ bs.length = 256 ∧ crc32 (bs.take 252) = leAt bs 252 4 ∧ (flitHdr bs).kind = kind

/-- The package after a valid flit at a port, with the symbols that error correction mended counted. -/
def received (s : State) (p mended : Nat) : State :=
  (s.countPort p 10 mended).modOhm p (fun x => { x with lastValid := (s.countPort p 10 mended).clk.wall })

/-- R368, R369, R371: a good data flit with the expected number is taken, with its credits and acknowledgements, and the next is expected; while a resend is awaited any
other is discarded; else a retry request for the expected one goes out. -/
def dataFlit : Prop := ∀ (p : BitVec 4) (mended : Nat) (bs : List Byte) (s : State), goodFlit s p.toNat bs 0 →
  exec (.dataFlit p (some mended) bs) s = .next (
    let u := received s p.toNat mended
    let x := u.ohm p.toNat
    if (flitHdr bs).seq = x.rxSeq then (u.flitTaken p.toNat (flitHdr bs)).modOhm p.toNat (fun x => { x with rxSeq := (x.rxSeq + 1) % 4096, awaiting := false })
    else if x.awaiting then u
    else
      let v := (u.modOhm p.toNat (fun x => { x with awaiting := true })).countPort p.toNat 13 1
      if v.live then { v with links := { v.links with out := v.links.out ++ [.retryReq p.toNat x.rxSeq] } } else v)

/-- R369, R370: a retry request has the flits from the one it names sent again; requests in a row for one flit are counted. -/
def retryRequest : Prop := ∀ (p : BitVec 4) (mended : Nat) (bs : List Byte) (s : State), goodFlit s p.toNat bs 2 →
  exec (.retryRequest p (some mended) bs) s = .next (
    let u := ((received s p.toNat mended).flitTaken p.toNat (flitHdr bs)).modOhm p.toNat (fun x => { x with
      nakSeq := (flitHdr bs).ack
      nakCount := if x.nakCount ≠ 0 && x.nakSeq = (flitHdr bs).ack then x.nakCount + 1 else 1 })
    if u.live then { u with links := { u.links with out := u.links.out ++ [.resend p.toNat (flitHdr bs).ack] } } else u)

/-- R368, R371: idle and training flits bring credits and acknowledgements, with which what waits at the port goes on. -/
def idleFlit : Prop := ∀ (p : BitVec 4) (mended : Nat) (bs : List Byte) (s : State),
  (goodFlit s p.toNat bs 1 → exec (.idleFlit p (some mended) bs) s =
    .next ((received s p.toNat mended).flitTaken p.toNat (flitHdr bs))) ∧
  (goodFlit s p.toNat bs 3 → exec (.trainingControl p (some mended) bs) s =
    .next ((received s p.toNat mended).flitTaken p.toNat (flitHdr bs)))

/-- R368, R369: a flit that error correction or its CRC finds bad is counted and discarded; a retry request goes out unless one is
awaited. -/
def badFlits : Prop := ∀ (p : BitVec 4) (fec : Option Nat) (bs : List Byte) (s : State), (s.ohm p.toNat).up = true →
  bs.length = 256 → (fec = none ∨ crc32 (bs.take 252) ≠ leAt bs 252 4) →
  ∀ c ∈ [Instr.dataFlit p fec bs, .retryRequest p fec bs, .idleFlit p fec bs, .trainingControl p fec bs],
    exec c s = .next ((s.countPort p.toNat 10 (fec.getD 0)).badFlit p.toNat fec.isSome bs)

/-- R367: a cabled port that is down, its retry time come, trains: with lanes it comes up with fresh counters and all credits,
reports and tells the other packages; without it tries again 100 ms later. -/
def linkTraining : Prop := ∀ (p : BitVec 4) (low high : Bool) (s : State), s.boot.inReset = false → s.live = true →
  let x := s.ohm p.toNat
  x.cabled = true → x.up = false → x.disabled = false → x.nextTry ≤ s.clk.wall →
  ((low || high) = true → exec (.linkTraining p low high) s = .next (
    let lanes := if low && high then 8 else 4
    let y : Port := { Port.reset with
      cabled := true, up := true, degraded := decide (lanes = 4), lanes := lanes, retrains := min (x.retrains + 1) 255
      lastValid := s.clk.wall }
    ((s.modOhm p.toNat (fun _ => y)).raise (evUnit 5 p.toNat 0x1A 2 [(24, 1, lanes)])).send (.linkState p.toNat true))) ∧
  ((low || high) = false → exec (.linkTraining p low high) s =
    .next (s.modOhm p.toNat (fun x => { x with nextTry := s.clk.wall + 100000000 })))

/-- R370: a port goes down after 8 retry requests in a row for one flit, or 4 us without a valid flit; else nothing happens. -/
def linkDown : Prop := ∀ (p : BitVec 4) (s : State),
  (8 ≤ (s.ohm p.toNat).nakCount → exec (.linkDown p) s = .next (s.portDown p.toNat 1)) ∧
  ((s.ohm p.toNat).nakCount < 8 → (s.ohm p.toNat).lastValid + 4000 ≤ s.clk.wall →
    exec (.linkDown p) s = .next (s.portDown p.toNat 0)) ∧
  ((s.ohm p.toNat).nakCount < 8 → s.clk.wall < (s.ohm p.toNat).lastValid + 4000 → exec (.linkDown p) s = .next s)

/-- R377, R406: accepted notices: a link down is added to those known, a link up taken from them; a generation is noted for the
job and the node. -/
def notices : Prop := ∀ (m : MgmtHdr) (p : BitVec 4) (up : Bool) (job : W16) (part : BitVec 4) (gen : Byte) (s : State),
  (s.mgmtOk m true = true → exec (.linkStateNotice m p up) s = .next (
    let l := s.links.downLinks.filter (fun e => e ≠ (m.node.toNat, p.toNat))
    { s with links := { s.links with downLinks := if up then l else l ++ [(m.node.toNat, p.toNat)] } })) ∧
  (s.mgmtOk m false = true → exec (.generationNotice m job part gen) s = .next { s with links :=
    { s.links with peerGen := NMap.put s.links.peerGen (job.toNat * 16384 + m.node.toNat) gen.toNat } })

/-- R382, R448: a management packet whose tag does not verify is dropped and counted, whatever it says. -/
def mgmtRefused : Prop := ∀ (m : MgmtHdr) (p : BitVec 4) (up : Bool) (job ident : W16) (part : BitVec 4) (gen ctx : Byte)
  (e : W16) (commit broken : Bool) (count : BitVec 7) (slot : BitVec 10) (a b c : W64) (s : State), m.tagOk = false →
  ∀ i ∈ [Instr.linkStateNotice m p up, .generationNotice m job part gen, .epochToken m ctx e commit count,
    .epochTokenAcknowledgement m slot, .barrierArrivalForward m job ident gen, .barrierCompletion m job ident broken,
    .timeExchangeReply m a b c, .timeExchangeAtParent m a b, .timeAheadNotice m a], exec i s = .next (s.mgmtDrop m)

/-! ### Packets and flows (R259, R373 to R380, R407, R408) -/

/-- R373, R375, R378: a transfer to another package that has a key, a frame and a flow with room sends its next elements in one
packet by the port of the route. -/
def packetInject : Prop := ∀ (t : Byte) (queue : BitVec 2) (n : W16) (q : Xfer) (k : JobKey) (p : Nat) (s : State),
  (s.tile t.toNat).headX queue.toNat = some q → q.packetPart n.toNat ≠ [] → s.live = true →
  ((s.tile t.toNat).ctx.bind s.jobOf).bind s.jobKey = some k →
  let f := s.sflow t.toNat q.node
  let r := s.flowRoute f k.job
  let pk := s.packetOf t.toNat q (q.packetPart n.toNat) f k r.1 r.2.1
  NMap.get 0 s.links.frames (frameKey k.job k.sendId t.toNat) + 1 < 2 ^ 64 → f.unsettled.length < 32 →
  q.node ≠ s.links.inst.node → r.2.2 = some p → s.portTakes p pk true = true →
  exec (.packetInject t queue n) s = .next (s.sendPacket t.toNat q (q.packetPart n.toNat) f pk (some p))

/-- R377: a packet for another node goes on unchanged by its next port when that takes it; a request whose next port is closed is
answered ST_TARGET_OFF, any other packet is dropped. Its credits go back to the port it came by. -/
def transitForward : Prop := ∀ (p : BitVec 4) (pk : Packet) (s : State), pk.dstNode.toNat ≠ s.links.inst.node →
  (s.ohm p.toNat).up = true → s.live = true → s.boot.inReset = false →
  let next := (s.nextPort pk.srcTile.toNat pk.dstNode.toNat (if pk.isRequest then 0 else 1) pk.xdir pk.ydir).filter s.portOpen
  let u := (s.countPort p.toNat 9 pk.payload.length).freeFlits p.toNat 2 pk
  (∀ q, next = some q → s.portTakes q pk (decide (10 ≤ q) && decide (p.toNat < 10)) = true →
    exec (.transitForward p pk) s = .next (u.emit (some q) pk false)) ∧
  (next = none → exec (.transitForward p pk) s = .next (if pk.isRequest then u.answerTo pk 5 .targetOff else u))

/-- The package after a packet for it at a port: counted, its credits given back. -/
def arrived (s : State) (p : Nat) (pk : Packet) : State := (s.countPort p 4 pk.payload.length).freeFlits p 0 pk

/-- The occasion on which a request packet of a kind is received at a port and passes the checks 1 to 4 of R380: it is for this
package, in time and authentic, its job has a context here, whose partition accepts it. -/
def requestFor (s : State) (p : Nat) (pk : Packet) (kind c : Nat) : Prop :=
  pk.ptype.toNat = kind ∧ pk.dstNode.toNat = s.links.inst.node ∧ p < 12 ∧ (s.ohm p).up = true ∧ s.live = true ∧
  s.boot.inReset = false ∧ (arrived s p pk).tooOld pk = false ∧ (arrived s p pk).authentic pk = true ∧
  (arrived s p pk).ctxOfJob pk.job.toNat = some c ∧ (arrived s p pk).partRefuses c pk.tgen.toNat = none

/-- The flow of a request packet as this package knows it. -/
def knownFlow (s : State) (pk : Packet) : Option Flow :=
  s.links.flows.find? (fun f => f.node = pk.srcNode.toNat && f.tile = pk.srcTile.toNat && f.cls = 0)

/-- R378, R380: a request of any kind in a known flow, not opening it anew, is checked and applied in that flow, unless it has to
wait. -/
def requests : Prop := ∀ (p : BitVec 4) (pk : Packet) (c : Nat) (f : Flow) (s t : State),
  knownFlow (arrived s p.toNat pk) pk = some f → pk.opened = false →
  (arrived s p.toNat pk).rxFlow p.toNat c pk f = some t →
  (requestFor s p.toNat pk 0 c → exec (.write p pk) s = .next t) ∧
  (requestFor s p.toNat pk 1 c → exec (.int32Add p pk) s = .next t) ∧
  (requestFor s p.toNat pk 2 c → exec (.int64Add p pk) s = .next t) ∧
  (requestFor s p.toNat pk 3 c → exec (.fp32Add p pk) s = .next t)

/-- R378, R380: a request that opens a flow this package does not know starts it at the packet's serial; with every flow entry
in use it is answered retry later. -/
def requestOpens : Prop := ∀ (p : BitVec 4) (pk : Packet) (c : Nat) (s : State), knownFlow (arrived s p.toNat pk) pk = none →
  pk.opened = true → requestFor s p.toNat pk 0 c →
  let u := arrived s p.toNat pk
  let f : Flow := { node := pk.srcNode.toNat, tile := pk.srcTile.toNat, cls := 0, expected := pk.serial.toNat, statuses := [],
                    last := u.clk.now }
  (16384 ≤ u.links.flows.length → exec (.write p pk) s = .next (u.answerTo pk 6 .ok)) ∧
  (∀ t, u.links.flows.length < 16384 → u.rxFlow p.toNat c pk f = some t → exec (.write p pk) s = .next t)

/-- R378, R380: in its flow a packet with the expected serial that passes the checks is applied and acknowledged, its status kept
and the next serial expected; one with an earlier serial is answered with the status kept for it and not applied again; one
with a later serial does nothing. -/
def flowOrder : Prop := ∀ (p c : Nat) (pk : Packet) (f : Flow) (s : State), f.expected < 65536 →
  let g := { f with last := s.clk.now }
  let d := (pk.serial.toNat + 65536 - f.expected) % 65536
  (d = 0 → ∀ st t, s.rxCheck c pk = .done st t → s.rxFlow p c pk f = some ((t.putRx (g.pass st)).answerSt pk st)) ∧
  (32768 ≤ d → ∀ e, f.statuses.find? (fun e => e.1 = pk.serial.toNat) = some e →
    s.rxFlow p c pk f = some ((s.putRx g).answerSt pk e.2)) ∧
  (d ≠ 0 → d < 32768 → s.rxFlow p c pk f = some (s.putRx g))

/-- The package after an answer at the port of its flow: its credits given back. -/
def answerAt (s : State) (pk : Packet) : State :=
  s.freeFlits ((s.sflow pk.srcTile.toNat pk.srcNode.toNat).port.getD 12) 1 pk

/-- The occasion on which an answer of a kind to a packet of a flow is received (R380, R408). -/
def answerFor (s : State) (pk : Packet) (kind : Nat) : Prop :=
  pk.ptype.toNat = kind ∧ pk.dstNode.toNat = s.links.inst.node ∧ s.live = true ∧ s.boot.inReset = false ∧
  (answerAt s pk).tooOld pk = false ∧ (pk.srcNode = pk.dstNode ∨ (answerAt s pk).authentic pk = true) ∧
  (answerAt s pk).genFor pk.job.toNat s.links.inst.node = pk.tgen.toNat ∧
  (s.sflow pk.srcTile.toNat pk.srcNode.toNat).unsettled.any (fun p => p.serial.toNat = bits pk.dstVa.toNat 48 16) = true

/-- R378 to R380: an acknowledgement or a refusal settles its packet with its status; a retry-later answer starts the timer. -/
def answers : Prop := ∀ (pk : Packet) (st : Status) (s : State),
  let f := s.sflow pk.srcTile.toNat pk.srcNode.toNat
  let serial := bits pk.dstVa.toNat 48 16
  (answerFor s pk 4 → Status.ofCode (bits pk.dstVa.toNat 40 8) = some st →
    exec (.acknowledgement pk) s = .next ((answerAt s pk).settleFlow f serial st)) ∧
  (answerFor s pk 5 → Status.ofCode (bits pk.dstVa.toNat 40 8) = some st →
    exec (.refusal pk) s = .next ((answerAt s pk).settleFlow f serial st)) ∧
  (answerFor s pk 6 → exec (.retryLater pk) s = .next ((answerAt s pk).putFlow { f with laterAt := some (answerAt s pk).clk.now }))

/-- R378, R379: 10 us after a retry-later answer, and 50 us after the oldest unsettled packet was sent, the unsettled packets of the
flow go out again, the second time marked resent; a flow whose port is lost takes a new one at once. -/
def resends : Prop := ∀ (t : Byte) (node : BitVec 14) (a : Nat) (pk : Packet) (s : State),
  let f := s.sflow t.toNat node.toNat
  let r := s.flowRoute f pk.job.toNat
  f.unsettled.head? = some pk →
  (f.laterAt = some a → a + 10000 ≤ s.clk.now →
    exec (.retryLaterTimer t node) s = .next (s.resend f r.2.2 (r.1, r.2.1) false)) ∧
  (s.portLost f = false → f.sentAt + 50000 ≤ s.clk.now →
    exec (.resendTimeout t node) s = .next (s.resend f f.port (r.1, r.2.1) true)) ∧
  (s.portLost f = true → exec (.resendTimeout t node) s = .next (s.moveFlow f))

/-- R378: a flow is forgotten 1 ms after its last packet at the receiver, and after its last acknowledgement at the sender, which
keeps one with a packet unsettled; every other flow stays. -/
def flowForget : Prop := ∀ (t : Byte) (node : BitVec 14) (cls : BitVec 1) (s : State),
  exec (.flowForget false t node cls) s = .next { s with links := { s.links with
    flows := s.links.flows.filter (fun f => !(f.tile = t.toNat && f.node = node.toNat && f.cls = cls.toNat &&
      decide (f.last + 1000000 ≤ s.clk.now))) } } ∧
  exec (.flowForget true t node cls) s = .next { s with links := { s.links with
    sflows := s.links.sflows.filter (fun f => !(f.tile = t.toNat && f.node = node.toNat && f.cls = cls.toNat &&
      f.unsettled.isEmpty && decide (f.lastAck + 1000000 ≤ s.clk.now))) } }

/-! ### Barriers between packages and the common count (R33 to R36, R322, R323, R387) -/

/-- R322: a forwarded arrival for a job this package carries counts at the home, when the sender's generation is its own; else
it breaks the barrier. -/
def barrierArrivalForward : Prop := ∀ (m : MgmtHdr) (job ident : W16) (gen : Byte) (c : Nat) (s : State),
  s.mgmtOk m false = true → s.ctxOfJob job.toNat = some c →
  exec (.barrierArrivalForward m job ident gen) s = .next (
    if s.partRefuses c gen.toNat = none then s.countArrival c ident.toNat else s.breakBarrier c ident.toNat)

/-- R322, R323: a completion from the home advances the phase of the barrier here by one and decides the waits it
releases, or breaks it. -/
def barrierCompletion : Prop := ∀ (m : MgmtHdr) (job ident : W16) (c : Nat) (b : Barrier) (s : State),
  s.mgmtOk m false = true → s.ctxOfJob job.toNat = some c →
  NMap.get? s.barriers (objKey c ident.toNat) = some b → s.isHome b = false → b.broken = false →
  exec (.barrierCompletion m job ident false) s = .next (State.decideWaits { s with
    barriers := NMap.put s.barriers (objKey c ident.toNat) { b with phase := (b.phase + 1) % 2 ^ 32, lastSent := none } } c) ∧
  exec (.barrierCompletion m job ident true) s = .next (s.breakBarrier c ident.toNat)

/-- R323: 10 ms after an arrival forwarded to the home without a completion, the barrier breaks. -/
def barrierTimeout : Prop := ∀ (ctx : Byte) (ident : W16) (b : Barrier) (a : Nat) (s : State),
  NMap.get? s.barriers (objKey ctx.toNat ident.toNat) = some b → b.lastSent = some a → a + 10000000 ≤ s.clk.now →
  exec (.barrierTimeout ctx ident) s = .next (s.breakBarrier ctx.toNat ident.toNat)

/-- R33, R387: a package that is not its own master asks its parent for the time every millisecond, the alternate after an odd
number of requests unanswered; three unanswered lose synchronisation. -/
def timeExchange : Prop := ∀ (s : State), s.clk.master = false → s.boot.inReset = false → s.live = true →
  ((s.clk.t1 = none ∧ s.clk.lastEx = 0) ∨ s.clk.t1.getD s.clk.lastEx + 1000000 ≤ s.clk.now) →
  exec .timeExchange s = .next (
    let missed := if s.clk.t1.isSome then s.clk.missed + 1 else s.clk.missed
    let port := if missed % 2 = 1 ∧ s.links.inst.alternate ≠ 0xFF then s.links.inst.alternate else s.links.inst.parent
    let u : State := { s with clk := { s.clk with t1 := some s.clk.now, missed := missed } }
    (if 3 ≤ missed then u.loseSync else u).send (.timeRequest port s.clk.now))

/-- R33, R34: the reply aligns the count by half the difference of the two ways; more than 1 ms off loses synchronisation, and
a count that much ahead is told to the master. -/
def timeExchangeReply : Prop := ∀ (m : MgmtHdr) (t1 : Nat) (t2 t3 t4 : W64) (s : State), s.mgmtOk m true = true →
  s.clk.t1 = some t1 →
  exec (.timeExchangeReply m t2 t3 t4) s = .next (
    let off : Int := (((t2.toNat : Int) - t1) + ((t3.toNat : Int) - t4.toNat)) / 2
    let u : State := { s with clk := s.clk.align off }
    let u := if 1000000 < off.natAbs then u.loseSync else u
    if off < -1000000 then u.send (.timeAhead u.clk.now) else u)

/-- R33: a package that is the master or synchronised answers a time request with its count. -/
def timeExchangeAtParent : Prop := ∀ (m : MgmtHdr) (t1 t2 : W64) (s : State), s.mgmtOk m true = true →
  (s.clk.master = true ∨ s.clk.synced = true) →
  exec (.timeExchangeAtParent m t1 t2) s = .next (s.send (.timeReply m.via.toNat t1.toNat t2.toNat s.clk.now))

/-- R34: a master told of a count ahead of its own steps to 1 ms beyond it. -/
def timeAheadNotice : Prop := ∀ (m : MgmtHdr) (n : W64) (s : State), s.mgmtOk m false = true → s.clk.master = true →
  s.clk.now < n.toNat →
  exec (.timeAheadNotice m n) s = .next { s with clk := s.clk.step (n.toNat + 1000000 - s.clk.now) }

/-- R35: a check-peer exchange within 250 ns clears the count of bad ones; the second in a row beyond it is reported. -/
def checkPeerExchange : Prop := ∀ (off : Int) (s : State),
  (off.natAbs ≤ 250 → exec (.checkPeerExchange off) s = .next { s with clk := { s.clk with peerBad := 0 } }) ∧
  (250 < off.natAbs → s.clk.peerBad = 0 →
    exec (.checkPeerExchange off) s = .next { s with clk := { s.clk with peerBad := 1 } }) ∧
  (250 < off.natAbs → s.clk.peerBad ≠ 0 → exec (.checkPeerExchange off) s =
    .next (State.raise { s with clk := { s.clk with peerBad := 0 } }
      (evUnit 8 0 0x17 1 [(24, 2, s.links.inst.checkPeer), (32, 8, wrap 64 off)])))

/-! ### Tile cores: scalar instructions (R141, R144 to R154, R163 to R173) -/

/-- The result of an instruction in a register of the core, and its commit (R157, R168): at once, or pending where `late`. -/
def given (s : State) (t : Nat) (late : Bool) (d : Dst) (v : Nat) : State :=
  (s.modCore t (fun c => c.result late [] d v)).commit t 4 none

/-- R157, R170: a running core that is not ahead of a branch commits an instruction by moving its pc and its count of commits, and
nothing else changes. -/
def commits : Prop := ∀ (s : State) (t len : Nat) (taken : Option Nat), s.plain t = true → (s.tile t).core.run = .running →
  s.commit t len taken = s.modCore t (fun c => { c with pc := taken.getD (c.pc + len), commits := c.commits + 1 })

/-- R147, R148: ALU with a listed fn and ready sources. -/
def alu : Prop := ∀ (t : Byte) (late : Bool) (rd ra rb rc fn : BitVec 5) (s : State),
  s.stands t.toNat (wordRR 0x01 rd ra rb rc fn) = true →
  let c := (s.tile t.toNat).core
  (fn.toNat < 18 → rc = 0 → c.waits [.g ra.toNat, .g rb.toNat] = false →
    exec (.alu t late rd ra rb rc fn) s = .next (given s t.toNat late (.g rd.toNat)
      (aluVal fn.toNat (c.rg ra.toNat) (c.rg rb.toNat) (c.rp rc.toNat)))) ∧
  (fn = 18 → rc.toNat < 8 → c.waits [.g ra.toNat, .g rb.toNat, .p rc.toNat] = false →
    exec (.alu t late rd ra rb rc fn) s = .next (given s t.toNat late (.g rd.toNat)
      (if c.rp rc.toNat then c.rg ra.toNat else c.rg rb.toNat))) ∧
  (18 < fn.toNat → exec (.alu t late rd ra rb rc fn) s = .next (s.exceptAt t.toNat 3 (wordRR 0x01 rd ra rb rc fn)))

/-- R147: the instructions of one source and an immediate: ADDI adds its sign-extended immediate modulo 2^64, ANDI, ORI and
XORI take it zero-extended. -/
def immediates : Prop := ∀ (t : Byte) (late : Bool) (rd ra : BitVec 5) (imm : BitVec 15) (s : State),
  let c := (s.tile t.toNat).core
  c.waits [.g ra.toNat] = false →
  (s.stands t.toNat (wordRI 0x02 rd ra imm) = true → exec (.addi t late rd ra imm) s = .next (given s t.toNat late (.g rd.toNat)
    (wrap 64 ((c.rg ra.toNat : Int) + sgn 15 imm.toNat)))) ∧
  (s.stands t.toNat (wordRI 0x03 rd ra imm) = true → exec (.andi t late rd ra imm) s = .next (given s t.toNat late (.g rd.toNat)
    (c.rg ra.toNat &&& imm.toNat))) ∧
  (s.stands t.toNat (wordRI 0x04 rd ra imm) = true → exec (.ori t late rd ra imm) s = .next (given s t.toNat late (.g rd.toNat)
    (c.rg ra.toNat ||| imm.toNat))) ∧
  (s.stands t.toNat (wordRI 0x05 rd ra imm) = true → exec (.xori t late rd ra imm) s = .next (given s t.toNat late (.g rd.toNat)
    (c.rg ra.toNat ^^^ imm.toNat)))

/-- R147: SHI shifts by its low six bits, left, right or right with the sign; any other immediate is illegal. -/
def shi : Prop := ∀ (t : Byte) (late : Bool) (rd ra : BitVec 5) (imm : BitVec 15) (s : State),
  s.stands t.toNat (wordRI 0x06 rd ra imm) = true →
  let c := (s.tile t.toNat).core
  let a := c.rg ra.toNat
  let n := imm.toNat % 64
  (c.waits [.g ra.toNat] = false → imm.toNat < 64 →
    exec (.shi t late rd ra imm) s = .next (given s t.toNat late (.g rd.toNat) (a * 2 ^ n % 2 ^ 64))) ∧
  (c.waits [.g ra.toNat] = false → 64 ≤ imm.toNat → imm.toNat < 128 → a < 2 ^ 64 →
    exec (.shi t late rd ra imm) s = .next (given s t.toNat late (.g rd.toNat) (a / 2 ^ n))) ∧
  (c.waits [.g ra.toNat] = false → 128 ≤ imm.toNat → imm.toNat < 192 → a < 2 ^ 64 →
    exec (.shi t late rd ra imm) s = .next (given s t.toNat late (.g rd.toNat) (wrap 64 (sgn 64 a / (2 ^ n : Nat))))) ∧
  (192 ≤ imm.toNat → exec (.shi t late rd ra imm) s = .next (s.exceptAt t.toNat 3 (wordRI 0x06 rd ra imm)))

/-- R147: LI writes its sign-extended immediate; LIS shifts its register left by 20 and puts the immediate below. -/
def loadImmediates : Prop := ∀ (t : Byte) (late : Bool) (rd : BitVec 5) (imm : BitVec 20) (s : State),
  let c := (s.tile t.toNat).core
  (s.stands t.toNat (wordLI 0x07 rd imm) = true →
    exec (.li t late rd imm) s = .next (given s t.toNat late (.g rd.toNat) (wrap 64 (sgn 20 imm.toNat)))) ∧
  (s.stands t.toNat (wordLI 0x08 rd imm) = true → c.waits [.g rd.toNat] = false →
    exec (.lis t late rd imm) s = .next (given s t.toNat late (.g rd.toNat)
      ((c.rg rd.toNat * 2 ^ 20 ||| imm.toNat) % 2 ^ 64)))

/-- R147, R149, R187: LD and LDF of an aligned range of the scratchpad whose cells read without error: the value, zero- or
sign-extended by sz, or converted from bf16. -/
def loads : Prop := ∀ (t : Byte) (late : Bool) (rd ra : BitVec 5) (imm : BitVec 12) (sz : BitVec 3) (us : List Upset) (s : State),
  let u := s.modTile t.toNat (fun x => x.strike us)
  let c := (u.tile t.toNat).core
  let a := effAddr c ra.toNat imm.toNat
  c.waits [.g ra.toNat] = false →
  (∀ n, n = [1, 2, 4, 8, 1, 2, 4].getD sz.toNat 1 → u.stands t.toNat (wordM 0x10 rd ra imm sz) = true → sz.toNat < 7 →
    (u.tile t.toNat).accessExc a n false = none → (u.load t.toNat a n).2.1 = false →
    exec (.ld t late rd ra imm sz us) s = .next (given (u.load t.toNat a n).2.2 t.toNat late (.g rd.toNat)
      (let v := leVal (u.load t.toNat a n).1
       if sz.toNat ≥ 4 then wrap 64 (sgn ([8, 16, 32].getD (sz.toNat - 4) 8) v) else v))) ∧
  (u.stands t.toNat (wordM 0x12 rd ra imm sz) = true → sz.toNat = 0 → rd.toNat < 16 →
    (u.tile t.toNat).accessExc a 4 false = none → (u.load t.toNat a 4).2.1 = false →
    exec (.ldf t late rd ra imm sz us) s =
      .next (given (u.load t.toNat a 4).2.2 t.toNat late (.f rd.toNat) (leVal (u.load t.toNat a 4).1))) ∧
  (u.stands t.toNat (wordM 0x12 rd ra imm sz) = true → sz.toNat = 1 → rd.toNat < 16 →
    (u.tile t.toNat).accessExc a 2 false = none → (u.load t.toNat a 2).2.1 = false →
    exec (.ldf t late rd ra imm sz us) s = .next (given (u.load t.toNat a 2).2.2 t.toNat late (.f rd.toNat)
      (let v := leVal (u.load t.toNat a 2).1
       if isNan (bfTo32 v) then nan32 else bfTo32 v)))

/-- R149, R166, R187: the exceptions of LD, in order: not aligned, outside the scratchpad, uncorrectable. -/
def loadFaults : Prop := ∀ (t : Byte) (late : Bool) (rd ra : BitVec 5) (imm : BitVec 12) (sz : BitVec 3) (us : List Upset) (s : State),
  let u := s.modTile t.toNat (fun x => x.strike us)
  let c := (u.tile t.toNat).core
  let a := effAddr c ra.toNat imm.toNat
  let n := [1, 2, 4, 8, 1, 2, 4].getD sz.toNat 1
  u.stands t.toNat (wordM 0x10 rd ra imm sz) = true → sz.toNat < 7 → c.waits [.g ra.toNat] = false →
  (a % n ≠ 0 → exec (.ld t late rd ra imm sz us) s = .next (u.exceptAt t.toNat 6 a)) ∧
  (a % n = 0 → inSp a n = false → exec (.ld t late rd ra imm sz us) s = .next (u.exceptAt t.toNat 7 a)) ∧
  (a % n = 0 → inSp a n = true → (u.load t.toNat a n).2.1 = true →
    exec (.ld t late rd ra imm sz us) s = .next (u.exceptAt t.toNat 8 a))

/-- R147, R149, R192: ST and STF into an aligned range of the scratchpad outside resident blocks store the low bytes of the
register, or its value rounded to bf16. -/
def stores : Prop := ∀ (t : Byte) (rd ra : BitVec 5) (imm : BitVec 12) (sz : BitVec 3) (us : List Upset) (s : State),
  let u := s.modTile t.toNat (fun x => x.strike us)
  let c := (u.tile t.toNat).core
  let a := effAddr c ra.toNat imm.toNat
  c.ahead = false →
  (u.stands t.toNat (wordM 0x11 rd ra imm sz) = true → sz.toNat < 4 → c.waits [.g ra.toNat, .g rd.toNat] = false →
    (u.tile t.toNat).accessExc a (2 ^ sz.toNat) true = none →
    exec (.st t rd ra imm sz us) s = .next ((u.storeNow t.toNat a (2 ^ sz.toNat) (c.rg rd.toNat)).commit t.toNat 4 none)) ∧
  (u.stands t.toNat (wordM 0x13 rd ra imm sz) = true → sz.toNat = 0 → rd.toNat < 16 →
    c.waits [.g ra.toNat, .f rd.toNat] = false → (u.tile t.toNat).accessExc a 4 true = none →
    exec (.stf t rd ra imm sz us) s = .next ((u.storeNow t.toNat a 4 (c.rf rd.toNat)).commit t.toNat 4 none)) ∧
  (u.stands t.toNat (wordM 0x13 rd ra imm sz) = true → sz.toNat = 1 → rd.toNat < 16 →
    c.waits [.g ra.toNat, .f rd.toNat] = false → (u.tile t.toNat).accessExc a 2 true = none →
    exec (.stf t rd ra imm sz us) s = .next ((State.stick (u.storeNow t.toNat a 2 (toBf16 (c.rf rd.toNat) .nearest noRnd).1)
      t.toNat (toBf16 (c.rf rd.toNat) .nearest noRnd).2.1).commit t.toNat 4 none))

/-- R147, R168: CMP, CMPI and PLOG give a predicate of operands that may still be pending. -/
def compares : Prop := ∀ (t : Byte) (late : Bool) (rd ra rb rc fn : BitVec 5) (imm : BitVec 15) (s : State),
  let c := (s.tile t.toNat).core
  let pred := fun (ops : List Dst) (d : Nat) (v : Bool) => (s.modCore t.toNat (fun k =>
    k.result late (ops.filter c.isPending) (.p d) (if v then 1 else 0))).commit t.toNat 4 none
  (s.stands t.toNat (wordRR 0x18 rd ra rb rc fn) = true → fn.toNat ≤ 5 → rd.toNat < 8 → rc = 0 →
    exec (.cmp t late rd ra rb rc fn) s = .next (pred [.g ra.toNat, .g rb.toNat] rd.toNat
      (cmpVal fn.toNat (c.peek (.g ra.toNat)) (c.peek (.g rb.toNat))))) ∧
  (s.stands t.toNat (wordRI 0x19 rd ra imm) = true →
    exec (.cmpi t late rd ra imm) s = .next (pred [.g ra.toNat] (rd.toNat % 8)
      (cmpVal (rd.toNat / 8) (c.peek (.g ra.toNat)) (wrap 64 (sgn 15 imm.toNat))))) ∧
  (s.stands t.toNat (wordRR 0x1A rd ra rb rc fn) = true → fn.toNat ≤ 4 → rd.toNat < 8 → ra.toNat < 8 → rb.toNat < 8 →
    rc = 0 → (fn = 4 → rb = 0) →
    exec (.plog t late rd ra rb rc fn) s = .next (pred [.p ra.toNat, .p rb.toNat] rd.toNat
      (plogVal fn.toNat (decide (c.peek (.p ra.toNat) = 1)) (decide (c.peek (.p rb.toNat) = 1)))))

/-- R146, R147: BR and CALL on a predicate that is there: taken, to the pc plus four times the displacement, when the predicate,
negated if asked, holds; CALL then writes the address after it to g31. -/
def branches : Prop := ∀ (t : Byte) (pred : BitVec 3) (neg hint : Bool) (disp : BitVec 20) (s : State),
  let c := (s.tile t.toNat).core
  let target := wrap 32 ((c.pc : Int) + 4 * sgn 20 disp.toNat)
  c.isPending (.p pred.toNat) = false →
  (s.stands t.toNat (wordB 0x20 pred neg hint disp) = true → c.rp pred.toNat = !neg →
    exec (.br t pred neg hint disp) s = .next (s.commit t.toNat 4 (some target))) ∧
  (s.stands t.toNat (wordB 0x20 pred neg hint disp) = true → c.rp pred.toNat = neg →
    exec (.br t pred neg hint disp) s = .next (s.commit t.toNat 4 none)) ∧
  (s.stands t.toNat (wordB 0x21 pred neg hint disp) = true → c.rp pred.toNat = !neg →
    exec (.call t pred neg hint disp) s =
      .next ((s.modCore t.toNat (fun k => k.result false [] (.g 31) (c.pc + 4))).commit t.toNat 4 (some target))) ∧
  (s.stands t.toNat (wordB 0x21 pred neg hint disp) = true → c.rp pred.toNat = neg →
    exec (.call t pred neg hint disp) s = .next (s.commit t.toNat 4 none))

/-- R147, R166: JR goes to its register's value; one that is not a multiple of 4 is a FETCH_FAULT. -/
def jr : Prop := ∀ (t : Byte) (ra : BitVec 5) (s : State), s.stands t.toNat (wordRR 0x22 0 ra 0 0 0) = true →
  let c := (s.tile t.toNat).core
  c.waits [.g ra.toNat] = false →
  (c.rg ra.toNat % 4 = 0 → exec (.jr t 0 ra 0 0 0) s = .next (s.commit t.toNat 4 (some (c.rg ra.toNat % 2 ^ 32)))) ∧
  (c.rg ra.toNat % 4 ≠ 0 → exec (.jr t 0 ra 0 0 0) s = .next (s.exceptAt t.toNat 1 (c.rg ra.toNat)))

/-- R147, R150: FOP gives its value in an f register and sets the sticky flags that it raises. -/
def fop : Prop := ∀ (t : Byte) (late : Bool) (rd ra rb fn : BitVec 5) (s : State),
  let c := (s.tile t.toNat).core
  s.stands t.toNat (wordRR 0x28 rd ra rb 0 fn) = true → fn.toNat ≤ 8 → rd.toNat < 16 → ra.toNat < 16 → rb.toNat < 16 →
  (6 ≤ fn.toNat → rb = 0) → c.waits ([.f ra.toNat] ++ if fn.toNat < 6 then [.f rb.toNat] else []) = false →
  exec (.fop t late rd ra rb 0 fn) s = .next (
    let v := fopVal fn.toNat (c.rf ra.toNat) (c.rf rb.toNat)
    given (s.stick t.toNat v.2) t.toNat late (.f rd.toNat) v.1)

/-- R124, R135, R147, R168: FCMP gives a predicate of operands that may still be pending, and invalid with a NaN. -/
def fcmp : Prop := ∀ (t : Byte) (late : Bool) (rd ra rb fn : BitVec 5) (s : State),
  let c := (s.tile t.toNat).core
  let a := c.peek (.f ra.toNat)
  let b := c.peek (.f rb.toNat)
  s.stands t.toNat (wordRR 0x29 rd ra rb 0 fn) = true → fn.toNat ≤ 3 → rd.toNat < 8 → ra.toNat < 16 → rb.toNat < 16 →
  exec (.fcmp t late rd ra rb 0 fn) s = .next (
    let u := s.stick t.toNat (if isNan a || isNan b then fInvalid else 0)
    (u.modCore t.toNat (fun k => k.result late ([.f ra.toNat, .f rb.toNat].filter (u.tile t.toNat).core.isPending) (.p rd.toNat)
      (if fcmpVal fn.toNat a b then 1 else 0))).commit t.toNat 4 none)

/-- R57, R147: FMV moves and converts between g and f registers. -/
def fmv : Prop := ∀ (t : Byte) (late : Bool) (rd ra : BitVec 5) (s : State),
  let c := (s.tile t.toNat).core
  let g := c.rg ra.toNat
  let f := c.rf ra.toNat
  let toF := fun (fn : BitVec 5) (v : Nat × Nat) =>
    s.stands t.toNat (wordRR 0x2A rd ra 0 0 fn) = true → rd.toNat < 16 → c.waits [.g ra.toNat] = false →
      exec (.fmv t late rd ra 0 0 fn) s = .next (given (s.stick t.toNat v.2) t.toNat late (.f rd.toNat) v.1)
  let toG := fun (fn : BitVec 5) (v : Nat × Nat) =>
    s.stands t.toNat (wordRR 0x2A rd ra 0 0 fn) = true → ra.toNat < 16 → c.waits [.f ra.toNat] = false →
      exec (.fmv t late rd ra 0 0 fn) s = .next (given (s.stick t.toNat v.2) t.toNat late (.g rd.toNat) v.1)
  toF 0 (g % 2 ^ 32, 0) ∧ toG 1 (f, 0) ∧ toF 2 (rneInt (sgn 64 g) 1) ∧ toG 3 (toInt64 f) ∧
  toG 4 ((toBf16 f .nearest noRnd).1, (toBf16 f .nearest noRnd).2.1) ∧
  toF 5 (if isNan (bfTo32 g) then nan32 else bfTo32 g, 0)

/-- R146, R147: operands that a format or an instruction does not have raise ILLEGAL_INSTRUCTION with the word as detail. -/
def illegalOperands : Prop := ∀ (t : Byte) (late : Bool) (rd ra rb rc fn : BitVec 5) (s : State),
  let n := t.toNat
  (s.stands n (wordRR 0x01 rd ra rb rc fn) = true → rc ≠ 0 → fn ≠ 18 → exec (.alu t late rd ra rb rc fn) s =
    .next (s.exceptAt n 3 (wordRR 0x01 rd ra rb rc fn))) ∧
  (s.stands n (wordRR 0x18 rd ra rb rc fn) = true → (5 < fn.toNat ∨ 8 ≤ rd.toNat ∨ rc ≠ 0) →
    exec (.cmp t late rd ra rb rc fn) s = .next (s.exceptAt n 3 (wordRR 0x18 rd ra rb rc fn))) ∧
  (s.stands n (wordRR 0x22 rd ra rb rc fn) = true → (rd ≠ 0 ∨ rb ≠ 0 ∨ rc ≠ 0 ∨ fn ≠ 0) →
    exec (.jr t rd ra rb rc fn) s = .next (s.exceptAt n 3 (wordRR 0x22 rd ra rb rc fn))) ∧
  (s.stands n (wordRR 0x28 rd ra rb rc fn) = true → (8 < fn.toNat ∨ 16 ≤ rd.toNat ∨ 16 ≤ ra.toNat ∨ 16 ≤ rb.toNat ∨ rc ≠ 0) →
    exec (.fop t late rd ra rb rc fn) s = .next (s.exceptAt n 3 (wordRR 0x28 rd ra rb rc fn))) ∧
  (s.stands n (wordRR 0x30 rd ra rb rc fn) = true → fn ≠ 0 →
    exec (.hash t late rd ra rb rc fn) s = .next (s.exceptAt n 3 (wordRR 0x30 rd ra rb rc fn))) ∧
  (s.stands n (wordRR 0x3C rd ra rb rc fn) = true → (rd ≠ 0 ∨ ra ≠ 0 ∨ rb ≠ 0 ∨ rc ≠ 0 ∨ fn ≠ 0) →
    exec (.halt t rd ra rb rc fn) s = .next (s.exceptAt n 3 (wordRR 0x3C rd ra rb rc fn)))

/-- R147, R151: HASH gives the hash of its key, layer, choice and bucket. -/
def hash : Prop := ∀ (t : Byte) (late : Bool) (rd ra rb rc : BitVec 5) (s : State),
  s.stands t.toNat (wordRR 0x30 rd ra rb rc 0) = true →
  let c := (s.tile t.toNat).core
  c.waits [.g ra.toNat, .g rb.toNat, .g rc.toNat] = false →
  exec (.hash t late rd ra rb rc 0) s = .next (given s t.toNat late (.g rd.toNat)
    (hash64 (c.rg ra.toNat) (bits (c.rg rc.toNat) 0 16) (bits (c.rg rc.toNat) 16 8) (c.rg rb.toNat)))

/-- R60, R152: RDRAW gives the next word of a stream and moves its counter by one; RCTR reads the counter; RCTW writes it. -/
def randoms : Prop := ∀ (t : Byte) (late : Bool) (rd ra rb : BitVec 5) (s : State),
  let c := (s.tile t.toNat).core
  let sid := s.sid t.toNat (c.rg ra.toNat % 64)
  let n := NMap.get 0 s.rng sid
  let seed := match (s.tile t.toNat).ctx.bind s.ctx? with | some x => x.seed | none => 0
  c.ahead = false → c.waits [.g ra.toNat] = false → (s.tile t.toNat).streamBusy (c.rg ra.toNat % 64) = false →
  (s.stands t.toNat (wordRR 0x34 rd ra 0 0 0) = true → exec (.rdraw t late rd ra 0 0) s =
    .next (given { s with rng := NMap.set 0 s.rng sid ((n + 1) % 2 ^ 64) } t.toNat late (.g rd.toNat) (streamWord seed sid n))) ∧
  (s.stands t.toNat (wordRR 0x34 rd ra 0 0 1) = true → exec (.rctr t late rd ra 0 0) s =
    .next (given s t.toNat late (.g rd.toNat) n)) ∧
  (s.stands t.toNat (wordRR 0x34 0 ra rb 0 2) = true → c.waits [.g rb.toNat] = false → exec (.rctw t 0 ra rb 0) s =
    .next (State.commit { s with rng := NMap.set 0 s.rng sid (c.rg rb.toNat) } t.toNat 4 none))

/-- R35, R141, R152: CSRR reads a CSR of the directory and raises ILLEGAL_INSTRUCTION for any other; CSRW writes RUNAHEAD_CTL or
clears bits of STICKY_STATUS; CNTR reads the common count. -/
def csrs : Prop := ∀ (t : Byte) (late : Bool) (rd ra : BitVec 5) (imm : BitVec 15) (s : State),
  let c := (s.tile t.toNat).core
  (s.stands t.toNat (wordRI 0x38 rd 0 imm) = true →
    (∀ v, s.csr t.toNat imm.toNat = some v → exec (.csrr t late rd 0 imm) s = .next (given s t.toNat late (.g rd.toNat) v)) ∧
    (s.csr t.toNat imm.toNat = none →
      exec (.csrr t late rd 0 imm) s = .next (s.exceptAt t.toNat 3 (wordRI 0x38 rd 0 imm)))) ∧
  (s.stands t.toNat (wordRI 0x39 0 ra 4) = true → c.ahead = false → c.waits [.g ra.toNat] = false →
    exec (.csrw t 0 ra 4) s = .next ((s.modCore t.toNat (fun k => { k with runahead := bit (k.rg ra.toNat) 0 })).commit t.toNat 4 none)) ∧
  (s.stands t.toNat (wordRI 0x39 0 ra 3) = true → c.ahead = false → c.waits [.g ra.toNat] = false →
    exec (.csrw t 0 ra 3) s = .next ((s.modCore t.toNat (fun k =>
      { k with sticky := clearFlags k.sticky (k.rg ra.toNat) })).commit t.toNat 4 none)) ∧
  (s.stands t.toNat (wordRI 0x39 0 ra imm) = true → imm.toNat ≠ 3 → imm.toNat ≠ 4 →
    exec (.csrw t 0 ra imm) s = .next (s.exceptAt t.toNat 3 (wordRI 0x39 0 ra imm))) ∧
  (s.stands t.toNat (wordRR 0x3A rd 0 0 0 0) = true → c.ahead = false →
    exec (.cntr t late rd 0 0 0 0) s = .next (given s t.toNat late (.g rd.toNat) s.clk.now))

/-- R145: the steward answers YIELD, WORK_NEXT, EVENT_POST with a record to spare and an unlisted service in g1, and the core goes on
after the instruction; WORK_NEXT with an item to give binds it and writes its arguments to g1 to g8. -/
def services : Prop := ∀ (t : Byte) (num : BitVec 15) (s : State), s.plain t.toNat = true →
  (s.tile t.toNat).core.waits ((List.range' 2 7).map Dst.g) = false → s.boot.devState ≠ 2 →
  let gone := fun (n : Nat) => s.modCore t.toNat (fun c => { c with run := .svc n, pc := c.pc + 4, commits := c.commits + 1 })
  let on := fun (u : State) (v : Nat) => u.modCore t.toNat (fun c => { c.result false [] (.g 1) v with run := .running })
  (s.stands t.toNat (wordRI 0x3B 0 0 0) = true → exec (.yield t 0 0) s = .next (on (gone 0) Status.ok.code)) ∧
  (s.stands t.toNat (wordRI 0x3B 0 0 1) = true → (gone 1).nextItem t.toNat = none →
    exec (.workNext t 0 0) s = .next (on (gone 1) 0)) ∧
  (s.stands t.toNat (wordRI 0x3B 0 0 1) = true → ∀ n w i, (gone 1).nextItem t.toNat = some (n, w, i) →
    exec (.workNext t 0 0) s = .next (on
      (((gone 1).modWork n (fun w => { w with items := w.items.map (fun x => if x = i then { x with st := .running } else x) })).modCore
        t.toNat (fun c => (List.range 8).foldl (fun c k => c.result false [] (.g (k + 1)) (i.args.getD k 0)) (c.bindItem n w)))
      (i.args.getD 0 0))) ∧
  (let u := gone 2
   let c := (u.tile t.toNat).core
   s.stands t.toNat (wordRI 0x3B 0 0 2) = true →
   (u.log.recs.filter (fun e => decide ((e.1 + 4096 - u.log.head) % 4096 < (u.log.tail + 4096 - u.log.head) % 4096) &&
      e.2.type = 0x32 && e.2.ctx = (u.tile t.toNat).ctx)).length < 64 →
   exec (.eventPost t 0 0) s =
      .next (on (u.raise (u.evTile t.toNat 0x32 2 [(24, 8, c.rg 2), (32, 8, c.rg 3), (40, 8, c.rg 4)])) Status.ok.code)) ∧
  (s.stands t.toNat (wordRI 0x3B 0 0 num) = true → 3 ≤ num.toNat →
    exec (.svcUnlisted t 0 0 num) s = .next (on (gone num.toNat) Status.badCommand.code))

/-- R144: HALT stops the core, which then waits for its engines. -/
def halt : Prop := ∀ (t : Byte) (s : State), s.stands t.toNat (wordRR 0x3C 0 0 0 0 0) = true →
  (s.tile t.toNat).core.ahead = false → (s.tile t.toNat).core.waits [.g 1] = false →
  exec (.halt t 0 0 0 0 0) s = .next ((s.modCore t.toNat (fun c => { c with run := .halting })).commit t.toNat 4 none)

/-- R153, R154: DESCW writes an entry of one of the descriptor tables; which nothing issued before waits to read; an index
beyond the table or a reserved bit is illegal. -/
def descw : Prop := ∀ (t : Byte) (rd ra rb fn : BitVec 5) (s : State), fn.toNat ≤ 5 → (fn = 3 → rb = 0) →
  s.stands t.toNat (wordRR 0x3D rd ra rb 0 fn) = true → (s.tile t.toNat).core.ahead = false →
  (s.tile t.toNat).core.waits [.g rd.toNat, .g ra.toNat, .g rb.toNat] = false →
  let c := (s.tile t.toNat).core
  let i := c.rg rd.toNat
  let v := c.rg ra.toNat + (if fn.toNat = 3 then 0 else c.rg rb.toNat * 2 ^ 64)
  (i < (if fn.toNat = 3 then 256 else 16) → v &&& descRsv fn.toNat = 0 → (s.tile t.toNat).entryAwaited fn.toNat i = false →
    exec (.descw t rd ra rb 0 fn) s = .next ((s.modTile t.toNat (fun x => x.setDesc fn.toNat i v)).commit t.toNat 4 none)) ∧
  ((if fn.toNat = 3 then 256 else 16) ≤ i ∨ v &&& descRsv fn.toNat ≠ 0 →
    exec (.descw t rd ra rb 0 fn) s = .next (s.exceptAt t.toNat 3 (wordRR 0x3D rd ra rb 0 fn)))

/-- R163, R164: TKSTAT reads the word kept for a ticket; one not yet issued is ILLEGAL_OPERATION. -/
def tkstat : Prop := ∀ (t : Byte) (late : Bool) (rd ra fn : BitVec 5) (s : State), fn.toNat ≤ 2 →
  s.stands t.toNat (wordRR 0x3E rd ra 0 0 fn) = true → (s.tile t.toNat).core.ahead = false →
  (s.tile t.toNat).core.waits [.g ra.toNat] = false →
  let x := s.tile t.toNat
  let n := x.core.rg ra.toNat
  (n ≤ (x.tk fn.toNat).issued → exec (.tkstat t late rd ra 0 0 fn) s =
    .next (given s t.toNat late (.g rd.toNat) ((x.tk fn.toNat).word n (fn.toNat = 1)))) ∧
  ((x.tk fn.toNat).issued < n → exec (.tkstat t late rd ra 0 0 fn) s = .next (s.exceptAt t.toNat 4 n))

/-- R155 to R157: a bundle at a 32-byte address that stands at the pc passes to its checks; a scalar-only bundle whose
instruction completes commits with it. -/
def bundle : Prop := ∀ (t : Byte) (late : Bool) (value : BitVec 256) (us : List Upset) (s : State),
  let c := (s.tile t.toNat).core
  let v := value.toNat
  s.fetches t.toNat 32 = true → v % 128 = 0x7F → c.pc % 32 = 0 → leVal (Bytes.rd c.istore c.pc 32) = v →
  exec (.bundle t late value us) s = .next ((s.modTile t.toNat (fun x => x.strike us)).bundleAt t.toNat v late)

/-- R156, R166: a bundle whose header is bad raises ILLEGAL_INSTRUCTION, unless it waits for a register or its scalar slot raises an
exception that stands before it. -/
def bundleIllegal : Prop := ∀ (t v : Nat) (late : Bool) (s : State), headerBad v = true →
  (s.tile t).core.waits (bnReads v) = false → (s.tile t).core.ahead = false →
  (hasScalar v = false → s.bundleAt t v late = s.exceptAt t 3 (bnHeader v)) ∧
  (∀ cause detail, hasScalar v = true → scalarOp t late 32 (bnScalar v) s = .exc cause detail →
    s.bundleAt t v late = if cause < 3 then s.exceptAt t cause detail else s.exceptAt t 3 (bnHeader v))

/-- R157, R158: a bundle of one scalar slot whose instruction completes commits 32 bytes. -/
def bundleScalar : Prop := ∀ (t v : Nat) (late : Bool) (u s : State) (taken : Option Nat), headerBad v = false →
  hasScalar v = true → hasArray v = false → hasVector v = false → hasDma v = false → hasSync v = false →
  (s.tile t).core.run = .running → scalarOp t late 32 (bnScalar v) (s.modCore t (fun c => { c with run := .running })) = .done u taken →
  s.bundleAt t v late = (u.modTile t (fun z => z.issueAll v (s.tile t).core)).commit t 32 taken

/-- R161, R320: a wait whose limit has passed unsatisfied is decided with 0 for its predicate, and its bundle goes on where its core
does. -/
def waitExpiry : Prop := ∀ (t : Byte) (v since : Nat) (phase : Option Nat) (s : State),
  (s.tile t.toNat).core.run = .syncWait v since phase none → syLim (bnSync v) ≠ 0 →
  since + 2 ^ syLim (bnSync v) ≤ s.clk.now → s.syncOver t.toNat v phase = none →
  exec (.syncWaitExpiry t) s = .next (
    let u := s.modCore t.toNat (fun c => { c with run := .syncWait v since phase (some 0) })
    if (u.waitsIn t.toNat).isSome then u.bundleRest t.toNat v false 0 else u)

/-- R168: a result that arrives reaches its register and the predicates that waited for it, and nothing but the core changes. -/
def arrival : Prop := ∀ (t : Byte) (d : Dst) (s : State),
  exec (.pendingResultArrival t d) s = .next (s.modCore t.toNat (fun c => c.deliver d))

/-- R168, R171: the oldest unresolved branch resolves once its predicate is there; a wrong guess drops every provisional effect and
takes the registers of its time, and the other path. -/
def branchResolve : Prop := ∀ (t : Byte) (k : Ckpt) (rest : List Ckpt) (s : State), (s.tile t.toNat).core.ckpts = k :: rest →
  k.pend.any (fun e => decide (e.dst = .p k.pred)) = false → (s.tile t.toNat).core.frozen = false →
  exec (.branchResolve t) s = .next (s.resolveBranch t.toNat k rest) ∧
  (((k.pred = 0 || bit k.p k.pred) != k.neg) ≠ k.predicted → s.traced t.toNat = false →
    ∃ u, exec (.branchResolve t) s = .next u ∧ (u.tile t.toNat).core.pc = k.otherPc ∧ (u.tile t.toNat).core.prov = [] ∧
      (u.tile t.toNat).core.ckpts = [] ∧ (u.tile t.toNat).core.f = k.f ∧ (u.tile t.toNat).core.p = k.p ∧
      u.mem = s.mem ∧ (u.tile t.toNat).sp = (s.tile t.toNat).sp)

/-- R167, R218: CORE_STOP suspends the context of a tile, or lets it run on. -/
def coreStop : Prop := ∀ (t : Byte) (c : Nat) (s : State), (s.tile t.toNat).ctx = some c →
  exec (.coreStop t false) s = .next (s.suspendCtx c) ∧ exec (.coreStop t true) s = .next (s.resumeCtx c)

/-! ### The array, its loads and the drain (R63 to R114, R224 to R236) -/

/-- R72, R82, R100: the oldest step operation that nothing holds begins when its tile is on and its slots and entries are as it
names them; an operation without the check set leaves a mark for the governor. A zero slot skips its steps (R223). -/
def stepBegin : Prop := ∀ (t : Byte) (o : AOp) (s : State), (s.tile t.toNat).nextStep = some o →
  let x := s.tile t.toNat
  let w := o.i.word
  let u : State := if stCheck w then s else { s with power := { s.power with unchecked := true } }
  (x.disabled = true → exec (.stepOperationBegin t) s = .next (s.endA t.toNat o.ticket .targetOff 0)) ∧
  (x.disabled = false → x.stepFails o.i = true →
    exec (.stepOperationBegin t) s = .next (s.endA t.toNat o.ticket .formatFault 0)) ∧
  (x.disabled = false → x.stepFails o.i = false → (stMode w = 1 ∨ (x.slot (stSlot w)).zero = false) →
    exec (.stepOperationBegin t) s = .next (u.setTile t.toNat (x.modA o.ticket (fun o => { o with begun := true })))) ∧
  (x.disabled = false → x.stepFails o.i = false → stMode w = 0 → (x.slot (stSlot w)).zero = true →
    exec (.stepOperationBegin t) s = .next ((u.setTile t.toNat (((List.range (stCount w)).foldl (fun x k =>
        x.modRow (stSet w) (stBase w + k) (fun r => r.prepare (stOverwrite w) (stTagOf w).1 (stTagOf w).2)) x).modA o.ticket
      (fun o => { o with begun := true, skip := true, sub := 1, next := if stOutlier w then 0 else stCount w
                         poisonRows := List.range' (stBase w) (stCount w) }))).maybeEndStep t.toNat))

/-- R65, R67, R68, R81, R103: a trit step of token k adds, in each lane, the sum of the look-ups of its eight bytes in the tables of
its group's activations to the row of the token; the comparison of its check values waits. -/
def tritStep : Prop := ∀ (t : Byte) (le : List (Nat × Int)) (us : List Upset) (o : AOp) (s u : State) (vs : List (List Byte))
    (bad : Bool), (s.tile t.toNat).stepping = some o → stMode o.i.word = 0 → o.sub = 0 →
  let w := o.i.word
  let a4 := decide (stTag w = 1)
  let e := stBase w + o.next
  let gs := stG w
  (s.modTile t.toNat (fun x => x.strike us)).readVectors t.toNat (adBase o.i.d0 + o.next * adStride o.i.d0) gs
    (if a4 then 20 else 40) = some (vs, bad, u) → (a4 && vs.any a4Bad) = false →
  exec (.tritStep t le us) s = .next (
    let x := u.tile t.toNat
    let v := x.slot (stSlot w)
    let a := fun g => vecVals a4 (vs.getD g [])
    let y := withErr le (fun l => tritLane v (a (l / (1024 / gs))) l)
    (u.setTile t.toNat (x.applyStep o e
      (fun r => (r.prepare (stOverwrite w) (stTagOf w).1 (stTagOf w).2).step y (stInterval w)) (bad || v.poison)
      (pendCheck w o.ticket e (stSlot w) (checkKL 12 gs v a y))
      (if stOutlier w then o.next else o.next + 1) (if stOutlier w then 1 else 0))).maybeEndStep t.toNat)

/-- R41, R42, R79: a vector outside the scratchpad ends the operation with ST_TRANSLATION_FAULT, the A4 code 8 with
ST_FORMAT_FAULT, the rows it wrote poisoned. -/
def tritStepFails : Prop := ∀ (t : Byte) (le : List (Nat × Int)) (us : List Upset) (o : AOp) (s : State),
  (s.tile t.toNat).stepping = some o → stMode o.i.word = 0 → o.sub = 0 →
  let w := o.i.word
  let a4 := decide (stTag w = 1)
  let u := s.modTile t.toNat (fun x => x.strike us)
  let r := u.readVectors t.toNat (adBase o.i.d0 + o.next * adStride o.i.d0) (stG w) (if a4 then 20 else 40)
  (r = none → exec (.tritStep t le us) s = .next (u.failStep t.toNat o .translationFault)) ∧
  (∀ vs bad v, r = some (vs, bad, v) → (a4 && vs.any a4Bad) = true →
    exec (.tritStep t le us) s = .next (v.failStep t.toNat o .formatFault))

/-- R44, R51, R94: the outlier part of a token: the low digits through acc20, then 256 times the high digits into acc32, of the row
beyond the operation's rows. -/
def outlierDigitStep : Prop := ∀ (t : Byte) (le : List (Nat × Int)) (us : List Upset) (o : AOp) (s : State),
  (s.tile t.toNat).stepping = some o → stMode o.i.word = 0 → o.sub ≠ 0 →
  let w := o.i.word
  let n := adOcount o.i.d0
  let base := adObase o.i.d0 + o.next * adOstride o.i.d0
  let u := s.modTile t.toNat (fun x => x.strike us)
  let r := u.spRead t.toNat base (2 * n)
  let bs := maskBad base r.1 r.2.1
  let val := fun i => if i < n then sgn 16 (leAt bs (2 * i) 2) else 0
  (n ≠ 0 → inSp base (2 * n) = true) → (List.range n).any (fun i => decide ((val i).natAbs > 32639)) = false →
  exec (.outlierDigitStep t le us) s = .next (
    let x := r.2.2.tile t.toNat
    let v := x.slot (adOslot o.i.d0)
    let low := decide (o.sub = 1)
    let a := fun i => if low then a16Lo (val i) else a16Hi (val i)
    let y := withErr le (fun l => tritLane v a l)
    let e := stBase w + stCount w + o.next
    (r.2.2.setTile t.toNat (x.applyStep o e
      (fun r => if low then (r.prepare (stOverwrite w) 3 0).step y (stInterval w) else r.addSat (fun l => 256 * y l))
      (!r.2.1.isEmpty || v.poison) (pendCheck w o.ticket e (adOslot o.i.d0) (checkKL 12 1 v (fun _ => a) y))
      (if low then o.next else o.next + 1) (if low then 2 else if o.skip then 1 else 0))).maybeEndStep t.toNat)

/-- R84, R87, R88, R90: one token of a plane operation: in each lane the sum over the planes, the sign plane negative, divided by the
power of two of the lane's exponent, toward minus infinity, into acc32. -/
def planeToken : Prop := ∀ (t : Byte) (le : List (Nat × Int)) (us : List Upset) (o : AOp) (s u : State) (vs : List (List Byte))
    (bad : Bool), (s.tile t.toNat).stepping = some o → stMode o.i.word = 1 →
  let w := o.i.word
  let gs := stG w
  let b := stPlaneN w + 1
  let e := stBase w + o.next
  (s.modTile t.toNat (fun x => x.strike us)).readVectors t.toNat (adBase o.i.d0 + o.next * adStride o.i.d0) gs 40 =
    some (vs, bad, u) →
  exec (.planeToken t le us) s = .next (
    let x := u.tile t.toNat
    let v := x.slot (stSlot w)
    let a := fun g => vecVals false (vs.getD g [])
    let y := withErr le (fun l => planeLane x (stSlot w) b (a (l / (1024 / gs))) l)
    let ex := fun l => match v.plane with
      | some p => NMap.get (stEref w) p.exps l
      | none => stEref w
    (u.setTile t.toNat (x.applyStep o e
      (fun r => (r.prepare (stOverwrite w) 2 (stPlaneN w)).addSat (fun l => y l / ((2 ^ (stEref w - ex l) : Nat) : Int)))
      (bad || (List.range' (stSlot w) (planeSlots b)).any (fun n => (x.slot n).poison))
      (pendCheck w o.ticket e (stSlot w) (checkKL (b + 11) gs v a y)) (o.next + 1) 0)).maybeEndStep t.toNat)

/-- R81, R83: the oldest comparison: equal values let the operation end; unequal ones poison the row, and the operation unless it has
failed already, and raise ARRAY_CHECK. -/
def checkComparison : Prop := ∀ (t : Byte) (c : Check) (r : List Check) (s : State), (s.tile t.toNat).checks = c :: r →
  let x := { s.tile t.toNat with checks := r }
  (c.kl.all (fun p => decide (p.1 = p.2)) = true →
    exec (.checkComparison t) s = .next ((s.setTile t.toNat x).maybeEndStep t.toNat)) ∧
  (c.kl.all (fun p => decide (p.1 = p.2)) = false →
    exec (.checkComparison t) s = .next (
      let u := s.setTile t.toNat ((x.modRow c.set c.entry (fun r => { r with poison := true })).modA c.ticket
        (fun o => { o with res := if o.res = .ok then .poisoned else o.res }))
      (u.raise (u.evTile t.toNat 0x10 1 [(24, 1, c.slot), (25, 1, c.set), (26, 1, c.entry), (32, 8, c.ticket)])).maybeEndStep
        t.toNat))

/-- R70, R77, R224 to R231: a load of a trit block, with the block of its form or a failure that keeps the slot's contents. -/
def blockLoad : Prop := ∀ (t : Byte) (us : List Upset) (o : AOp) (s : State), (s.tile t.toNat).nextLoad = some o →
  stMode o.i.word = 0 → (ldPatch o.i.word && pdFromSlot o.i.d0) = false → (s.tile t.toNat).disabled = false →
  (s.tile t.toNat).reloadHeld o = false →
  let w := o.i.word
  let u := s.modTile t.toNat (fun x => x.strike us)
  (ldForm w = 0 → exec (.blockLoad t us) s = .next
    ((u.denseBlock t.toNat (ldWblock w)).2.patchAndFinish t.toNat o (u.denseBlock t.toNat (ldWblock w)).1)) ∧
  (ldForm w = 3 → exec (.blockLoad t us) s = .next (match u.transposed t.toNat w o.i.d1 with
    | (none, v) => v.failLoad t.toNat o
    | (some b, v) => v.patchAndFinish t.toNat o b)) ∧
  (ldForm w = 1 ∨ ldForm w = 2 → exec (.blockLoad t us) s = .next (match u.imageBlock t.toNat w o.i.d1 with
    | (none, v) => v.failLoad t.toNat o
    | (some b, v) => v.patchAndFinish t.toNat o b))

/-- R236: a load with its patch's source a slot merges the patch into that slot's trit block. -/
def slotCopyLoad : Prop := ∀ (t : Byte) (us : List Upset) (o : AOp) (s : State), (s.tile t.toNat).nextLoad = some o →
  stMode o.i.word = 0 → ldPatch o.i.word = true → pdFromSlot o.i.d0 = true → (s.tile t.toNat).disabled = false →
  (s.tile t.toNat).reloadHeld o = false →
  let v := (s.tile t.toNat).slot (pdSrc o.i.d0)
  (ldForm o.i.word = 0 → v.plane = none → exec (.slotCopyLoad t us) s = .next
    ((s.modTile t.toNat (fun x => x.strike us)).patchAndFinish t.toNat o
      { byte := fun n => NMap.get 121 v.bytes n, poison := v.poison, ruled := fun _ => false })) ∧
  ((ldForm o.i.word ≠ 0 ∨ v.plane ≠ none) → exec (.slotCopyLoad t us) s = .next (s.failLoad t.toNat o))

/-- R84 to R86: a plane block whose exponents, read where its form has a record of them, are legal takes its slots, as one block; a slot that belonged to another block
breaks that one. -/
def planeBlockLoad : Prop := ∀ (t : Byte) (us : List Upset) (o : AOp) (s : State), (s.tile t.toNat).nextLoad = some o →
  stMode o.i.word = 1 → (s.tile t.toNat).disabled = false → (s.tile t.toNat).reloadHeld o = false →
  let w := o.i.word
  let b := stPlaneN w + 1
  let first := stSlot w
  let blks := (List.range (planeSlots b)).foldl (fun (r : List Blk × State) k =>
    ((r.1 ++ [(r.2.denseBlock t.toNat (ldWblock w + k)).1]), (r.2.denseBlock t.toNat (ldWblock w + k)).2))
    ([], s.modTile t.toNat (fun x => x.strike us))
  let ea := (ldWblock w + planeSlots b) * 8192
  let er := if ldForm w = 1 then blks.2.spRead t.toNat ea 1024 else ([], [], blks.2)
  let good := fun l => ldForm w = 1 && !er.2.1.contains ((ea + l) / 8)
  let ex := fun l => if good l then (er.1.getD l 0).toNat else ldEref w
  (∀ l < 1024, good l = true → ex l ≠ 0 ∧ ex l ≠ 255 ∧ ex l ≤ ldEref w) →
  exec (.planeBlockLoad t us) s = .next (
    let poison := blks.1.any (·.poison) || !er.2.1.isEmpty
    let p : Plane := { first := first, b := b, eRef := ldEref w, intact := true
                       exps := NMap.tab (ldEref w) 0 1024 ex }
    (er.2.2.modTile t.toNat (fun x =>
      let x := (List.range (planeSlots b)).foldl (fun x k => x.breakPlane (first + k)) x
      let x := (blks.1.zipIdx).foldl (fun x (e : Blk × Nat) =>
        x.setSlot (first + e.2) { bytes := NMap.tab 121 0 8192 e.1.byte, sums := [], poison := poison, zero := false,
                                  failed := false, plane := some p }) x
      x.setSlot first { x.slot first with sums := colSums (fun l i => sgn b ((List.range b).foldl (fun a j =>
        a + if planeBit x first l j i then 2 ^ j else 0) 0)) })).endA t.toNat o.ticket (if poison then .poisoned else .ok) 0)

/-- R107, R108, R112: a drain whose descriptor's ranges are inside the scratchpad, and whose rows have the tags that folding wants,
begins, with its weight scales when it has them; a range outside ends it with ST_TRANSLATION_FAULT, tags that do not fold with
ST_FORMAT_FAULT. -/
def drainBegin : Prop := ∀ (t : Byte) (us : List Upset) (o : AOp) (s : State), (s.tile t.toNat).nextDrain = some o →
  (s.tile t.toNat).disabled = false →
  let w := o.i.word
  let d := o.i.d0
  let size := rowBytes (drConv (s.refTile t.toNat) w).1
  let inside := (!drWscale w || inSp (ddWbase d) 2048) && (!drTscale w || inSp (ddTbase d) (2 * drCount w)) &&
    (!drDest w || (List.range (drCount w)).all (fun k => inSp (ddOut d + k * ddStride d) size))
  let x := s.tile t.toNat
  let tags := !drFold w || (List.range (drCount w)).all (fun k =>
    decide ((x.row (drSet w) (drBase w + k)).tag < 2) && decide ((x.row (drSet w) (drBase w + drCount w + k)).tag = 3))
  let u := s.modTile t.toNat (fun x => x.strike us)
  (inside = false → exec (.drainBegin t us) s = .next (s.endA t.toNat o.ticket .translationFault 0)) ∧
  (inside = true → tags = false → exec (.drainBegin t us) s = .next (s.endA t.toNat o.ticket .formatFault 0)) ∧
  (inside = true → tags = true → drWscale w = false → exec (.drainBegin t us) s = .next
    (u.modTile t.toNat (fun x => x.modA o.ticket (fun o => { o with begun := true })))) ∧
  (inside = true → tags = true → drWscale w = true → exec (.drainBegin t us) s = .next (
    let r := u.spRead t.toNat (ddWbase d) 2048
    r.2.2.modTile t.toNat (fun x => x.modA o.ticket (fun o =>
      { o with begun := true, scales := NMap.tab 0 0 1024 (fun l => leAt r.1 (2 * l) 2), scaleBad := !r.2.1.isEmpty }))))

/-- R104, R107, R113: a drain that has begun, with no comparison of its rows waiting, room in the queue and its random stream free,
completes its next row; with destination 1 the row stands at the end of the queue with its form, tag, plane bits, saturation and
address. In int32 its values are those of the row promoted into acc32, a folded row's added, saturated. -/
def drainRow : Prop := ∀ (t : Byte) (err : List (Nat × Bool)) (residue : Bool) (us : List Upset) (o : AOp) (s : State),
  let x := s.tile t.toNat
  x.aops.find? (fun o => decide (arKind o.i.word = 2) && o.begun && decide (o.next < drCount o.i.word)) = some o →
  let w := o.i.word
  let e := drBase w + o.next
  let f := drBase w + drCount w + o.next
  let row := (x.row (drSet w) e).promote
  let fold := (x.row (drSet w) f).promote
  let sum := fun l => NMap.get 0 row.acc32 l + (if drFold w then NMap.get 0 fold.acc32 l else 0)
  x.checks.any (fun c => c.set = drSet w && (c.entry = e || (drFold w && c.entry = f))) = false → x.ftq.length < 16 →
  (drDraws (s.refTile t.toNat) w && x.earlierVec o.i.ord (drStream w)) = false →
  ∃ u, exec (.drainRow t err residue us) s = .next u ∧
    (drDest w = true → ∃ q, (u.tile t.toNat).ftq = x.ftq ++ [q] ∧ q.ticket = o.ticket ∧ q.dest = true ∧
      q.last = decide (o.next + 1 = drCount w) ∧ q.form = (drConv (s.refTile t.toNat) w).1 ∧ q.tag = row.tag ∧
      q.planeN = row.planeN ∧ q.addr = ddOut o.i.d0 + o.next * ddStride o.i.d0 ∧
      (q.sat = true ↔ row.sat = true ∨ (drFold w = true ∧ (fold.sat = true ∨ ∃ l < 1024, sat32 (sum l) ≠ sum l))) ∧
      ((drConv (s.refTile t.toNat) w).1 = 0 → ∀ l < 1024, NMap.get 0 q.vals l = wrap 32 (sat32 (sum l))))

/-- R113: the write port writes the row at the head of the queue and takes it from it; the last row of a drain completes it. -/
def queueRowWrite : Prop := ∀ (t : Byte) (q : QRow) (r : List QRow) (s : State), (s.tile t.toNat).ftq = q :: r → q.dest = true →
  let u := (s.setTile t.toNat { s.tile t.toNat with ftq := r }).spWriteOwn t.toNat q.addr (rowData q.form q.vals) q.poison
  (∀ o, (s.tile t.toNat).aops.find? (fun o => o.ticket = q.ticket) = some o → q.last = true →
    exec (.queueRowWrite t) s = .next (u.endA t.toNat q.ticket o.res o.flags)) ∧
  (q.last = false → exec (.queueRowWrite t) s = .next u)

/-! ### The vector engine (R113, R119 to R139) -/

/-- R127, R130, R139: a run whose ranges are inside the scratchpad reads the list of its SPLIT, when its chain has one, and begins; a
range outside ends it with ST_TRANSLATION_FAULT, a list that cannot be read with ST_POISONED, one that is too long, not ascending
or not inside a segment with ST_FORMAT_FAULT. -/
def chainRunBegin : Prop := ∀ (t : Byte) (us : List Upset) (o : VOp) (s : State),
  findV (fun o => vKind o.i.word = 0 && !o.begun) [] (s.tile t.toNat).vops = some o →
  let st := stagesOf o.i.chain
  let r := match splitStage st with
    | some g => (s.modTile t.toNat (fun x => x.strike us)).spRead t.toNat (sgListAt g) (2 * sgListLen g)
    | none => ([], [], s.modTile t.toNat (fun x => x.strike us))
  let list := (List.range (r.1.length / 2)).map (fun i => leAt r.1 (2 * i) 2)
  let bad := decide (80 < list.length) || !(List.range (list.length - 1)).all (fun i =>
    decide (list.getD i 0 < list.getD (i + 1) 0)) || list.any (fun j => decide (vSeg o.i.word ≤ j))
  (o.inside = false → exec (.chainRunBegin t us) s = .next (s.endV t.toNat o.ticket .translationFault 0)) ∧
  (o.inside = true → r.2.1.isEmpty = false → exec (.chainRunBegin t us) s = .next (r.2.2.endV t.toNat o.ticket .poisoned 0)) ∧
  (o.inside = true → r.2.1.isEmpty = true → bad = true →
    exec (.chainRunBegin t us) s = .next (r.2.2.endV t.toNat o.ticket .formatFault 0)) ∧
  (o.inside = true → r.2.1.isEmpty = true → bad = false → exec (.chainRunBegin t us) s = .next (
    let once := ((usedIns st).filter (fun k => vdSource (o.inD k) = 0 && vdStride (o.inD k) = 0)).foldl
      (fun (r : NMap (Nat × Bool) × Nat × State) k =>
        let v := r.2.2.vRead t.toNat (o.inD k) 0
        (NMap.put r.1 k (v.1.1, v.1.2.2), r.2.1 ||| v.1.2.1, v.2)) ([], 0, r.2.2)
    once.2.2.modTile t.toNat (fun x => x.modV o.ticket (fun o =>
      { o with begun := true, once := once.1, flags := o.flags ||| once.2.1, split := list }))))

/-- R119, R137: a beat of a run that has its row, no earlier drain drawing from its stream, takes it one beat on, or, when it was the
last, ends it: with ST_POISONED when a value was poisoned, else ST_OK. -/
def vectorBeat : Prop := ∀ (t : Byte) (rs : List (Nat × Nat)) (us : List Upset) (o : VOp) (s : State),
  (s.tile t.toNat).running = some o → o.reject = false → (o.usesQueue && o.qrow.isNone) = false →
  (∀ j, s.refTile t.toNat = false → chainStream (stagesOf o.i.chain) = some j →
    (s.tile t.toNat).earlierDrain o.i.ord j = false) →
  (128 * o.beat + min 128 (vCount o.i.word - 128 * o.beat) = vCount o.i.word →
    ∃ (u : State) (p : Bool) (fl : Nat), exec (.vectorBeat t rs us) s = .next (u.endV t.toNat o.ticket (if p then .poisoned else .ok) fl)) ∧
  (128 * o.beat + min 128 (vCount o.i.word - 128 * o.beat) ≠ vCount o.i.word →
    ∃ u, exec (.vectorBeat t rs us) s = .next u ∧
      ((u.tile t.toNat).vops.map (fun p => (p.ticket, p.beat))) =
        (s.tile t.toNat).vops.map (fun p => (p.ticket, if p.ticket = o.ticket then p.beat + 1 else p.beat)))

/-- R113, R128: a run takes the row at the head of the queue; a row whose tag no descriptor admits makes it reject, and the last row
then ends it with ST_FORMAT_FAULT. -/
def queueRowConsume : Prop := ∀ (t : Byte) (o : VOp) (q : QRow) (r : List QRow) (s : State),
  (s.tile t.toNat).running = some o → (s.tile t.toNat).ftq = q :: r → q.dest = false → o.usesQueue = true →
  o.qrow = none → o.qdone < vCount o.i.word / 1024 →
  let u := s.setTile t.toNat { s.tile t.toNat with ftq := r }
  let bad := o.reject || (usedIns (stagesOf o.i.chain)).any (fun k => vdSource (o.inD k) = 1 && !bit (vdMask (o.inD k)) q.tag)
  ((bad = false ∨ o.qdone + 1 ≠ vCount o.i.word / 1024) → exec (.queueRowConsume t) s = .next (u.modTile t.toNat (fun x =>
    x.modV o.ticket (fun o => { o with qdone := o.qdone + 1, reject := bad, qrow := if bad then none else some q })))) ∧
  (bad = true → o.qdone + 1 = vCount o.i.word / 1024 →
    exec (.queueRowConsume t) s = .next (u.endV t.toNat o.ticket .formatFault o.flags))

/-- R131, R133, R139: a look-up slot takes the 256 values and the header at its address when the header is valid. -/
def lookupSlotLoad : Prop := ∀ (t : Byte) (us : List Upset) (o : VOp) (s : State),
  findV (fun o => vKind o.i.word = 1) [] (s.tile t.toNat).vops = some o →
  let a := vAddr o.i.word
  let r := (s.modTile t.toNat (fun x => x.strike us)).spRead t.toNat a 1040
  let hdr := leAt r.1 1024 16
  (inSp a 1040 = false → exec (.lookupSlotLoad t us) s = .next (s.endV t.toNat o.ticket .translationFault 0)) ∧
  (inSp a 1040 = true → lutValid hdr = false →
    exec (.lookupSlotLoad t us) s = .next (r.2.2.endV t.toNat o.ticket .formatFault 0)) ∧
  (inSp a 1040 = true → lutValid hdr = true → exec (.lookupSlotLoad t us) s = .next (
    let v : Lut := { v := NMap.tab 0 0 256 (fun i => leAt r.1 (4 * i) 4), hdr := hdr, poison := !r.2.1.isEmpty }
    (r.2.2.modTile t.toNat (fun x => { x with luts := NMap.set Lut.reset x.luts (vSlot o.i.word) v })).endV t.toNat o.ticket
      (if r.2.1.isEmpty then .ok else .poisoned) 0))

/-! ### Transfers (R196 to R221, R279, R339, R346 to R350, R360) -/

/-- R203, R209, R217: the queued transfer at the head of a queue reads its 64-byte descriptor; an unreadable one ends it with
ST_POISONED, one that breaks a check with ST_BAD_COMMAND, and a good one runs. -/
def transferBegin : Prop := ∀ (t : Byte) (queue : BitVec 2) (us : List Upset) (q : Xfer) (s : State),
  (s.tile t.toNat).headX queue.toNat = some q → q.st = .queued → s.mayRun t.toNat = true →
  let r := (s.modTile t.toNat (fun x => x.strike us)).spRead t.toNat (dmaDaddr q.i.word) 64
  let p := { q.load r.1 (fun i => NMap.get 0 (r.2.2.tile t.toNat).sparse i) with st := .running }
  (r.2.1.isEmpty = false → exec (.transferBegin t queue us) s = .next (r.2.2.endX t.toNat q 0 .poisoned 0 false)) ∧
  (r.2.1.isEmpty = true → p.bad = true → exec (.transferBegin t queue us) s = .next (r.2.2.endX t.toNat p 0 .badCommand 0 false)) ∧
  (r.2.1.isEmpty = true → p.bad = false → exec (.transferBegin t queue us) s =
    .next (r.2.2.modTile t.toNat (fun x => x.modX q.ticket (fun _ => p))))

/-- R204, R210, R389: in its queue's turn the running transfer issues units: up to 32 and up to 128 bytes, a group or block alone;
a datapath check that fails ends it with ST_POISONED and DATAPATH_CHECK. The next turn goes on from this queue. -/
def elementBatch : Prop := ∀ (t : Byte) (queue : BitVec 2) (n : BitVec 6) (us : List Upset) (q : Xfer) (s : State),
  s.runningX t.toNat queue.toNat = some q → s.inTurn t.toNat queue.toNat = true →
  let u := s.modTile t.toNat (fun x => { x.strike us with turn := queue.toNat })
  (q.perUnit = 1 → exec (.elementBatch t queue n false us) s =
    .next (u.issueMany t.toNat queue.toNat (min n.toNat (min 32 (128 / q.es))))) ∧
  (q.perUnit ≠ 1 → exec (.elementBatch t queue n false us) s = .next (u.issueMany t.toNat queue.toNat (min n.toNat 1))) ∧
  exec (.elementBatch t queue n true us) s =
    .next ((u.raise (u.evTile t.toNat 0x26 1 [(24, 1, 0), (32, 8, q.ticket)])).endX t.toNat q
      q.nextIssue .poisoned 0 false)

/-- R204, R207, R216: a unit (not of a packing transfer) whose output has a place: its pieces not written before a suspension become
outstanding writes in order, with their places, and the next unit is next. -/
def unitIssued : Prop := ∀ (t : Nat) (q : Xfer) (bs out : List Byte) (poison : Bool) (ps : List (Nat × Nat × Nat × Nat)) (s : State),
  q.op ≠ 3 → q.output q.nextIssue bs = some out → s.dstPlaces t q q.nextIssue out.length = .ok ps →
  ∃ ws : List OutW, ws.map (fun w => (w.idx, w.va, w.poison)) = ps.map (fun p => (q.nextIssue, p.1, poison)) ∧
    s.issueUnit t q (some bs) poison = some ((s.modTile t (fun x => x.modX q.ticket (fun _ =>
      { q with nextIssue := q.nextIssue + 1
               outst := q.outst ++ ws.filter (fun w => !q.partly.contains (q.nextIssue, w.place))
               staged := NMap.del q.staged q.nextIssue, anyPoison := q.anyPoison || poison }))).afterAck t q.ticket)

/-- R197 to R201, R221, R279: the next missing translation of a transfer is walked. A leaf enters the look-aside buffer; at the
element next to issue an absent or swapped page suspends the transfer, and in a running transfer a malformed entry ends it with
ST_TRANSLATION_FAULT and an unreadable one with ST_POISONED, ranked with what fails at the element's other side. -/
def translationWalk : Prop := ∀ (t : Byte) (queue : BitVec 2) (us : List Upset) (q : Xfer) (u va : Nat) (write : Bool) (s : State),
  s.walkingX t.toNat queue.toNat = some q → s.nextMiss t.toNat q = some (u, va, write) → inKv va = false →
  let c := ((s.tile t.toNat).ctx).getD 0
  let w := (s.strikeHbm us).walkTile t.toNat c va
  (∀ pa size pte, w.1 = .leaf pa size pte →
    exec (.translationWalk t queue false us) s = .next (w.2.tlbAdd t.toNat c va pa size pte)) ∧
  (u = q.nextIssue →
    (w.1 = .absent → exec (.translationWalk t queue false us) s = .next (w.2.faultX t.toNat q 1 va write)) ∧
    (w.1 = .swapped → exec (.translationWalk t queue false us) s = .next (w.2.faultX t.toNat q 2 va write)) ∧
    (q.st = .running → (w.1 = .malformed →
        exec (.translationWalk t queue false us) s = .next (w.2.endUnit t.toNat q (.translationFault, va) write)) ∧
      (w.1 = .poisoned → exec (.translationWalk t queue false us) s = .next (w.2.endUnit t.toNat q (.poisoned, va) write))))

/-- R201, R267 to R269: an address of the KV aperture is looked up in the slot's runs: a run whose entry reads good enters the KV
look-aside buffer; at the element next to issue a failed check ends the running transfer with its status, an unreadable entry
with ST_POISONED. -/
def kvWalk : Prop := ∀ (t : Byte) (queue : BitVec 2) (us : List Upset) (q : Xfer) (u va : Nat) (write : Bool) (s : State),
  s.walkingX t.toNat queue.toNat = some q → s.nextMiss t.toNat q = some (u, va, write) → inKv va = true →
  let c := ((s.tile t.toNat).ctx).getD 0
  let v := if us.any (fun e => decide (hbmSize ≤ e.off) && e.double) then s.strikeKvMap va else s
  (∀ a r pa off, v.kvCheck (some t.toNat) c va write = .run a r pa off →
    (v.kvMapBad va = false → exec (.translationWalk t queue false us) s =
      .next (v.modTile t.toNat (fun x => x.kvbAdd c (va - off) pa a.runBytes))) ∧
    (v.kvMapBad va = true → u = q.nextIssue → q.st = .running →
      exec (.translationWalk t queue false us) s = .next (v.endUnit t.toNat q (.poisoned, va) write))) ∧
  (∀ st, v.kvCheck (some t.toNat) c va write = .fails st → u = q.nextIssue → q.st = .running →
    exec (.translationWalk t queue false us) s = .next (v.endUnit t.toNat q (st, va) write))

/-- R214, R331: the data of the next source unit away from the tile arrives and is staged for it. -/
def sourceReadReturn : Prop := ∀ (t : Byte) (queue : BitVec 2) (data : List Byte) (poison : Bool) (us : List Upset) (q : Xfer)
    (u : Nat) (ps : List (Nat × Nat × Nat × Nat)) (s : State), s.runningX t.toNat queue.toNat = some q →
  s.nextSource t.toNat q = some (u, ps) →
  exec (.sourceReadReturn t queue data poison us) s = .next (
    let v := s.strikeHbm us
    let m := v.srcRead t.toNat ps (hostExt v ps data)
    m.st.modTile t.toNat (fun x => x.modX q.ticket (fun p =>
      { p with staged := NMap.put p.staged u (if m.fault then none else some m.bytes, m.bad || poison) })))

/-- R339, R360: a read of the far tier or of host memory that never completes stages poisoned data and raises its event. The bytes
are free values: a statement about them holds for every value of the counter of free values. -/
def readTimeouts : Prop := ∀ (t : Byte) (queue : BitVec 2) (q : Xfer) (u : Nat) (ps : List (Nat × Nat × Nat × Nat))
    (p : Nat × Nat × Nat × Nat) (s : State), s.runningX t.toNat queue.toNat = some q → s.nextSource t.toNat q = some (u, ps) →
  let n := (ps.map (fun p => p.2.2.1)).sum
  let v := (s.used n).modTile t.toNat (fun x => x.modX q.ticket (fun p =>
    { p with staged := NMap.put p.staged u (some ((List.range n).map (fun i => BitVec.ofNat 8 (s.fv i))), true) }))
  (ps.find? (fun p => match s.zone p.2.1 with | .far _ => true | _ => false) = some p →
    exec (.farReadTimeout t queue) s =
      .next (v.raise (evUnit 4 ((p.2.1 - farBase) / farSpan) 0x07 1 [(24, 1, 0), (32, 8, p.2.1)]))) ∧
  (ps.find? (fun p => match s.zone p.2.1 with | .host _ => true | _ => false) = some p →
    exec (.hostReadTimeout t queue) s = .next (v.raise
      { s.evTile t.toNat 0x08 1 [(24, 8, p.2.1 - hostBase)] with unit := 0, index := 0, gen := 0 }))

/-- R211 to R217: the first outstanding write, where it can be acknowledged, is written at its place; the incomplete group that
compress-on-store is left with at the end of its transfer ends it with ST_FORMAT_FAULT. -/
def writeAcknowledged : Prop := ∀ (t : Byte) (queue : BitVec 2) (q : Xfer) (w : OutW) (s : State),
  (s.tile t.toNat).headX queue.toNat = some q → q.outst.head? = some w →
  (s.ackable q w = true →
    (w.kind = 4 → exec (.writeAcknowledged t queue) s = .next (s.ackGroup t.toNat q w)) ∧
    (w.kind ≠ 4 → exec (.writeAcknowledged t queue) s = .next (s.ackElem t.toNat q w))) ∧
  (s.ackable q w = false → w.kind = 4 → q.st = .running → q.units ≤ q.nextIssue →
    exec (.writeAcknowledged t queue) s = .next (s.endX t.toNat q w.idx .formatFault w.va true))

/-- R211, R213: an outstanding write of plain bytes, alone for its element, that no target turns away: its bytes are written, counted,
and it leaves the transfer. One turned away ends the transfer with the target's status. -/
def plainWrite : Prop := ∀ (t : Nat) (q : Xfer) (w : OutW) (s : State), w.kind = 0 →
  q.outst.filter (fun v => v.idx = w.idx && v.kind = w.kind) = [w] →
  (s.turnedAway t w.pa = none → s.ackElem t q w =
    ((((((s.physWrite w.pa w.data w.key w.poison).countWrite t w.pa w.data.length).markDirty t w.pa).noteMarks t w.pa
      w.data.length).dropOut t q.ticket (fun v => v.idx = w.idx && v.kind = w.kind)).afterAck t q.ticket)) ∧
  (∀ st, s.turnedAway t w.pa = some st → s.ackElem t q w = s.failOut t q w st)

/-- R218, R279: PAGE_SWAP_IN brings a swapped page or KV run back when it can and resolves the faults of its range. -/
def pageSwapIn : Prop := ∀ (ctx : Byte) (va : W64) (tagsOk : Bool) (s u : State),
  (∀ e, inKv va.toNat = false → (s.ctx? ctx.toNat).bind (fun x => x.swappedAt va.toNat) = some e →
    s.pageIn ctx.toNat va.toNat (fun _ => !tagsOk) = some u →
    exec (.pageSwapIn ctx va tagsOk) s = .next (u.resolveFaults ctx.toNat 2 e.1 e.2.2.2)) ∧
  (∀ a, inKv va.toNat = true → s.kvAttn (kvSlot va.toNat) (kvLayer va.toNat) = some a →
    (s.seq (kvSlot va.toNat)).ctx = ctx.toNat → s.kvCheck none ctx.toNat va.toNat false = .swapped →
    s.runIn (kvSlot va.toNat) (runKey (kvLayer va.toNat) (kvOff va.toNat / a.runBytes)) (fun _ => !tagsOk) = some u →
    exec (.pageSwapIn ctx va tagsOk) s =
      .next (u.resolveFaults ctx.toNat 2 (va.toNat - kvOff va.toNat % a.runBytes) a.runBytes))

/-- R115, R346, R389: a memory-side integer operand is added at its destination, modulo the width, as one act; a fault of the adder's
check raises DATAPATH_CHECK and poisons what is stored. -/
def intAddOperand : Prop := ∀ (t : Byte) (queue : BitVec 2) (f : Bool) (q : Xfer) (w : OutW) (s : State),
  s.operandOf t.toNat queue.toNat 1 = some (q, w) →
  (s.turnedAway t.toNat w.pa = none → exec (.intAddOperand t queue f) s = .next (
    let m := (if f then s.raise (evAdder w.pa) else s).physRead w.pa w.data.length w.key default
    ((((m.st.physWrite w.pa (addBytes m.bytes w.data) w.key (w.poison || f || m.bad)).countWrite t.toNat w.pa
      w.data.length).noteMarks t.toNat w.pa w.data.length).dropOut t.toNat q.ticket (fun v => v.idx = w.idx)).afterAck t.toNat
        q.ticket)) ∧
  (∀ st, s.turnedAway t.toNat w.pa = some st → exec (.intAddOperand t queue f) s = .next (s.failOut t.toNat q w st))

/-- R346 to R350: an fp32 operand goes to its tree, or to the unordered adder; a refused one ends its transfer with the refusal's
status, one accepted is acknowledged and its flags are sticky on the sending tile; a fault of the adder's check poisons it. -/
def fp32Operands : Prop := ∀ (t : Byte) (queue : BitVec 2) (f : Bool) (q : Xfer) (w : OutW) (s : State),
  s.operandOf t.toNat queue.toNat 2 = some (q, w) → s.turnedAway t.toNat w.pa = none →
  let v := if f then s.raise (evAdder w.pa) else s
  let r := v.fp32Operand (((v.tile t.toNat).ctx).getD 0) w.pa q.opx w.data w.key (w.poison || f)
  let done := fun (u : State) (fl : Nat) =>
    let u := (u.modCore t.toNat (fun c => { c with sticky := c.sticky ||| fl })).countWrite t.toNat w.pa 4
    let u := if u.treeOpen (((u.tile t.toNat).ctx).getD 0) w.pa q.opx then u else u.noteMarks t.toNat w.pa 4
    (u.dropOut t.toNat q.ticket (fun v => v.idx = w.idx)).afterAck t.toNat q.ticket
  (bits q.opx 0 32 ≠ 0xFFFFFFFF →
    (∀ u fl, r = .ok (u, fl) → exec (.fp32TreeOperand t queue f) s = .next (done u fl)) ∧
    (∀ st, r = .error st → exec (.fp32TreeOperand t queue f) s = .next (v.failOut t.toNat q w st))) ∧
  (bits q.opx 0 32 = 0xFFFFFFFF →
    (∀ u fl, r = .ok (u, fl) → exec (.unorderedAdd t queue f) s = .next (done u fl)) ∧
    (∀ st, r = .error st → exec (.unorderedAdd t queue f) s = .next (v.failOut t.toNat q w st)))

/-- R347, R348: an operand of a tree that is already there and still waits for others is put at its leaf and nothing is added; one
whose index is not below the count, or whose count is over 65,536, is ST_FORMAT_FAULT. -/
def treeOperand : Prop := ∀ (c pa opx key : Nat) (data : List Byte) (poison : Bool) (s : State),
  let i := bits opx 32 32
  let n := bits opx 0 32 + 1
  bits opx 0 32 ≠ 0xFFFFFFFF →
  ((0xFFFF < bits opx 0 32 ∨ n ≤ i) → s.fp32Operand c pa opx data key poison = .error .formatFault) ∧
  (bits opx 0 32 ≤ 0xFFFF → i < n → ∀ r, (s.stack (stackOf pa)).trees.find? (fun r => r.ctx = c && r.dst = pa && r.n = n) = some r →
    NMap.get? r.leaves i = none → (NMap.put r.leaves i (leVal data, poison)).length < n →
    s.fp32Operand c pa opx data key poison = .ok (s.modStack (stackOf pa) (fun st =>
      { st with trees := (s.stack (stackOf pa)).trees.filter (fun r => !(r.ctx = c && r.dst = pa && r.n = n)) ++
                  [{ r with leaves := NMap.put r.leaves i (leVal data, poison) }] }), 0))

/-- R339: a far-tier port that is present and has not failed fails, with its event; its outstanding writes end their transfers. -/
def farWriteFailure : Prop := ∀ (p : BitVec 1) (e : Bool) (addr : W64) (s : State), (s.far p.toNat).present = true →
  (s.far p.toNat).failed = false → exec (.farWriteFailure p e addr) s =
    .next (((s.modFar p.toNat (fun f => { f with failed := true })).raise
      (evUnit 4 p.toNat 0x07 1 [(24, 1, if e then 2 else 1), (32, 8, addr.toNat)])).failFarWrites p.toNat)

/-! ### Routing and KV library entries, return windows (R243 to R263, R270, R271, R280) -/

/-- R245 to R248: callers that stand at ROUTE, in rank order with the same arguments, are one call; a caller whose count or rank is out
of range returns ST_BAD_COMMAND by itself. -/
def route : Prop := ∀ (callers : List Byte) (t : Byte) (s : State),
  (callers ≠ [] → callers.length ≤ 16 → s.oneCall (callers.map (fun (t : Byte) => t.toNat)) = true →
    exec (.route callers) s = .next (s.routeCall (callers.map (fun (t : Byte) => t.toNat)))) ∧
  (s.atEntry t.toNat 0x1F000 = true →
    (bits ((s.tile t.toNat).core.rg 7) 8 8 = 0 ∨ 16 < bits ((s.tile t.toNat).core.rg 7) 8 8 ∨
      bits ((s.tile t.toNat).core.rg 7) 8 8 ≤ bits ((s.tile t.toNat).core.rg 7) 0 8) →
    exec (.route [t]) s = .next (s.libReturn t.toNat Status.badCommand.code 0))

/-- R249, R250: the capacity pass takes each choice of each token once: kept by its own expert, dropped, or a duplicate; a
dropped one kept by its probe is counted in both kept and replaced; and no expert holds more than the capacity. -/
def routeCounts : Prop := ∀ (r : ExpRec) (toks : List Nat),
  let a := routePass r toks
  a.kept + a.dropped + a.dup = r.k * toks.length + a.replaced ∧ (∀ x, NMap.get 0 a.fill x ≤ r.cap)

/-- R186, R261, R262: a core at COMBINE runs it when the routing tile is its own, or answers and makes no scrub pass; of a tile that
does not answer it returns that tile's status. A record outside the scratchpad is ST_BAD_COMMAND, an unreadable one ST_POISONED,
one that is no descriptor ST_BAD_COMMAND. -/
def combine : Prop := ∀ (t : Byte) (s : State), s.atEntry t.toNat 0x1F800 = true →
  let g := (s.tile t.toNat).core.rg
  let u := s.routingTile t.toNat (g 2)
  let m := s.pull t.toNat u (g 2) 64
  (u = t.toNat ∨ s.targetFails (u * 0x2000000) false = none ∧ (s.quad (quadOf u)).scrubPass = false →
    exec (.combine t) s = .next (s.combineCall t.toNat)) ∧
  (∀ st, u ≠ t.toNat → s.targetFails (u * 0x2000000) false = some st →
    exec (.combine t) s = .next (s.libReturn t.toNat st.code 0)) ∧
  (inSp (g 2) 64 = false → s.combineCall t.toNat = s.libReturn t.toNat Status.badCommand.code 0) ∧
  (inSp (g 2) 64 = true → m.2.1.isEmpty = false → s.combineCall t.toNat = m.2.2.libReturn t.toNat Status.poisoned.code 0) ∧
  (inSp (g 2) 64 = true → m.2.1.isEmpty = true → expRec m.1 = none →
    s.combineCall t.toNat = m.2.2.libReturn t.toNat Status.badCommand.code 0)

/-- R257, R263: a core at ABANDON closes its tile's window of the named result region with the code in g3, ST_CANCELLED for ST_OK,
and returns ST_OK; where there is none, nothing changes but that. -/
def abandon : Prop := ∀ (t : Byte) (s : State), s.atEntry t.toNat 0x1FC00 = true →
  let x := s.tile t.toNat
  let code := if x.core.rg 3 % 256 = Status.ok.code then Status.cancelled.code else x.core.rg 3 % 256
  let hit := fun (w : Window) => some w.ctx = x.ctx && decide (w.status = some (x.core.rg 2 + 22))
  exec (.abandon t) s = .next (State.libReturn { s with windows := s.windows.map (fun w =>
    if hit w && w.tile = t.toNat then w.close code else w) } t.toNat Status.ok.code 0)

/-- R270, R271: a core at KV_APPEND writes n positions of a layer of a slot; a count or a position outside what the step may append is
ST_BAD_COMMAND and writes nothing. -/
def kvAppend : Prop := ∀ (t : Byte) (s : State), s.atEntry t.toNat 0x1E000 = true →
  let x := s.tile t.toNat
  let g := x.core.rg
  let bad := g 5 = 0 ∨ 64 < g 5 ∨ 1024 ≤ g 2 ∨ ¬ ∃ e ∈ s.carriers t.toNat (g 2), e.2.1 ≤ g 4 ∧ g 4 + g 5 ≤ e.2.2
  (bad → exec (.kvAppend t) s = .next (s.libReturn t.toNat Status.badCommand.code 0)) ∧
  (¬ bad → ∀ a, s.kvAttn (g 2) (g 3) = some a → inSp (g 6) (4 * g 5 * a.h * a.d) = true →
    inSp (g 7) (4 * g 5 * a.h * a.d) = true →
    exec (.kvAppend t) s = .next (
      let r := s.appendF t.toNat g a 0 0 false (g 5)
      r.2.2.libReturn t.toNat r.1.code r.2.1))

/-- R280: a core at KV_RECV_OPEN with arguments in range, a free tag and room opens a window and returns ST_OK. -/
def kvRecvOpen : Prop := ∀ (t : Byte) (s : State), s.atEntry t.toNat 0x1E800 = true →
  let x := s.tile t.toNat
  let c := x.ctx.getD 0
  let g := x.core.rg
  let bad := g 2 = 0 ∨ 65536 ≤ g 2 ∨ 16384 ≤ g 6 ∨ g 7 = 0 ∨ 65535 < g 7 ∨ x.freeArea (g 3) (g 4) = false
  (bad → exec (.kvRecvOpen t) s = .next (s.libReturn t.toNat Status.badCommand.code 0)) ∧
  (¬ bad → (s.tagBusy c (g 2) = true ∨ s.windowFree c = false) →
    exec (.kvRecvOpen t) s = .next (s.libReturn t.toNat Status.noResource.code 0)) ∧
  (¬ bad → s.tagBusy c (g 2) = false → s.windowFree c = true → exec (.kvRecvOpen t) s = .next ((s.openWindow
    { ctx := c, tag := g 2, tile := t.toNat, off := g 3, len := g 4, expect := g 5, count := 0, sig := g 6,
      deadline := s.clk.now + 1000 * g 7, epoch := g 2, status := none, closing := none }).libReturn t.toNat Status.ok.code 0))

/-- R257: at its deadline a window closes with ST_TIMEOUT, unless another cause has closed it first; every other window stays. -/
def windowDeadline : Prop := ∀ (ctx : Byte) (tag : W16) (s : State),
  exec (.windowDeadline ctx tag) s = .next { s with windows := s.windows.map (fun w =>
    if w.ctx = ctx.toNat && w.tag = tag.toNat && decide (w.deadline ≤ s.clk.now) then
      { w with closing := some (w.closing.getD Status.timeout.code) } else w) }

/-- R186, R191, R192, R254, R257: a closing window writes its status byte at its tile (which must not be in a scrub pass) unless the
tile does not answer or the byte lies in a resident block, frees its generation for the time after 1 ms, and adds 1 to its
signal. -/
def windowClose : Prop := ∀ (ctx : Byte) (tag : W16) (w : Window) (s : State),
  s.windows.find? (fun w => w.ctx = ctx.toNat && w.tag = tag.toNat && w.closing.isSome) = some w →
  let u : State := { s with windows := s.windows.filter (fun v => !(v.ctx = w.ctx && v.tag = w.tag)) }
  let done := fun (v : State) => (v.modCtx w.ctx (fun x =>
    { x with closed := (w.tag, v.clk.now) :: x.closed.filter (fun e => decide (v.clk.now < e.2 + 1000000)) })).signalAdd w.ctx w.sig 1
  (w.status = none → exec (.windowCloseComplete ctx tag) s = .next (done u)) ∧
  (∀ a, w.status = some a → (s.quad (quadOf w.tile)).scrubPass = false →
    let no := (u.targetFails (w.tile * 0x2000000) true).isSome || (u.tile w.tile).residentAt a 1
    (no = true → exec (.windowCloseComplete ctx tag) s = .next (done u)) ∧
    (no = false → exec (.windowCloseComplete ctx tag) s =
      .next (done (((u.countRoute none (some (daleOf w.tile)) 1).count (0x300000 + 64 * w.tile + 48) 1).spWrite w.tile a
        (leBytes 1 (w.closing.getD 0)) false))))

/-! ### The machine as a whole: steps, the queue, reset, the pins -/

/-- A step runs the command at the front of the queue on the state with the queue's rest. -/
def stepTakesFront : Prop := ∀ (c : Instr) (r : List Instr) (s : State), s.pending = c :: r →
  step s = exec c { s with pending := r }

/-- On an empty queue a step is one nanosecond (the model's choice, assumption log entry 6): while the package runs the common count moves by
one, and the reset and disable that wait for nothing more complete; else only wall time passes. -/
def stepOnEmptyQueue : Prop := ∀ s : State, s.pending = [] →
  (s.running = true → step s = .next (({ s with clk := s.clk.tick }.pumpResets).pumpDisables)) ∧
  (s.running = false → step s = .next { s with clk := { s.clk with wall := s.clk.wall + 1 } }) ∧
  (s.clk.slew = 0 → s.clk.tick.now = s.clk.now + 1)

/-- Every command completes: exec answers a next state for every command in every state. -/
def everyCommandCompletes : Prop := ∀ (c : Instr) (s : State), ∃ t, exec c s = .next t

/-- No command takes from the queue or adds to it. -/
def queueKept : Prop := ∀ (c : Instr) (s t : State), exec c s = .next t → t.pending = s.pending

/-- The legal levels of the straps, two bits, and of the JTAG instruction register, one of four instructions (R486, R487). -/
def Legal (s : State) : Prop := s.pins.straps < 4 ∧ s.pins.jtag < 4

/-- Every step keeps the straps and the JTAG instruction legal. -/
def legalKept : Prop := ∀ s t : State, Legal s → step s = .next t → Legal t

/-- R486: the SMBus address is 0b10010 and the two straps: 0x48 to 0x4B. -/
def smbAddress : Prop := ∀ s : State, Legal s →
  s.pins.smbAddr = 0b1001000 + s.pins.straps ∧ 0x48 ≤ s.pins.smbAddr ∧ s.pins.smbAddr ≤ 0x4B

/-- R486: the straps are latched when the supplies come in range; while the supplies are there no step but their removal changes
them. -/
def strapsLatched : Prop :=
  (∀ (a b : Bool) (s t : State), s.pins.supplies = false → exec (.suppliesApplied a b) s = .next t →
    t.pins.straps = (if a then 1 else 0) + (if b then 2 else 0)) ∧
  (∀ s t : State, s.pins.supplies = true → s.pending.head? ≠ some .supplyRemoval → step s = .next t →
    t.pins.straps = s.pins.straps)

/-- R413, R429: FAULT_N and THERMTRIP_N, once low, stay low over every step but the removal of the supplies. -/
def stopPinsLatched : Prop := ∀ s t : State, s.pending.head? ≠ some .supplyRemoval → step s = .next t →
  (s.pins.faultN = false → t.pins.faultN = false) ∧ (s.pins.thermtripN = false → t.pins.thermtripN = false)

/-- R413, R429: a package that has asserted FAULT_N or THERMTRIP_N takes no command and writes no reply. -/
def stoppedTakesNothing : Prop := ∀ (h : Pkt) (st : Status) (r0 r1 : Nat) (s : State),
  (s.pins.faultN = false ∨ s.pins.thermtripN = false) →
  exec (.deviceNop h) s = .next s ∧ exec (.deviceQuery h) s = .next s ∧ exec (.ctxDestroy h) s = .next s ∧
  exec (.ctxReset h) s = .next s ∧ exec (.ctxResume h) s = .next s ∧ exec (.fwActivate h) s = .next s ∧
  s.reply h st r0 r1 = s

/-- The state at reset, for what the spec gives: R64 (every byte code 121, check rows zero), R101 (rows), R162 (tickets), R405
(generations 1), R470 (an empty snapshot bank), R394 (an empty log), R192 (no block resident), R318 and R319 (no objects). -/
def resetState : Prop :=
  (∀ t n l k, ((State.reset.tile t).slot n).byte l k = 121 ∧ ((State.reset.tile t).slot n).colSum 0 1 k = 0) ∧
  (∀ t set e, (State.reset.tile t).row set e = Row.reset) ∧ Row.reset.acc20 = [] ∧ Row.reset.acc32 = [] ∧
  Row.reset.ctr = 0 ∧ Row.reset.poison = false ∧ Row.reset.sat = false ∧
  (∀ t e, ((State.reset.tile t).tk e).issued = 0) ∧ (∀ t, (State.reset.tile t).gen = 1 ∧ (State.reset.tile t).resid = []) ∧
  State.reset.snapBank = [] ∧ State.reset.log.recs = [] ∧ State.reset.log.head = 0 ∧ State.reset.log.tail = 0 ∧
  State.reset.signals = [] ∧ State.reset.barriers = [] ∧ State.reset.ctxs = [] ∧ State.reset.seqs = [] ∧
  State.reset.pending = [] ∧ Legal State.reset

/-! ### Number formats and arithmetic -/

/-- R38: a T5 byte is the code of its five trits: decoding an encoding gives the trits back, encoding the decoded trits gives the code
back, code 121 is five zeros, and 242 less a code is its negation. -/
def tritCode : Prop :=
  (∀ t : Nat → Int, (∀ i < 5, t i = -1 ∨ t i = 0 ∨ t i = 1) →
    t5 t = ((List.range 5).map (fun i => (t i + 1).toNat * 3 ^ i)).sum ∧ t5 t ≤ 242 ∧ ∀ i < 5, trit (t5 t) i = t i) ∧
  (∀ p ≤ 242, t5 (trit p) = p ∧ (∀ i < 5, trit p i = ((p / 3 ^ i % 3 : Nat) : Int) - 1 ∧ trit (242 - p) i = -trit p i)) ∧
  (∀ i < 5, trit 121 i = 0)

/-- R39, R65, R67: a lane's trit step result, eight look-ups of halved tables, is the sum of its forty weights times the inputs. -/
def tritSum : Prop := ∀ (v : Slot) (a : Nat → Int) (l : Nat), (∀ k < 8, v.byte l k ≤ 242) →
  tritLane v a l = ((List.range 40).map (fun i => v.trit l i * a i)).sum

/-- R81, R98: with the check rows formed at the load of the slot's block and no physical fault, K equals L in every group of every
step, for any inputs: a comparison then never poisons a row. -/
def checksAgree : Prop := ∀ (v : Slot) (gs : Nat) (a : Nat → Nat → Int), gs = 1 ∨ gs = 2 ∨ gs = 4 ∨ gs = 8 →
  (∀ l < 1024, ∀ k < 8, v.byte l k ≤ 242) → v.sums = colSums (fun l i => v.trit l i) →
  (checkKL 12 gs v a (fun l => tritLane v (a (l / (1024 / gs))) l)).all (fun p => decide (p.1 = p.2)) = true

/-- R49: a trit step on A8 adds at most 5,120 in magnitude and on A4 at most 280; a row whose acc20 is within 5,120 for each step since
its last promotion stays so over a step of any interval from 1 to 64, and never goes beyond 327,680, so acc20 never wraps. -/
def acc20Bounded : Prop :=
  (∀ (v : Slot) (a : Nat → Int) (l : Nat), (∀ k < 8, v.byte l k ≤ 242) →
    ((∀ i < 40, (a i).natAbs ≤ 128) → (tritLane v a l).natAbs ≤ 5120) ∧
    ((∀ i < 40, (a i).natAbs ≤ 7) → (tritLane v a l).natAbs ≤ 280)) ∧
  (∀ (r : Row) (y : Nat → Int) (n : Nat), 1 ≤ n → n ≤ 64 → r.ctr < 64 →
    (∀ l, (NMap.get 0 r.acc20 l).natAbs ≤ 5120 * r.ctr) → (∀ l, (y l).natAbs ≤ 5120) →
    let q := r.step y n
    q.ctr < 64 ∧ (∀ l, (NMap.get 0 q.acc20 l).natAbs ≤ 5120 * q.ctr) ∧
    (∀ l, (NMap.get 0 r.acc20 l + y l).natAbs ≤ 327680) ∧ 327680 < 2 ^ 19)

/-- R50, R103, R104: promotion adds acc20 into acc32, clamped to 32 bits, marks the row saturated when a lane was clamped, and empties acc20
and the counter; a step promotes when the counter reaches the interval. -/
def promotion : Prop := ∀ (r : Row),
  (∀ l < 1024, NMap.get 0 r.promote.acc32 l = sat32 (NMap.get 0 r.acc32 l + NMap.get 0 r.acc20 l)) ∧
  (∀ x : Int, -(2 ^ 31) ≤ sat32 x ∧ sat32 x < 2 ^ 31 ∧ (-(2 ^ 31) ≤ x → x < 2 ^ 31 → sat32 x = x)) ∧
  r.promote.sat = (r.sat || (List.range 1024).any (fun l =>
    decide (sat32 (NMap.get 0 r.acc32 l + NMap.get 0 r.acc20 l) ≠ NMap.get 0 r.acc32 l + NMap.get 0 r.acc20 l))) ∧
  r.promote.acc20 = [] ∧ r.promote.ctr = 0 ∧
  (∀ (y : Nat → Int) (n : Nat), n ≤ r.ctr + 1 → (r.step y n).ctr = 0 ∧ (r.step y n).acc20 = []) ∧
  (∀ (y : Nat → Int) (n : Nat), r.ctr + 1 < n → (r.step y n).ctr = r.ctr + 1 ∧ (r.step y n).acc32 = r.acc32 ∧
    ∀ l < 1024, NMap.get 0 (r.step y n).acc20 l = NMap.get 0 r.acc20 l + y l)

/-- R148: the integer operations work modulo 2^64; shifts take their count modulo 64; division and remainder round toward zero, with
the results that R148 names for a divisor of 0 and for -2^63 by -1. -/
def integerOps : Prop := ∀ (a b : Nat) (p : Bool), a < 2 ^ 64 → b < 2 ^ 64 →
  (∀ fn, fn ≤ 18 → aluVal fn a b p < 2 ^ 64) ∧
  aluVal 0 a b p = (a + b) % 2 ^ 64 ∧ (aluVal 1 a b p + b) % 2 ^ 64 = a ∧
  aluVal 9 a b p * 2 ^ 64 + aluVal 8 a b p = a * b ∧
  (∀ fn, fn = 5 ∨ fn = 6 ∨ fn = 7 → aluVal fn a b p = aluVal fn a (b % 64) p) ∧
  (b ≠ 0 → aluVal 10 a b p * b + aluVal 11 a b p = a ∧ aluVal 11 a b p < b) ∧
  (b = 0 → aluVal 10 a b p = 2 ^ 64 - 1 ∧ sgn 64 (aluVal 12 a b p) = -1 ∧ aluVal 11 a b p = a ∧ aluVal 13 a b p = a) ∧
  (b ≠ 0 → ¬(a = 2 ^ 63 ∧ b = 2 ^ 64 - 1) → sgn 64 (aluVal 12 a b p) = (sgn 64 a).tdiv (sgn 64 b) ∧
    sgn 64 (aluVal 13 a b p) = (sgn 64 a).tmod (sgn 64 b)) ∧
  (a = 2 ^ 63 → b = 2 ^ 64 - 1 → aluVal 12 a b p = 2 ^ 63 ∧ aluVal 13 a b p = 0)

/-- R148: an ALU instruction with legal operands raises no exception and no flag: the core runs on, with its sticky status as it was. -/
def integerQuiet : Prop := ∀ (t : Byte) (late : Bool) (rd ra rb fn : BitVec 5) (s : State), fn.toNat < 18 →
  s.stands t.toNat (wordRR 0x01 rd ra rb 0 fn) = true → s.plain t.toNat = true →
  (s.tile t.toNat).core.waits [.g ra.toNat, .g rb.toNat] = false →
  ∃ u, exec (.alu t late rd ra rb 0 fn) s = .next u ∧ (u.tile t.toNat).core.run = .running ∧
    (u.tile t.toNat).core.sticky = (s.tile t.toNat).core.sticky ∧ (u.tile t.toNat).core.pc = (s.tile t.toNat).core.pc + 4

/-- R141, R147, R168: what an instruction with a result leaves of a plain running core: its destination holds the value (g0 and p0 keep
theirs), every other register, the scratchpad, every other tile and all memory are as before. -/
def resultFrame : Prop := ∀ (s : State) (t v : Nat) (d : Dst), s.plain t = true → (s.tile t).core.run = .running →
  let u := given s t false d v
  let c := (s.tile t).core
  let k := (u.tile t).core
  (∀ i, k.rg i = if d = .g i ∧ i ≠ 0 then v % 2 ^ 64 else c.rg i) ∧
  (∀ i, k.rf i = if d = .f i then v % 2 ^ 32 else c.rf i) ∧
  (∀ i, k.rp i = if d = .p i ∧ i ≠ 0 then decide (v % 2 = 1) else c.rp i) ∧ k.sticky = c.sticky ∧ k.runahead = c.runahead ∧ k.pc = c.pc + 4 ∧ k.istore = c.istore ∧
  (u.tile t).sp = (s.tile t).sp ∧ (∀ j, j ≠ t → u.tile j = s.tile j) ∧ u.mem = s.mem ∧ u.ctxs = s.ctxs ∧ u.links = s.links

/-- R115: integer partials of one width reduce to the same sum in every arrival order; it is the sum modulo the width, the exact sum
whenever that fits, and wraps without detection. -/
def integerSums : Prop := ∀ (n : Nat) (d : List Byte) (xs ys : List (List Byte)), d.length = n → (∀ x ∈ xs, x.length = n) →
  xs.Perm ys → xs.foldl addBytes d = ys.foldl addBytes d ∧
    leVal (xs.foldl addBytes d) = (leVal d + (xs.map leVal).sum) % 256 ^ n ∧
    (leVal d + (xs.map leVal).sum < 256 ^ n → leVal (xs.foldl addBytes d) = leVal d + (xs.map leVal).sum)

/-- R115, R346: a poisoned operand, or a poisoned destination, poisons the sum. -/
def poisonedSum : Prop := ∀ (s : State) (pa key : Nat) (data : List Byte) (poison : Bool),
  let m := s.physRead pa data.length key default
  s.applyAdd pa data key poison = m.st.physWrite pa (addBytes m.bytes data) key (poison || m.bad)

/-! ### Memory, replies, events -/

/-- R74, R149, R184: a write of bytes to a tile's scratchpad reads back as written, leaves every other byte of the tile, every other
tile and all other memory as they were, and keeps the canonical form of the byte list. -/
def scratchpadWrite : Prop := ∀ (s : State) (t a : Nat) (bs : List Byte) (p : Bool),
  let u := s.spWrite t a bs p
  (∀ i (h : i < bs.length), Bytes.rd1 (u.tile t).sp (a + i) = bs[i]) ∧
  (∀ c, c < a ∨ a + bs.length ≤ c → Bytes.rd1 (u.tile t).sp c = Bytes.rd1 (s.tile t).sp c) ∧
  (Bytes.wf (s.tile t).sp = true → Bytes.wf (u.tile t).sp = true) ∧
  (∀ j, j ≠ t → (u.tile j).sp = (s.tile j).sp) ∧ u.mem = s.mem

/-- R287, R291: a reply into a completion ring in host memory that takes the write: its 32 bytes stand at the ring's entry at the tail, the phase bit of the
pass in it, every other byte of host memory as it was; the tail moves on and the phase inverts at the wrap. -/
def replyRecord : Prop := ∀ (h : Pkt) (st : Status) (r0 r1 : Nat) (s : State), s.live = true →
  let q := s.qp h.qp.toNat
  q.ringHbm = false → q.ringLost = false → h.replyFails = false →
  let u := s.reply h st r0 r1
  let a := q.cqBase + 32 * q.cqTail
  let v := u.qp h.qp.toNat
  ∃ bs : List Byte, bs.length = 32 ∧ leVal (bs.take 4) = h.cmdId.toNat ∧ leAt bs 4 1 = st.code ∧
    leAt bs 5 1 = (if q.phase then 1 else 0) ∧ leAt bs 6 2 = q.sqHead % 2 ^ 16 ∧ leAt bs 8 8 = r0 % 2 ^ 64 ∧
    leAt bs 16 8 = r1 % 2 ^ 64 ∧ leAt bs 24 8 = s.clk.now % 2 ^ 64 ∧
    (∀ i (hi : i < bs.length), Bytes.rd1 u.mem.host (a + i) = bs[i]) ∧
    (∀ c, c < a ∨ a + 32 ≤ c → Bytes.rd1 u.mem.host c = Bytes.rd1 s.mem.host c) ∧ u.mem.hbm = s.mem.hbm ∧
    u.tiles = s.tiles ∧ u.ctxs = s.ctxs ∧ u.links = s.links ∧ u.signals = s.signals ∧ u.seqs = s.seqs ∧ u.cfg = s.cfg ∧ u.power = s.power ∧
    v.cqTail = (q.cqTail + 1) % 2 ^ q.cqLog ∧ v.phase = (if v.cqTail = 0 then !q.phase else q.phase) ∧
    v.sqHead = q.sqHead ∧ v.taken = q.taken - 1

/-- R293: a command whose packet the steward reads is answered by the first check that fails, in this order, and then has no other effect: a
disabled queue pair, an rsv bit, the kind of queue or its context, an operand out of range or a stray byte. -/
def refusals : Prop := ∀ (h : Pkt) (s : State), s.mayTake h = true →
  let q := s.qp h.qp.toNat
  let u := s.take h
  s.packetReads h = true →
  (s.isDisabled 3 h.qp.toNat = true → exec (.deviceQuery h) s = .next (u.replyS h .targetOff)) ∧
  (s.isDisabled 3 h.qp.toNat = false → h.rsvSet = true → exec (.deviceQuery h) s = .next (u.replyS h .badCommand)) ∧
  (s.isDisabled 3 h.qp.toNat = false → h.rsvSet = false → q.devQueue = false →
    exec (.deviceQuery h) s = .next (u.replyS h .permission)) ∧
  (s.isDisabled 3 h.qp.toNat = false → h.rsvSet = false → q.devQueue = true → (h.stray = true ∨ h.streamClaim ≠ 0) →
    exec (.deviceQuery h) s = .next (u.replyS h .badCommand)) ∧
  (s.isDisabled 3 h.qp.toNat = false → h.rsvSet = false → s.ctx? (s.pktCtx h) = none →
    exec (.deviceNop h) s = .next (u.replyS h .permission))

/-- R395: a record that finds the log full is not written: lost counts it and overflow is set, and no record changes. With room the
record stands at the tail; after a loss the record before it gives the number lost. -/
def eventLog : Prop := ∀ (l : Log) (now : Nat) (e : Ev),
  (l.full = true → (l.add now e).recs = l.recs ∧ (l.add now e).tail = l.tail ∧ (l.add now e).overflow = true ∧
    (l.add now e).lost = min (l.lost + 1) (2 ^ 32 - 1) ∧ (l.add now e).lostSince = l.lostSince + 1) ∧
  (l.full = false → l.lostSince = 0 → (l.add now e).tail = (l.tail + 1) % 4096 ∧ (l.add now e).seq = (l.seq + 1) % 2 ^ 32 ∧
    (∃ r, NMap.get? (l.add now e).recs l.tail = some r ∧ r.seq = l.seq ∧ r.type = e.type ∧ r.kind = e.kind ∧ r.ctx = e.ctx ∧
      r.time = now ∧ r.unit = e.unit ∧ r.index = e.index ∧ r.gen = e.gen ∧ r.detail = e.detail) ∧
    (∀ i, i ≠ l.tail → NMap.get? (l.add now e).recs i = NMap.get? l.recs i)) ∧
  (l.full = false → l.lostSince ≠ 0 → (∃ r, NMap.get? (l.add now e).recs l.tail = some r ∧ r.detail = (evLogOverflow l.lostSince).detail ∧
    r.type = (evLogOverflow l.lostSince).type) ∧
    (∀ i, i ≠ l.tail → i ≠ (l.tail + 1) % 4096 → NMap.get? (l.add now e).recs i = NMap.get? l.recs i))

/-- R318: an add to a signal saturates at 2^64 - 1 and then sets the overflow of the context's part in the col die; the count never
falls and every other signal keeps its count. -/
def signalSaturates : Prop := ∀ (s : State) (c i n : Nat) (g : Signal), NMap.get? s.signals (objKey c i) = some g →
  g.count < 2 ^ 64 → ∃ k, NMap.get? (s.signalAdd c i n).signals (objKey c i) = some k ∧
    k.count = min (g.count + n) (2 ^ 64 - 1) ∧ g.count ≤ k.count ∧
    (∀ j, j ≠ objKey c i → NMap.get? (s.signalAdd c i n).signals j = NMap.get? s.signals j) ∧
    (∀ x, s.ctx? c = some x → 2 ^ 64 - 1 < g.count + n → ∃ y, (s.signalAdd c i n).ctx? c = some y ∧ y.stickyCol = true)

/-- R405: generations are 1 to 255; an advance adds 1, and 255 goes to 1. -/
def generations : Prop := ∀ g : Nat, 1 ≤ g → g ≤ 255 → 1 ≤ nextGen g ∧ nextGen g ≤ 255 ∧
  (g < 255 → nextGen g = g + 1) ∧ (g = 255 → nextGen g = 1)

end Sys2Proof.Says

/-! ### The obligations -/

/-- A step runs the command at the front of the queue on the state with the queue's rest. -/
def Obligations.StepTakesTheFrontCommand : Prop :=
  Sys2Proof.Says.stepTakesFront

/-- A step on an empty queue is one nanosecond (the model's choice, log entry 6). -/
def Obligations.StepOnEmptyQueue : Prop :=
  Sys2Proof.Says.stepOnEmptyQueue

/-- The state at reset, for what the spec gives, and the legal straps and JTAG instruction of it. -/
def Obligations.ResetState : Prop :=
  Sys2Proof.Says.resetState

/-- Device queries and contexts: create, destroy, reset, query, resume, abort of faults. -/
def Obligations.DeviceAndContextCommands : Prop :=
  Sys2Proof.Says.deviceQuery ∧ Sys2Proof.Says.deviceNop ∧ Sys2Proof.Says.ctxCreate ∧ Sys2Proof.Says.ctxCreateFull ∧
  Sys2Proof.Says.ctxDestroy ∧ Sys2Proof.Says.ctxReset ∧ Sys2Proof.Says.ctxQuery ∧ Sys2Proof.Says.ctxResume ∧
  Sys2Proof.Says.ctxFaultAbort

/-- MEM_MAP, MEM_UNMAP and MEM_SWAP_OUT. -/
def Obligations.MappingCommands : Prop :=
  Sys2Proof.Says.memMap ∧ Sys2Proof.Says.memMapTwice ∧ Sys2Proof.Says.memUnmap ∧ Sys2Proof.Says.memUnmapPart ∧
  Sys2Proof.Says.memSwapOut

/-- Variants and adapters of a context. -/
def Obligations.VariantAndAdapterCommands : Prop :=
  Sys2Proof.Says.variantLoad ∧ Sys2Proof.Says.variantRemove ∧ Sys2Proof.Says.adapterLoad ∧ Sys2Proof.Says.adapterRemove ∧
  Sys2Proof.Says.removeNamed

/-- Signals and barriers: create, destroy, add, wait, saturation. -/
def Obligations.SynchronisationObjects : Prop :=
  Sys2Proof.Says.syncCreateSignal ∧ Sys2Proof.Says.syncCreateBarrier ∧ Sys2Proof.Says.syncDestroy ∧ Sys2Proof.Says.signalAdd ∧
  Sys2Proof.Says.signalWait ∧ Sys2Proof.Says.signalWaitLimit ∧ Sys2Proof.Says.noObject ∧ Sys2Proof.Says.signalSaturates

/-- Placing and removing models, loading kernel images. -/
def Obligations.ModelsAndKernelImages : Prop :=
  Sys2Proof.Says.modelPlace ∧ Sys2Proof.Says.modelRemove ∧ Sys2Proof.Says.modelRemoveUsed ∧ Sys2Proof.Says.kernelLoad

/-- SEQ_OPEN, and handles that name no slot. -/
def Obligations.SequenceOpening : Prop :=
  Sys2Proof.Says.seqOpen ∧ Sys2Proof.Says.seqOpenFull ∧ Sys2Proof.Says.noSlot

/-- Steps, queries, cancels and closes of a sequence slot, and prefixes. -/
def Obligations.SequenceSteps : Prop :=
  Sys2Proof.Says.seqStep ∧ Sys2Proof.Says.seqQuery ∧ Sys2Proof.Says.seqCancelEpoch ∧ Sys2Proof.Says.seqCancelSequence ∧
  Sys2Proof.Says.seqClose ∧ Sys2Proof.Says.prefixSave ∧ Sys2Proof.Says.prefixRemove

/-- Frames, kernel launches and work items. -/
def Obligations.FramesAndKernelWork : Prop :=
  Sys2Proof.Says.frameSubmit ∧ Sys2Proof.Says.frameTooLate ∧ Sys2Proof.Says.frameStart ∧ Sys2Proof.Says.frameDeadline ∧
  Sys2Proof.Says.frameCancel ∧ Sys2Proof.Says.kernelLaunch ∧ Sys2Proof.Says.workItemStart ∧ Sys2Proof.Says.workCommandComplete
  ∧ Sys2Proof.Says.requestRerun

/-- Speculative epochs, their tokens, pre-emption and resumption of slots. -/
def Obligations.EpochsAndPreemption : Prop :=
  Sys2Proof.Says.epochResolve ∧ Sys2Proof.Says.epochToken ∧ Sys2Proof.Says.epochTokenApply ∧
  Sys2Proof.Says.epochTokenAcknowledgement ∧ Sys2Proof.Says.epochAckTimeout ∧ Sys2Proof.Says.slotPreempt ∧
  Sys2Proof.Says.slotResume

/-- Configuration sets and firmware: stage, swap, activate. -/
def Obligations.ConfigurationAndFirmware : Prop :=
  Sys2Proof.Says.configStage ∧ Sys2Proof.Says.configStageHbm ∧ Sys2Proof.Says.configSwap ∧ Sys2Proof.Says.configFenceTimeout ∧
  Sys2Proof.Says.fwStage ∧ Sys2Proof.Says.fwActivate ∧ Sys2Proof.Says.commandInterpretationResumes

/-- Functions off and on, engine, partition and chip resets, escalation, generations. -/
def Obligations.FunctionsAndResets : Prop :=
  Sys2Proof.Says.functionDisable ∧ Sys2Proof.Says.functionEnable ∧ Sys2Proof.Says.engineReset ∧ Sys2Proof.Says.partitionReset
  ∧ Sys2Proof.Says.chipResetWrite ∧ Sys2Proof.Says.verifyingPass ∧ Sys2Proof.Says.resetEscalation ∧ Sys2Proof.Says.generations

/-- Counter snapshots, dumps and trace. -/
def Obligations.CountersDumpsAndTrace : Prop :=
  Sys2Proof.Says.counterSnapshot ∧ Sys2Proof.Says.counterSnapshotBounds ∧ Sys2Proof.Says.counterSnapshotLatch ∧
  Sys2Proof.Says.dumpRead ∧ Sys2Proof.Says.traceStart ∧ Sys2Proof.Says.traceStop

/-- QP_CTL, SQ_TAIL, CQ_HEAD and the coalescing timer. -/
def Obligations.QueuePairRegisters : Prop :=
  Sys2Proof.Says.qpEnable ∧ Sys2Proof.Says.qpEnableBad ∧ Sys2Proof.Says.qpDisable ∧ Sys2Proof.Says.sqTail ∧
  Sys2Proof.Says.cqHead ∧ Sys2Proof.Says.msixCoalesceTimer

/-- Register reads and writes of BAR0. -/
def Obligations.RegisterAccess : Prop :=
  Sys2Proof.Says.commonCountLowRead ∧ Sys2Proof.Says.headWrites ∧ Sys2Proof.Says.registerWrite ∧ Sys2Proof.Says.barOff

/-- Configuration space, hot reset, the HDM decoder, CXL.mem and snoops. -/
def Obligations.ConfigurationSpaceAndCxlMemory : Prop :=
  Sys2Proof.Says.configRetry ∧ Sys2Proof.Says.configRequest ∧ Sys2Proof.Says.hdmDecoderCommit ∧ Sys2Proof.Says.hotReset ∧
  Sys2Proof.Says.cxlMemRead ∧ Sys2Proof.Says.cxlMemWrite ∧ Sys2Proof.Says.hostSnoop

/-- SPDM requests by the DOE mailbox. -/
def Obligations.SpdmMailbox : Prop :=
  Sys2Proof.Says.spdmAnswers ∧ Sys2Proof.Says.spdmSigned ∧ Sys2Proof.Says.spdmTestMode

/-- SMBus reads and writes. -/
def Obligations.SmbusCommands : Prop :=
  Sys2Proof.Says.smbReads ∧ Sys2Proof.Says.smbWrites

/-- Rate monitor, governors and power measurement. -/
def Obligations.RatesAndGovernors : Prop :=
  Sys2Proof.Says.rateMonitorWindow ∧ Sys2Proof.Says.governorEvaluation ∧ Sys2Proof.Says.efficiencyMeasurement ∧
  Sys2Proof.Says.powerMeasurement

/-- Power limiter, thermal limiter, THERMTRIP_N, regulator windows, conditions. -/
def Obligations.PowerAndThermalLimits : Prop :=
  Sys2Proof.Says.powerLimiterStep ∧ Sys2Proof.Says.thermalLimiterStep ∧ Sys2Proof.Says.thermalOutOfConditions ∧
  Sys2Proof.Says.thermtrip ∧ Sys2Proof.Says.regulatorWindow ∧ Sys2Proof.Says.outOfConditions

/-- TRAY_RESET_N, PERST_N, PWRGOOD and the supplies. -/
def Obligations.ResetPinsAndSupplies : Prop :=
  Sys2Proof.Says.resetPulses ∧ Sys2Proof.Says.perstN ∧ Sys2Proof.Says.pwrgoodRise ∧ Sys2Proof.Says.supplies

/-- Boot and its outcomes, the steward's firmware, JTAG. -/
def Obligations.BootAndJtag : Prop :=
  Sys2Proof.Says.trayResetNRelease ∧ Sys2Proof.Says.bootOutcome ∧ Sys2Proof.Says.stewardFirmwareReady ∧ Sys2Proof.Says.jtag

/-- Lockstep mismatches, failed saddles, hangs. -/
def Obligations.DetectedFailures : Prop :=
  Sys2Proof.Says.lockstepMismatch ∧ Sys2Proof.Says.saddleFailed ∧ Sys2Proof.Says.hang

/-- Remote ports, scrubbing, scrub passes, weight reload, HBM patrol and status. -/
def Obligations.ScrubPatrolAndReload : Prop :=
  Sys2Proof.Says.remotePortRequest ∧ Sys2Proof.Says.scrubAccess ∧ Sys2Proof.Says.quadReturnScrubPass ∧
  Sys2Proof.Says.weightReload ∧ Sys2Proof.Says.hbmPatrol ∧ Sys2Proof.Says.hbmStacks

/-- Flits of an Ohmist port, training and link loss. -/
def Obligations.LinkFlits : Prop :=
  Sys2Proof.Says.dataFlit ∧ Sys2Proof.Says.retryRequest ∧ Sys2Proof.Says.idleFlit ∧ Sys2Proof.Says.badFlits ∧
  Sys2Proof.Says.linkTraining ∧ Sys2Proof.Says.linkDown

/-- Notices, management packets, packets sent and passed on. -/
def Obligations.ManagementAndTransit : Prop :=
  Sys2Proof.Says.notices ∧ Sys2Proof.Says.mgmtRefused ∧ Sys2Proof.Says.packetInject ∧ Sys2Proof.Says.transitForward

/-- Requests, answers and resends of a flow. -/
def Obligations.FlowPackets : Prop :=
  Sys2Proof.Says.requests ∧ Sys2Proof.Says.requestOpens ∧ Sys2Proof.Says.flowOrder ∧ Sys2Proof.Says.answers ∧
  Sys2Proof.Says.resends ∧ Sys2Proof.Says.flowForget

/-- Barriers of a job across packages. -/
def Obligations.JobBarriers : Prop :=
  Sys2Proof.Says.barrierArrivalForward ∧ Sys2Proof.Says.barrierCompletion ∧ Sys2Proof.Says.barrierTimeout

/-- Time exchanges and the check peer. -/
def Obligations.TimeExchanges : Prop :=
  Sys2Proof.Says.timeExchange ∧ Sys2Proof.Says.timeExchangeReply ∧ Sys2Proof.Says.timeExchangeAtParent ∧
  Sys2Proof.Says.timeAheadNotice ∧ Sys2Proof.Says.checkPeerExchange

/-- Integer instructions: modulo 2^64, shifts modulo 64, division toward zero, no flag and no exception. -/
def Obligations.IntegerInstructions : Prop :=
  Sys2Proof.Says.alu ∧ Sys2Proof.Says.immediates ∧ Sys2Proof.Says.shi ∧ Sys2Proof.Says.loadImmediates ∧
  Sys2Proof.Says.integerOps ∧ Sys2Proof.Says.integerQuiet

/-- Scalar loads and stores, and the exceptions of LD. -/
def Obligations.LoadsAndStores : Prop :=
  Sys2Proof.Says.loads ∧ Sys2Proof.Says.loadFaults ∧ Sys2Proof.Says.stores

/-- Compares, branches, calls, jumps, and illegal operands. -/
def Obligations.ComparesAndBranches : Prop :=
  Sys2Proof.Says.compares ∧ Sys2Proof.Says.branches ∧ Sys2Proof.Says.jr ∧ Sys2Proof.Says.illegalOperands

/-- FOP, FCMP and FMV. -/
def Obligations.ScalarFloatingPoint : Prop :=
  Sys2Proof.Says.fop ∧ Sys2Proof.Says.fcmp ∧ Sys2Proof.Says.fmv

/-- HASH, random streams, CSRs and the common count. -/
def Obligations.HashRandomsAndCsrs : Prop :=
  Sys2Proof.Says.hash ∧ Sys2Proof.Says.randoms ∧ Sys2Proof.Says.csrs

/-- SVC, HALT, DESCW and TKSTAT. -/
def Obligations.ServicesDescriptorsTickets : Prop :=
  Sys2Proof.Says.services ∧ Sys2Proof.Says.halt ∧ Sys2Proof.Says.descw ∧ Sys2Proof.Says.tkstat

/-- Bundles, commits, waits, arrivals, branch resolution and core stops. -/
def Obligations.BundlesAndRunAhead : Prop :=
  Sys2Proof.Says.commits ∧ Sys2Proof.Says.bundle ∧ Sys2Proof.Says.bundleIllegal ∧ Sys2Proof.Says.bundleScalar ∧
  Sys2Proof.Says.waitExpiry ∧ Sys2Proof.Says.arrival ∧ Sys2Proof.Says.branchResolve ∧ Sys2Proof.Says.coreStop

/-- Steps of the array in trit mode and plane mode, and their check. -/
def Obligations.ArraySteps : Prop :=
  Sys2Proof.Says.stepBegin ∧ Sys2Proof.Says.tritStep ∧ Sys2Proof.Says.tritStepFails ∧ Sys2Proof.Says.outlierDigitStep ∧
  Sys2Proof.Says.planeToken ∧ Sys2Proof.Says.checkComparison

/-- Loads of the lane weight store. -/
def Obligations.LaneWeightLoads : Prop :=
  Sys2Proof.Says.blockLoad ∧ Sys2Proof.Says.slotCopyLoad ∧ Sys2Proof.Says.planeBlockLoad

/-- Drains, the row queue and runs of the vector engine. -/
def Obligations.DrainsAndVectorRuns : Prop :=
  Sys2Proof.Says.drainBegin ∧ Sys2Proof.Says.drainRow ∧ Sys2Proof.Says.queueRowWrite ∧ Sys2Proof.Says.chainRunBegin ∧
  Sys2Proof.Says.vectorBeat ∧ Sys2Proof.Says.queueRowConsume ∧ Sys2Proof.Says.lookupSlotLoad

/-- DMA transfers: descriptors, elements, units, walks. -/
def Obligations.DmaIssue : Prop :=
  Sys2Proof.Says.transferBegin ∧ Sys2Proof.Says.elementBatch ∧ Sys2Proof.Says.unitIssued ∧ Sys2Proof.Says.translationWalk ∧
  Sys2Proof.Says.kvWalk

/-- DMA transfers: reads that return or time out, writes, page swaps, far-tier failure. -/
def Obligations.DmaData : Prop :=
  Sys2Proof.Says.sourceReadReturn ∧ Sys2Proof.Says.readTimeouts ∧ Sys2Proof.Says.writeAcknowledged ∧ Sys2Proof.Says.plainWrite
  ∧ Sys2Proof.Says.pageSwapIn ∧ Sys2Proof.Says.farWriteFailure

/-- Memory-side integer and fp32 adds. -/
def Obligations.MemorySideAdds : Prop :=
  Sys2Proof.Says.intAddOperand ∧ Sys2Proof.Says.fp32Operands ∧ Sys2Proof.Says.treeOperand

/-- ROUTE, COMBINE, ABANDON, KV_APPEND, KV_RECV_OPEN and windows. -/
def Obligations.LibraryEntries : Prop :=
  Sys2Proof.Says.route ∧ Sys2Proof.Says.combine ∧ Sys2Proof.Says.abandon ∧ Sys2Proof.Says.kvAppend ∧ Sys2Proof.Says.kvRecvOpen
  ∧ Sys2Proof.Says.windowDeadline ∧ Sys2Proof.Says.windowClose

/-- Every command answers a next state in every state, and leaves the queue as it was. -/
def Obligations.EveryCommandCompletes : Prop :=
  Sys2Proof.Says.everyCommandCompletes ∧ Sys2Proof.Says.queueKept

/-- The straps, latched with the supplies, stay; the SMBus address is 0x48 to 0x4B; straps and JTAG instruction stay legal. -/
def Obligations.StrapsAndSmbusAddress : Prop :=
  Sys2Proof.Says.legalKept ∧ Sys2Proof.Says.strapsLatched ∧ Sys2Proof.Says.smbAddress

/-- FAULT_N and THERMTRIP_N, once low, stay low until the supplies go; a stopped package takes no command and writes no reply.
-/
def Obligations.StopPinsStay : Prop :=
  Sys2Proof.Says.stopPinsLatched ∧ Sys2Proof.Says.stoppedTakesNothing

/-- T5 codes: encoding, decoding, zero and negation. -/
def Obligations.TritCodes : Prop :=
  Sys2Proof.Says.tritCode

/-- A lane's trit step, eight look-ups of halved tables, is the sum of its forty products. -/
def Obligations.TritStepIsTheWeightedSum : Prop :=
  Sys2Proof.Says.tritSum

/-- Without a physical fault the check values K and L of a trit step are equal in every group. -/
def Obligations.ChecksAgreeWithoutFaults : Prop :=
  Sys2Proof.Says.checksAgree

/-- acc20 never wraps, whatever the intervals; promotion saturates acc32 and empties acc20. -/
def Obligations.AccumulatorBounds : Prop :=
  Sys2Proof.Says.acc20Bounded ∧ Sys2Proof.Says.promotion

/-- What an instruction with a register result leaves unchanged. -/
def Obligations.ResultFrame : Prop :=
  Sys2Proof.Says.resultFrame

/-- Integer partials reduce to one sum in every order; poison spreads to the sum. -/
def Obligations.IntegerSumsAnyOrder : Prop :=
  Sys2Proof.Says.integerSums ∧ Sys2Proof.Says.poisonedSum

/-- A scratchpad write reads back and leaves every other byte. -/
def Obligations.ScratchpadWrites : Prop :=
  Sys2Proof.Says.scratchpadWrite

/-- A reply's 32 bytes in the completion ring, the phase at the wrap, and all else as it was. -/
def Obligations.ReplyRecords : Prop :=
  Sys2Proof.Says.replyRecord

/-- The checks at the taking of a command, in their order. -/
def Obligations.CommandRefusals : Prop :=
  Sys2Proof.Says.refusals

/-- The event log: full rings lose and count, records written are not overwritten. -/
def Obligations.EventLogRing : Prop :=
  Sys2Proof.Says.eventLog

/-- The capacity pass of ROUTE counts each choice once and fills no expert beyond its capacity. -/
def Obligations.RoutingCounts : Prop :=
  Sys2Proof.Says.routeCounts
end

