-- ==== Sys2Proof/Laws/Maps.lean ====
section
/-! SUPPORT. Sparse maps and byte memories: what a read finds after a write, and that every write keeps the canonical
form. -/

namespace Sys2Proof

namespace NMap

variable {α : Type}

@[simp] theorem get?_put_self (m : NMap α) (i : Nat) (a : α) : get? (put m i a) i = some a := by
  induction m <;> grind [put, get?]

theorem get?_put_ne (m : NMap α) (i j : Nat) (a : α) (h : i ≠ j) : get? (put m i a) j = get? m j := by
  induction m <;> grind [put, get?]

theorem get?_put (m : NMap α) (i j : Nat) (a : α) :
    get? (put m i a) j = if i = j then some a else get? m j := by
  by_cases h : i = j
  · subst h; simp
  · simp [h, get?_put_ne]

@[simp] theorem get_put_self (d : α) (m : NMap α) (i : Nat) (a : α) : get d (put m i a) i = a := by simp [get]

theorem get_put_ne (d : α) (m : NMap α) (i j : Nat) (a : α) (h : i ≠ j) : get d (put m i a) j = get d m j := by
  simp [get, get?_put_ne m i j a h]

theorem get?_del (m : NMap α) (i j : Nat) : get? (del m i) j = if i = j then none else get? m j := by
  induction m with
  | nil => simp [del, get?]
  | cons e r ih =>
    obtain ⟨k, v⟩ := e
    by_cases hk : k = i
    · subst hk
      have : del ((k, v) :: r) k = del r k := by simp [del]
      rw [this, ih]; by_cases h : k = j <;> simp [h, get?]
    · have : del ((k, v) :: r) i = (k, v) :: del r i := by simp [del, hk]
      rw [this]
      simp only [get?]
      rw [ih]
      by_cases h : k = j
      · subst h; simp [Ne.symm hk]
      · simp [h]

@[simp] theorem get_set_self [DecidableEq α] (d : α) (m : NMap α) (i : Nat) (a : α) : get d (set d m i a) i = a := by
  unfold set; split
  · next h => subst h; simp [get, get?_del]
  · simp

theorem get_set_ne [DecidableEq α] (d : α) (m : NMap α) (i j : Nat) (a : α) (h : i ≠ j) :
    get d (set d m i a) j = get d m j := by
  unfold set; split
  · simp [get, get?_del, h]
  · exact get_put_ne d m i j a h

/-- The keys of a canonical map rise strictly and no default is listed. -/
theorem wf_iff [DecidableEq α] (d : α) (m : NMap α) :
    wf d m = true ↔ m.Pairwise (fun a b => a.1 < b.1) ∧ ∀ e ∈ m, e.2 ≠ d := by
  simp [wf]

theorem wf_filter [DecidableEq α] (d : α) (m : NMap α) (p : Nat × α → Bool) (h : wf d m = true) :
    wf d (m.filter p) = true := by
  rw [wf_iff] at h ⊢
  exact ⟨h.1.filter _, fun e he => h.2 e (List.mem_filter.1 he).1⟩

theorem mem_put {m : NMap α} {i : Nat} {a : α} {e : Nat × α} (h : e ∈ put m i a) : e = (i, a) ∨ e ∈ m := by
  induction m <;> grind [put]

theorem rising_put (m : NMap α) (i : Nat) (a : α) (h : m.Pairwise (fun x y => x.1 < y.1)) :
    (put m i a).Pairwise (fun x y => x.1 < y.1) := by
  induction m with
  | nil => simp [put]
  | cons x l ih =>
    have hx := List.pairwise_cons.1 h
    unfold put
    split
    · next lt => exact List.pairwise_cons.2 ⟨fun y hy => (mem_put hy).elim (fun e => by rw [e]; exact lt) (hx.1 y), ih hx.2⟩
    · exact List.pairwise_cons.2 ⟨by grind, by split <;> grind⟩

theorem wf_put [DecidableEq α] (d : α) (m : NMap α) (i : Nat) (a : α) (h : wf d m = true) (ha : a ≠ d) :
    wf d (put m i a) = true := by
  rw [wf_iff] at h ⊢
  exact ⟨rising_put m i a h.1, fun x hx => (mem_put hx).elim (fun e => e ▸ ha) (h.2 x)⟩

theorem wf_set [DecidableEq α] (d : α) (m : NMap α) (i : Nat) (a : α) (h : wf d m = true) :
    wf d (set d m i a) = true := by
  unfold set; split
  · exact wf_filter d m _ h
  · next ha => exact wf_put d m i a h ha

theorem wf_clear [DecidableEq α] (d : α) (m : NMap α) (lo n : Nat) (h : wf d m = true) :
    wf d (clear m lo n) = true := wf_filter d m _ h

/-- A table lists the values of its range that differ from the default. -/
theorem get?_tab [DecidableEq α] (d : α) (f : Nat → α) (lo n i : Nat) :
    get? (tab d lo n f) i = if lo ≤ i ∧ i < lo + n ∧ f i ≠ d then some (f i) else none := by
  unfold tab
  induction n generalizing lo with
  | zero => simp [get?]; omega
  | succ n ih =>
    rw [List.range'_succ, List.filterMap_cons]
    by_cases h : f lo = d
    · simp only [h, ↓reduceIte, ih]
      by_cases e : i = lo
      · subst e; simp [h]
      · have : (lo + 1 ≤ i ∧ i < lo + 1 + n ∧ f i ≠ d) ↔ (lo ≤ i ∧ i < lo + (n + 1) ∧ f i ≠ d) := by grind
        simp only [this]
    · simp only [h, ↓reduceIte, get?, ih]
      by_cases e : lo = i
      · subst e; simp [h]
      · have : (lo + 1 ≤ i ∧ i < lo + 1 + n ∧ f i ≠ d) ↔ (lo ≤ i ∧ i < lo + (n + 1) ∧ f i ≠ d) := by grind
        simp only [e, this, ↓reduceIte]

/-- A table reads as its function inside its range, and as the default outside. -/
theorem get_tab [DecidableEq α] (d : α) (f : Nat → α) (lo n i : Nat) :
    get d (tab d lo n f) i = if lo ≤ i ∧ i < lo + n then f i else d := by
  simp only [get, get?_tab]
  by_cases h : f i = d
  · simp [h]
  · by_cases k : lo ≤ i ∧ i < lo + n <;> simp [h, k]

end NMap

namespace Bytes

@[simp] theorem rd1_wr1_self (m : Bytes) (a : Nat) (b : Byte) : rd1 (wr1 m a b) a = b := by simp [rd1, wr1]

theorem rd1_wr1_ne (m : Bytes) (a c : Nat) (b : Byte) (h : a ≠ c) : rd1 (wr1 m a b) c = rd1 m c :=
  NMap.get_set_ne 0 m a c b h

/-- A byte outside the bytes written reads as before. -/
theorem rd1_wr_outside (m : Bytes) (a c : Nat) (bs : List Byte) (h : c < a ∨ a + bs.length ≤ c) :
    rd1 (wr m a bs) c = rd1 m c := by
  induction bs generalizing m a with
  | nil => rfl
  | cons b r ih =>
    simp only [List.length_cons] at h
    rw [wr, ih _ _ (by omega), rd1_wr1_ne _ _ _ _ (by omega)]

/-- A byte inside the bytes written reads as written. -/
theorem rd1_wr_inside (m : Bytes) (a i : Nat) (bs : List Byte) (h : i < bs.length) :
    rd1 (wr m a bs) (a + i) = bs[i] := by
  induction bs generalizing m a i with
  | nil => simp at h
  | cons b r ih =>
    cases i with
    | zero => rw [wr, rd1_wr_outside _ _ _ _ (by omega)]; simp
    | succ i =>
      simp only [List.length_cons] at h
      have := ih (wr1 m a b) (a + 1) i (by omega)
      rw [wr, show a + (i + 1) = a + 1 + i by omega, this]; rfl

theorem wf_wr1 (m : Bytes) (a : Nat) (b : Byte) (h : wf m = true) : wf (wr1 m a b) = true := NMap.wf_set 0 m a b h

theorem wf_wr (m : Bytes) (a : Nat) (bs : List Byte) (h : wf m = true) : wf (wr m a bs) = true := by
  induction bs generalizing m a with
  | nil => exact h
  | cons b r ih => exact ih _ _ (wf_wr1 m a b h)

theorem wf_zero (m : Bytes) (a n : Nat) (h : wf m = true) : wf (zero m a n) = true := NMap.wf_clear 0 m a n h

end Bytes

/-- Little-endian bytes: their number, their value and its bound. -/
@[simp] theorem leBytes_length (n v : Nat) : (leBytes n v).length = n := by
  induction n generalizing v with
  | zero => rfl
  | succ n ih => simp [leBytes, ih]

theorem leVal_lt (bs : List Byte) : leVal bs < 256 ^ bs.length := by
  induction bs with
  | nil => simp [leVal]
  | cons b r ih => have := b.isLt; simp only [leVal, List.length_cons, Nat.pow_succ]; omega

theorem leVal_leBytes (n v : Nat) : leVal (leBytes n v) = v % 256 ^ n := by
  induction n generalizing v with
  | zero => simp [leBytes, leVal, Nat.mod_one]
  | succ n ih =>
    rw [leBytes, leVal, ih, BitVec.toNat_ofNat, Nat.pow_succ 256 n, Nat.mul_comm (256 ^ n) 256, Nat.mod_mul]

end Sys2Proof
end

