-- ==== Sys2Proof/Laws/State.lean ====
section
/-! SUPPORT. One lemma per field per update of State, and what each part reads after an update of it. -/

namespace Sys2Proof.Machine

variable (s : State)

/-! ### setTile -/

@[simp] theorem State.pending_setTile (t : Nat) (x : Tile) : (s.setTile t x).pending = s.pending := rfl
@[simp] theorem State.pins_setTile (t : Nat) (x : Tile) : (s.setTile t x).pins = s.pins := rfl
@[simp] theorem State.boot_setTile (t : Nat) (x : Tile) : (s.setTile t x).boot = s.boot := rfl
@[simp] theorem State.clk_setTile (t : Nat) (x : Tile) : (s.setTile t x).clk = s.clk := rfl
@[simp] theorem State.port_setTile (t : Nat) (x : Tile) : (s.setTile t x).port = s.port := rfl
@[simp] theorem State.log_setTile (t : Nat) (x : Tile) : (s.setTile t x).log = s.log := rfl
@[simp] theorem State.trace_setTile (t : Nat) (x : Tile) : (s.setTile t x).trace = s.trace := rfl
@[simp] theorem State.cfg_setTile (t : Nat) (x : Tile) : (s.setTile t x).cfg = s.cfg := rfl
@[simp] theorem State.power_setTile (t : Nat) (x : Tile) : (s.setTile t x).power = s.power := rfl
@[simp] theorem State.mem_setTile (t : Nat) (x : Tile) : (s.setTile t x).mem = s.mem := rfl
@[simp] theorem State.links_setTile (t : Nat) (x : Tile) : (s.setTile t x).links = s.links := rfl
@[simp] theorem State.quads_setTile (t : Nat) (x : Tile) : (s.setTile t x).quads = s.quads := rfl
@[simp] theorem State.hbms_setTile (t : Nat) (x : Tile) : (s.setTile t x).hbms = s.hbms := rfl
@[simp] theorem State.fars_setTile (t : Nat) (x : Tile) : (s.setTile t x).fars = s.fars := rfl
@[simp] theorem State.partGen_setTile (t : Nat) (x : Tile) : (s.setTile t x).partGen = s.partGen := rfl
@[simp] theorem State.saddleRerouted_setTile (t : Nat) (x : Tile) : (s.setTile t x).saddleRerouted = s.saddleRerouted := rfl
@[simp] theorem State.qps_setTile (t : Nat) (x : Tile) : (s.setTile t x).qps = s.qps := rfl
@[simp] theorem State.ctxs_setTile (t : Nat) (x : Tile) : (s.setTile t x).ctxs = s.ctxs := rfl
@[simp] theorem State.models_setTile (t : Nat) (x : Tile) : (s.setTile t x).models = s.models := rfl
@[simp] theorem State.seqs_setTile (t : Nat) (x : Tile) : (s.setTile t x).seqs = s.seqs := rfl
@[simp] theorem State.prefixes_setTile (t : Nat) (x : Tile) : (s.setTile t x).prefixes = s.prefixes := rfl
@[simp] theorem State.works_setTile (t : Nat) (x : Tile) : (s.setTile t x).works = s.works := rfl
@[simp] theorem State.workNext_setTile (t : Nat) (x : Tile) : (s.setTile t x).workNext = s.workNext := rfl
@[simp] theorem State.rng_setTile (t : Nat) (x : Tile) : (s.setTile t x).rng = s.rng := rfl
@[simp] theorem State.signals_setTile (t : Nat) (x : Tile) : (s.setTile t x).signals = s.signals := rfl
@[simp] theorem State.barriers_setTile (t : Nat) (x : Tile) : (s.setTile t x).barriers = s.barriers := rfl
@[simp] theorem State.waits_setTile (t : Nat) (x : Tile) : (s.setTile t x).waits = s.waits := rfl
@[simp] theorem State.held_setTile (t : Nat) (x : Tile) : (s.setTile t x).held = s.held := rfl
@[simp] theorem State.windows_setTile (t : Nat) (x : Tile) : (s.setTile t x).windows = s.windows := rfl
@[simp] theorem State.disabled_setTile (t : Nat) (x : Tile) : (s.setTile t x).disabled = s.disabled := rfl
@[simp] theorem State.disabling_setTile (t : Nat) (x : Tile) : (s.setTile t x).disabling = s.disabling := rfl
@[simp] theorem State.resets_setTile (t : Nat) (x : Tile) : (s.setTile t x).resets = s.resets := rfl
@[simp] theorem State.advances_setTile (t : Nat) (x : Tile) : (s.setTile t x).advances = s.advances := rfl
@[simp] theorem State.ctrs_setTile (t : Nat) (x : Tile) : (s.setTile t x).ctrs = s.ctrs := rfl
@[simp] theorem State.snapBank_setTile (t : Nat) (x : Tile) : (s.setTile t x).snapBank = s.snapBank := rfl
@[simp] theorem State.snapAt_setTile (t : Nat) (x : Tile) : (s.setTile t x).snapAt = s.snapAt := rfl
@[simp] theorem State.snapPending_setTile (t : Nat) (x : Tile) : (s.setTile t x).snapPending = s.snapPending := rfl
@[simp] theorem State.dumps_setTile (t : Nat) (x : Tile) : (s.setTile t x).dumps = s.dumps := rfl
@[simp] theorem State.dumpNext_setTile (t : Nat) (x : Tile) : (s.setTile t x).dumpNext = s.dumpNext := rfl
@[simp] theorem State.openSeq_setTile (t : Nat) (x : Tile) : (s.setTile t x).openSeq = s.openSeq := rfl
@[simp] theorem State.remote_setTile (t : Nat) (x : Tile) : (s.setTile t x).remote = s.remote := rfl
@[simp] theorem State.freeCtr_setTile (t : Nat) (x : Tile) : (s.setTile t x).freeCtr = s.freeCtr := rfl

/-! ### modTile -/

@[simp] theorem State.pending_modTile (t : Nat) (f : Tile → Tile) : (s.modTile t f).pending = s.pending := rfl
@[simp] theorem State.pins_modTile (t : Nat) (f : Tile → Tile) : (s.modTile t f).pins = s.pins := rfl
@[simp] theorem State.boot_modTile (t : Nat) (f : Tile → Tile) : (s.modTile t f).boot = s.boot := rfl
@[simp] theorem State.clk_modTile (t : Nat) (f : Tile → Tile) : (s.modTile t f).clk = s.clk := rfl
@[simp] theorem State.port_modTile (t : Nat) (f : Tile → Tile) : (s.modTile t f).port = s.port := rfl
@[simp] theorem State.log_modTile (t : Nat) (f : Tile → Tile) : (s.modTile t f).log = s.log := rfl
@[simp] theorem State.trace_modTile (t : Nat) (f : Tile → Tile) : (s.modTile t f).trace = s.trace := rfl
@[simp] theorem State.cfg_modTile (t : Nat) (f : Tile → Tile) : (s.modTile t f).cfg = s.cfg := rfl
@[simp] theorem State.power_modTile (t : Nat) (f : Tile → Tile) : (s.modTile t f).power = s.power := rfl
@[simp] theorem State.mem_modTile (t : Nat) (f : Tile → Tile) : (s.modTile t f).mem = s.mem := rfl
@[simp] theorem State.links_modTile (t : Nat) (f : Tile → Tile) : (s.modTile t f).links = s.links := rfl
@[simp] theorem State.quads_modTile (t : Nat) (f : Tile → Tile) : (s.modTile t f).quads = s.quads := rfl
@[simp] theorem State.hbms_modTile (t : Nat) (f : Tile → Tile) : (s.modTile t f).hbms = s.hbms := rfl
@[simp] theorem State.fars_modTile (t : Nat) (f : Tile → Tile) : (s.modTile t f).fars = s.fars := rfl
@[simp] theorem State.partGen_modTile (t : Nat) (f : Tile → Tile) : (s.modTile t f).partGen = s.partGen := rfl
@[simp] theorem State.saddleRerouted_modTile (t : Nat) (f : Tile → Tile) : (s.modTile t f).saddleRerouted = s.saddleRerouted := rfl
@[simp] theorem State.qps_modTile (t : Nat) (f : Tile → Tile) : (s.modTile t f).qps = s.qps := rfl
@[simp] theorem State.ctxs_modTile (t : Nat) (f : Tile → Tile) : (s.modTile t f).ctxs = s.ctxs := rfl
@[simp] theorem State.models_modTile (t : Nat) (f : Tile → Tile) : (s.modTile t f).models = s.models := rfl
@[simp] theorem State.seqs_modTile (t : Nat) (f : Tile → Tile) : (s.modTile t f).seqs = s.seqs := rfl
@[simp] theorem State.prefixes_modTile (t : Nat) (f : Tile → Tile) : (s.modTile t f).prefixes = s.prefixes := rfl
@[simp] theorem State.works_modTile (t : Nat) (f : Tile → Tile) : (s.modTile t f).works = s.works := rfl
@[simp] theorem State.workNext_modTile (t : Nat) (f : Tile → Tile) : (s.modTile t f).workNext = s.workNext := rfl
@[simp] theorem State.rng_modTile (t : Nat) (f : Tile → Tile) : (s.modTile t f).rng = s.rng := rfl
@[simp] theorem State.signals_modTile (t : Nat) (f : Tile → Tile) : (s.modTile t f).signals = s.signals := rfl
@[simp] theorem State.barriers_modTile (t : Nat) (f : Tile → Tile) : (s.modTile t f).barriers = s.barriers := rfl
@[simp] theorem State.waits_modTile (t : Nat) (f : Tile → Tile) : (s.modTile t f).waits = s.waits := rfl
@[simp] theorem State.held_modTile (t : Nat) (f : Tile → Tile) : (s.modTile t f).held = s.held := rfl
@[simp] theorem State.windows_modTile (t : Nat) (f : Tile → Tile) : (s.modTile t f).windows = s.windows := rfl
@[simp] theorem State.disabled_modTile (t : Nat) (f : Tile → Tile) : (s.modTile t f).disabled = s.disabled := rfl
@[simp] theorem State.disabling_modTile (t : Nat) (f : Tile → Tile) : (s.modTile t f).disabling = s.disabling := rfl
@[simp] theorem State.resets_modTile (t : Nat) (f : Tile → Tile) : (s.modTile t f).resets = s.resets := rfl
@[simp] theorem State.advances_modTile (t : Nat) (f : Tile → Tile) : (s.modTile t f).advances = s.advances := rfl
@[simp] theorem State.ctrs_modTile (t : Nat) (f : Tile → Tile) : (s.modTile t f).ctrs = s.ctrs := rfl
@[simp] theorem State.snapBank_modTile (t : Nat) (f : Tile → Tile) : (s.modTile t f).snapBank = s.snapBank := rfl
@[simp] theorem State.snapAt_modTile (t : Nat) (f : Tile → Tile) : (s.modTile t f).snapAt = s.snapAt := rfl
@[simp] theorem State.snapPending_modTile (t : Nat) (f : Tile → Tile) : (s.modTile t f).snapPending = s.snapPending := rfl
@[simp] theorem State.dumps_modTile (t : Nat) (f : Tile → Tile) : (s.modTile t f).dumps = s.dumps := rfl
@[simp] theorem State.dumpNext_modTile (t : Nat) (f : Tile → Tile) : (s.modTile t f).dumpNext = s.dumpNext := rfl
@[simp] theorem State.openSeq_modTile (t : Nat) (f : Tile → Tile) : (s.modTile t f).openSeq = s.openSeq := rfl
@[simp] theorem State.remote_modTile (t : Nat) (f : Tile → Tile) : (s.modTile t f).remote = s.remote := rfl
@[simp] theorem State.freeCtr_modTile (t : Nat) (f : Tile → Tile) : (s.modTile t f).freeCtr = s.freeCtr := rfl

/-! ### modCore -/

@[simp] theorem State.pending_modCore (t : Nat) (f : Core → Core) : (s.modCore t f).pending = s.pending := rfl
@[simp] theorem State.pins_modCore (t : Nat) (f : Core → Core) : (s.modCore t f).pins = s.pins := rfl
@[simp] theorem State.boot_modCore (t : Nat) (f : Core → Core) : (s.modCore t f).boot = s.boot := rfl
@[simp] theorem State.clk_modCore (t : Nat) (f : Core → Core) : (s.modCore t f).clk = s.clk := rfl
@[simp] theorem State.port_modCore (t : Nat) (f : Core → Core) : (s.modCore t f).port = s.port := rfl
@[simp] theorem State.log_modCore (t : Nat) (f : Core → Core) : (s.modCore t f).log = s.log := rfl
@[simp] theorem State.trace_modCore (t : Nat) (f : Core → Core) : (s.modCore t f).trace = s.trace := rfl
@[simp] theorem State.cfg_modCore (t : Nat) (f : Core → Core) : (s.modCore t f).cfg = s.cfg := rfl
@[simp] theorem State.power_modCore (t : Nat) (f : Core → Core) : (s.modCore t f).power = s.power := rfl
@[simp] theorem State.mem_modCore (t : Nat) (f : Core → Core) : (s.modCore t f).mem = s.mem := rfl
@[simp] theorem State.links_modCore (t : Nat) (f : Core → Core) : (s.modCore t f).links = s.links := rfl
@[simp] theorem State.quads_modCore (t : Nat) (f : Core → Core) : (s.modCore t f).quads = s.quads := rfl
@[simp] theorem State.hbms_modCore (t : Nat) (f : Core → Core) : (s.modCore t f).hbms = s.hbms := rfl
@[simp] theorem State.fars_modCore (t : Nat) (f : Core → Core) : (s.modCore t f).fars = s.fars := rfl
@[simp] theorem State.partGen_modCore (t : Nat) (f : Core → Core) : (s.modCore t f).partGen = s.partGen := rfl
@[simp] theorem State.saddleRerouted_modCore (t : Nat) (f : Core → Core) : (s.modCore t f).saddleRerouted = s.saddleRerouted := rfl
@[simp] theorem State.qps_modCore (t : Nat) (f : Core → Core) : (s.modCore t f).qps = s.qps := rfl
@[simp] theorem State.ctxs_modCore (t : Nat) (f : Core → Core) : (s.modCore t f).ctxs = s.ctxs := rfl
@[simp] theorem State.models_modCore (t : Nat) (f : Core → Core) : (s.modCore t f).models = s.models := rfl
@[simp] theorem State.seqs_modCore (t : Nat) (f : Core → Core) : (s.modCore t f).seqs = s.seqs := rfl
@[simp] theorem State.prefixes_modCore (t : Nat) (f : Core → Core) : (s.modCore t f).prefixes = s.prefixes := rfl
@[simp] theorem State.works_modCore (t : Nat) (f : Core → Core) : (s.modCore t f).works = s.works := rfl
@[simp] theorem State.workNext_modCore (t : Nat) (f : Core → Core) : (s.modCore t f).workNext = s.workNext := rfl
@[simp] theorem State.rng_modCore (t : Nat) (f : Core → Core) : (s.modCore t f).rng = s.rng := rfl
@[simp] theorem State.signals_modCore (t : Nat) (f : Core → Core) : (s.modCore t f).signals = s.signals := rfl
@[simp] theorem State.barriers_modCore (t : Nat) (f : Core → Core) : (s.modCore t f).barriers = s.barriers := rfl
@[simp] theorem State.waits_modCore (t : Nat) (f : Core → Core) : (s.modCore t f).waits = s.waits := rfl
@[simp] theorem State.held_modCore (t : Nat) (f : Core → Core) : (s.modCore t f).held = s.held := rfl
@[simp] theorem State.windows_modCore (t : Nat) (f : Core → Core) : (s.modCore t f).windows = s.windows := rfl
@[simp] theorem State.disabled_modCore (t : Nat) (f : Core → Core) : (s.modCore t f).disabled = s.disabled := rfl
@[simp] theorem State.disabling_modCore (t : Nat) (f : Core → Core) : (s.modCore t f).disabling = s.disabling := rfl
@[simp] theorem State.resets_modCore (t : Nat) (f : Core → Core) : (s.modCore t f).resets = s.resets := rfl
@[simp] theorem State.advances_modCore (t : Nat) (f : Core → Core) : (s.modCore t f).advances = s.advances := rfl
@[simp] theorem State.ctrs_modCore (t : Nat) (f : Core → Core) : (s.modCore t f).ctrs = s.ctrs := rfl
@[simp] theorem State.snapBank_modCore (t : Nat) (f : Core → Core) : (s.modCore t f).snapBank = s.snapBank := rfl
@[simp] theorem State.snapAt_modCore (t : Nat) (f : Core → Core) : (s.modCore t f).snapAt = s.snapAt := rfl
@[simp] theorem State.snapPending_modCore (t : Nat) (f : Core → Core) : (s.modCore t f).snapPending = s.snapPending := rfl
@[simp] theorem State.dumps_modCore (t : Nat) (f : Core → Core) : (s.modCore t f).dumps = s.dumps := rfl
@[simp] theorem State.dumpNext_modCore (t : Nat) (f : Core → Core) : (s.modCore t f).dumpNext = s.dumpNext := rfl
@[simp] theorem State.openSeq_modCore (t : Nat) (f : Core → Core) : (s.modCore t f).openSeq = s.openSeq := rfl
@[simp] theorem State.remote_modCore (t : Nat) (f : Core → Core) : (s.modCore t f).remote = s.remote := rfl
@[simp] theorem State.freeCtr_modCore (t : Nat) (f : Core → Core) : (s.modCore t f).freeCtr = s.freeCtr := rfl

/-! ### modQuad -/

@[simp] theorem State.pending_modQuad (q : Nat) (f : Quad → Quad) : (s.modQuad q f).pending = s.pending := rfl
@[simp] theorem State.pins_modQuad (q : Nat) (f : Quad → Quad) : (s.modQuad q f).pins = s.pins := rfl
@[simp] theorem State.boot_modQuad (q : Nat) (f : Quad → Quad) : (s.modQuad q f).boot = s.boot := rfl
@[simp] theorem State.clk_modQuad (q : Nat) (f : Quad → Quad) : (s.modQuad q f).clk = s.clk := rfl
@[simp] theorem State.port_modQuad (q : Nat) (f : Quad → Quad) : (s.modQuad q f).port = s.port := rfl
@[simp] theorem State.log_modQuad (q : Nat) (f : Quad → Quad) : (s.modQuad q f).log = s.log := rfl
@[simp] theorem State.trace_modQuad (q : Nat) (f : Quad → Quad) : (s.modQuad q f).trace = s.trace := rfl
@[simp] theorem State.cfg_modQuad (q : Nat) (f : Quad → Quad) : (s.modQuad q f).cfg = s.cfg := rfl
@[simp] theorem State.power_modQuad (q : Nat) (f : Quad → Quad) : (s.modQuad q f).power = s.power := rfl
@[simp] theorem State.mem_modQuad (q : Nat) (f : Quad → Quad) : (s.modQuad q f).mem = s.mem := rfl
@[simp] theorem State.links_modQuad (q : Nat) (f : Quad → Quad) : (s.modQuad q f).links = s.links := rfl
@[simp] theorem State.tiles_modQuad (q : Nat) (f : Quad → Quad) : (s.modQuad q f).tiles = s.tiles := rfl
@[simp] theorem State.hbms_modQuad (q : Nat) (f : Quad → Quad) : (s.modQuad q f).hbms = s.hbms := rfl
@[simp] theorem State.fars_modQuad (q : Nat) (f : Quad → Quad) : (s.modQuad q f).fars = s.fars := rfl
@[simp] theorem State.partGen_modQuad (q : Nat) (f : Quad → Quad) : (s.modQuad q f).partGen = s.partGen := rfl
@[simp] theorem State.saddleRerouted_modQuad (q : Nat) (f : Quad → Quad) : (s.modQuad q f).saddleRerouted = s.saddleRerouted := rfl
@[simp] theorem State.qps_modQuad (q : Nat) (f : Quad → Quad) : (s.modQuad q f).qps = s.qps := rfl
@[simp] theorem State.ctxs_modQuad (q : Nat) (f : Quad → Quad) : (s.modQuad q f).ctxs = s.ctxs := rfl
@[simp] theorem State.models_modQuad (q : Nat) (f : Quad → Quad) : (s.modQuad q f).models = s.models := rfl
@[simp] theorem State.seqs_modQuad (q : Nat) (f : Quad → Quad) : (s.modQuad q f).seqs = s.seqs := rfl
@[simp] theorem State.prefixes_modQuad (q : Nat) (f : Quad → Quad) : (s.modQuad q f).prefixes = s.prefixes := rfl
@[simp] theorem State.works_modQuad (q : Nat) (f : Quad → Quad) : (s.modQuad q f).works = s.works := rfl
@[simp] theorem State.workNext_modQuad (q : Nat) (f : Quad → Quad) : (s.modQuad q f).workNext = s.workNext := rfl
@[simp] theorem State.rng_modQuad (q : Nat) (f : Quad → Quad) : (s.modQuad q f).rng = s.rng := rfl
@[simp] theorem State.signals_modQuad (q : Nat) (f : Quad → Quad) : (s.modQuad q f).signals = s.signals := rfl
@[simp] theorem State.barriers_modQuad (q : Nat) (f : Quad → Quad) : (s.modQuad q f).barriers = s.barriers := rfl
@[simp] theorem State.waits_modQuad (q : Nat) (f : Quad → Quad) : (s.modQuad q f).waits = s.waits := rfl
@[simp] theorem State.held_modQuad (q : Nat) (f : Quad → Quad) : (s.modQuad q f).held = s.held := rfl
@[simp] theorem State.windows_modQuad (q : Nat) (f : Quad → Quad) : (s.modQuad q f).windows = s.windows := rfl
@[simp] theorem State.disabled_modQuad (q : Nat) (f : Quad → Quad) : (s.modQuad q f).disabled = s.disabled := rfl
@[simp] theorem State.disabling_modQuad (q : Nat) (f : Quad → Quad) : (s.modQuad q f).disabling = s.disabling := rfl
@[simp] theorem State.resets_modQuad (q : Nat) (f : Quad → Quad) : (s.modQuad q f).resets = s.resets := rfl
@[simp] theorem State.advances_modQuad (q : Nat) (f : Quad → Quad) : (s.modQuad q f).advances = s.advances := rfl
@[simp] theorem State.ctrs_modQuad (q : Nat) (f : Quad → Quad) : (s.modQuad q f).ctrs = s.ctrs := rfl
@[simp] theorem State.snapBank_modQuad (q : Nat) (f : Quad → Quad) : (s.modQuad q f).snapBank = s.snapBank := rfl
@[simp] theorem State.snapAt_modQuad (q : Nat) (f : Quad → Quad) : (s.modQuad q f).snapAt = s.snapAt := rfl
@[simp] theorem State.snapPending_modQuad (q : Nat) (f : Quad → Quad) : (s.modQuad q f).snapPending = s.snapPending := rfl
@[simp] theorem State.dumps_modQuad (q : Nat) (f : Quad → Quad) : (s.modQuad q f).dumps = s.dumps := rfl
@[simp] theorem State.dumpNext_modQuad (q : Nat) (f : Quad → Quad) : (s.modQuad q f).dumpNext = s.dumpNext := rfl
@[simp] theorem State.openSeq_modQuad (q : Nat) (f : Quad → Quad) : (s.modQuad q f).openSeq = s.openSeq := rfl
@[simp] theorem State.remote_modQuad (q : Nat) (f : Quad → Quad) : (s.modQuad q f).remote = s.remote := rfl
@[simp] theorem State.freeCtr_modQuad (q : Nat) (f : Quad → Quad) : (s.modQuad q f).freeCtr = s.freeCtr := rfl

/-! ### modStack -/

@[simp] theorem State.pending_modStack (k : Nat) (f : Stack → Stack) : (s.modStack k f).pending = s.pending := rfl
@[simp] theorem State.pins_modStack (k : Nat) (f : Stack → Stack) : (s.modStack k f).pins = s.pins := rfl
@[simp] theorem State.boot_modStack (k : Nat) (f : Stack → Stack) : (s.modStack k f).boot = s.boot := rfl
@[simp] theorem State.clk_modStack (k : Nat) (f : Stack → Stack) : (s.modStack k f).clk = s.clk := rfl
@[simp] theorem State.port_modStack (k : Nat) (f : Stack → Stack) : (s.modStack k f).port = s.port := rfl
@[simp] theorem State.log_modStack (k : Nat) (f : Stack → Stack) : (s.modStack k f).log = s.log := rfl
@[simp] theorem State.trace_modStack (k : Nat) (f : Stack → Stack) : (s.modStack k f).trace = s.trace := rfl
@[simp] theorem State.cfg_modStack (k : Nat) (f : Stack → Stack) : (s.modStack k f).cfg = s.cfg := rfl
@[simp] theorem State.power_modStack (k : Nat) (f : Stack → Stack) : (s.modStack k f).power = s.power := rfl
@[simp] theorem State.mem_modStack (k : Nat) (f : Stack → Stack) : (s.modStack k f).mem = s.mem := rfl
@[simp] theorem State.links_modStack (k : Nat) (f : Stack → Stack) : (s.modStack k f).links = s.links := rfl
@[simp] theorem State.tiles_modStack (k : Nat) (f : Stack → Stack) : (s.modStack k f).tiles = s.tiles := rfl
@[simp] theorem State.quads_modStack (k : Nat) (f : Stack → Stack) : (s.modStack k f).quads = s.quads := rfl
@[simp] theorem State.fars_modStack (k : Nat) (f : Stack → Stack) : (s.modStack k f).fars = s.fars := rfl
@[simp] theorem State.partGen_modStack (k : Nat) (f : Stack → Stack) : (s.modStack k f).partGen = s.partGen := rfl
@[simp] theorem State.saddleRerouted_modStack (k : Nat) (f : Stack → Stack) : (s.modStack k f).saddleRerouted = s.saddleRerouted := rfl
@[simp] theorem State.qps_modStack (k : Nat) (f : Stack → Stack) : (s.modStack k f).qps = s.qps := rfl
@[simp] theorem State.ctxs_modStack (k : Nat) (f : Stack → Stack) : (s.modStack k f).ctxs = s.ctxs := rfl
@[simp] theorem State.models_modStack (k : Nat) (f : Stack → Stack) : (s.modStack k f).models = s.models := rfl
@[simp] theorem State.seqs_modStack (k : Nat) (f : Stack → Stack) : (s.modStack k f).seqs = s.seqs := rfl
@[simp] theorem State.prefixes_modStack (k : Nat) (f : Stack → Stack) : (s.modStack k f).prefixes = s.prefixes := rfl
@[simp] theorem State.works_modStack (k : Nat) (f : Stack → Stack) : (s.modStack k f).works = s.works := rfl
@[simp] theorem State.workNext_modStack (k : Nat) (f : Stack → Stack) : (s.modStack k f).workNext = s.workNext := rfl
@[simp] theorem State.rng_modStack (k : Nat) (f : Stack → Stack) : (s.modStack k f).rng = s.rng := rfl
@[simp] theorem State.signals_modStack (k : Nat) (f : Stack → Stack) : (s.modStack k f).signals = s.signals := rfl
@[simp] theorem State.barriers_modStack (k : Nat) (f : Stack → Stack) : (s.modStack k f).barriers = s.barriers := rfl
@[simp] theorem State.waits_modStack (k : Nat) (f : Stack → Stack) : (s.modStack k f).waits = s.waits := rfl
@[simp] theorem State.held_modStack (k : Nat) (f : Stack → Stack) : (s.modStack k f).held = s.held := rfl
@[simp] theorem State.windows_modStack (k : Nat) (f : Stack → Stack) : (s.modStack k f).windows = s.windows := rfl
@[simp] theorem State.disabled_modStack (k : Nat) (f : Stack → Stack) : (s.modStack k f).disabled = s.disabled := rfl
@[simp] theorem State.disabling_modStack (k : Nat) (f : Stack → Stack) : (s.modStack k f).disabling = s.disabling := rfl
@[simp] theorem State.resets_modStack (k : Nat) (f : Stack → Stack) : (s.modStack k f).resets = s.resets := rfl
@[simp] theorem State.advances_modStack (k : Nat) (f : Stack → Stack) : (s.modStack k f).advances = s.advances := rfl
@[simp] theorem State.ctrs_modStack (k : Nat) (f : Stack → Stack) : (s.modStack k f).ctrs = s.ctrs := rfl
@[simp] theorem State.snapBank_modStack (k : Nat) (f : Stack → Stack) : (s.modStack k f).snapBank = s.snapBank := rfl
@[simp] theorem State.snapAt_modStack (k : Nat) (f : Stack → Stack) : (s.modStack k f).snapAt = s.snapAt := rfl
@[simp] theorem State.snapPending_modStack (k : Nat) (f : Stack → Stack) : (s.modStack k f).snapPending = s.snapPending := rfl
@[simp] theorem State.dumps_modStack (k : Nat) (f : Stack → Stack) : (s.modStack k f).dumps = s.dumps := rfl
@[simp] theorem State.dumpNext_modStack (k : Nat) (f : Stack → Stack) : (s.modStack k f).dumpNext = s.dumpNext := rfl
@[simp] theorem State.openSeq_modStack (k : Nat) (f : Stack → Stack) : (s.modStack k f).openSeq = s.openSeq := rfl
@[simp] theorem State.remote_modStack (k : Nat) (f : Stack → Stack) : (s.modStack k f).remote = s.remote := rfl
@[simp] theorem State.freeCtr_modStack (k : Nat) (f : Stack → Stack) : (s.modStack k f).freeCtr = s.freeCtr := rfl

/-! ### modFar -/

@[simp] theorem State.pending_modFar (p : Nat) (f : Far → Far) : (s.modFar p f).pending = s.pending := rfl
@[simp] theorem State.pins_modFar (p : Nat) (f : Far → Far) : (s.modFar p f).pins = s.pins := rfl
@[simp] theorem State.boot_modFar (p : Nat) (f : Far → Far) : (s.modFar p f).boot = s.boot := rfl
@[simp] theorem State.clk_modFar (p : Nat) (f : Far → Far) : (s.modFar p f).clk = s.clk := rfl
@[simp] theorem State.port_modFar (p : Nat) (f : Far → Far) : (s.modFar p f).port = s.port := rfl
@[simp] theorem State.log_modFar (p : Nat) (f : Far → Far) : (s.modFar p f).log = s.log := rfl
@[simp] theorem State.trace_modFar (p : Nat) (f : Far → Far) : (s.modFar p f).trace = s.trace := rfl
@[simp] theorem State.cfg_modFar (p : Nat) (f : Far → Far) : (s.modFar p f).cfg = s.cfg := rfl
@[simp] theorem State.power_modFar (p : Nat) (f : Far → Far) : (s.modFar p f).power = s.power := rfl
@[simp] theorem State.mem_modFar (p : Nat) (f : Far → Far) : (s.modFar p f).mem = s.mem := rfl
@[simp] theorem State.links_modFar (p : Nat) (f : Far → Far) : (s.modFar p f).links = s.links := rfl
@[simp] theorem State.tiles_modFar (p : Nat) (f : Far → Far) : (s.modFar p f).tiles = s.tiles := rfl
@[simp] theorem State.quads_modFar (p : Nat) (f : Far → Far) : (s.modFar p f).quads = s.quads := rfl
@[simp] theorem State.hbms_modFar (p : Nat) (f : Far → Far) : (s.modFar p f).hbms = s.hbms := rfl
@[simp] theorem State.partGen_modFar (p : Nat) (f : Far → Far) : (s.modFar p f).partGen = s.partGen := rfl
@[simp] theorem State.saddleRerouted_modFar (p : Nat) (f : Far → Far) : (s.modFar p f).saddleRerouted = s.saddleRerouted := rfl
@[simp] theorem State.qps_modFar (p : Nat) (f : Far → Far) : (s.modFar p f).qps = s.qps := rfl
@[simp] theorem State.ctxs_modFar (p : Nat) (f : Far → Far) : (s.modFar p f).ctxs = s.ctxs := rfl
@[simp] theorem State.models_modFar (p : Nat) (f : Far → Far) : (s.modFar p f).models = s.models := rfl
@[simp] theorem State.seqs_modFar (p : Nat) (f : Far → Far) : (s.modFar p f).seqs = s.seqs := rfl
@[simp] theorem State.prefixes_modFar (p : Nat) (f : Far → Far) : (s.modFar p f).prefixes = s.prefixes := rfl
@[simp] theorem State.works_modFar (p : Nat) (f : Far → Far) : (s.modFar p f).works = s.works := rfl
@[simp] theorem State.workNext_modFar (p : Nat) (f : Far → Far) : (s.modFar p f).workNext = s.workNext := rfl
@[simp] theorem State.rng_modFar (p : Nat) (f : Far → Far) : (s.modFar p f).rng = s.rng := rfl
@[simp] theorem State.signals_modFar (p : Nat) (f : Far → Far) : (s.modFar p f).signals = s.signals := rfl
@[simp] theorem State.barriers_modFar (p : Nat) (f : Far → Far) : (s.modFar p f).barriers = s.barriers := rfl
@[simp] theorem State.waits_modFar (p : Nat) (f : Far → Far) : (s.modFar p f).waits = s.waits := rfl
@[simp] theorem State.held_modFar (p : Nat) (f : Far → Far) : (s.modFar p f).held = s.held := rfl
@[simp] theorem State.windows_modFar (p : Nat) (f : Far → Far) : (s.modFar p f).windows = s.windows := rfl
@[simp] theorem State.disabled_modFar (p : Nat) (f : Far → Far) : (s.modFar p f).disabled = s.disabled := rfl
@[simp] theorem State.disabling_modFar (p : Nat) (f : Far → Far) : (s.modFar p f).disabling = s.disabling := rfl
@[simp] theorem State.resets_modFar (p : Nat) (f : Far → Far) : (s.modFar p f).resets = s.resets := rfl
@[simp] theorem State.advances_modFar (p : Nat) (f : Far → Far) : (s.modFar p f).advances = s.advances := rfl
@[simp] theorem State.ctrs_modFar (p : Nat) (f : Far → Far) : (s.modFar p f).ctrs = s.ctrs := rfl
@[simp] theorem State.snapBank_modFar (p : Nat) (f : Far → Far) : (s.modFar p f).snapBank = s.snapBank := rfl
@[simp] theorem State.snapAt_modFar (p : Nat) (f : Far → Far) : (s.modFar p f).snapAt = s.snapAt := rfl
@[simp] theorem State.snapPending_modFar (p : Nat) (f : Far → Far) : (s.modFar p f).snapPending = s.snapPending := rfl
@[simp] theorem State.dumps_modFar (p : Nat) (f : Far → Far) : (s.modFar p f).dumps = s.dumps := rfl
@[simp] theorem State.dumpNext_modFar (p : Nat) (f : Far → Far) : (s.modFar p f).dumpNext = s.dumpNext := rfl
@[simp] theorem State.openSeq_modFar (p : Nat) (f : Far → Far) : (s.modFar p f).openSeq = s.openSeq := rfl
@[simp] theorem State.remote_modFar (p : Nat) (f : Far → Far) : (s.modFar p f).remote = s.remote := rfl
@[simp] theorem State.freeCtr_modFar (p : Nat) (f : Far → Far) : (s.modFar p f).freeCtr = s.freeCtr := rfl

/-! ### modOhm -/

@[simp] theorem State.pending_modOhm (p : Nat) (f : Port → Port) : (s.modOhm p f).pending = s.pending := rfl
@[simp] theorem State.pins_modOhm (p : Nat) (f : Port → Port) : (s.modOhm p f).pins = s.pins := rfl
@[simp] theorem State.boot_modOhm (p : Nat) (f : Port → Port) : (s.modOhm p f).boot = s.boot := rfl
@[simp] theorem State.clk_modOhm (p : Nat) (f : Port → Port) : (s.modOhm p f).clk = s.clk := rfl
@[simp] theorem State.port_modOhm (p : Nat) (f : Port → Port) : (s.modOhm p f).port = s.port := rfl
@[simp] theorem State.log_modOhm (p : Nat) (f : Port → Port) : (s.modOhm p f).log = s.log := rfl
@[simp] theorem State.trace_modOhm (p : Nat) (f : Port → Port) : (s.modOhm p f).trace = s.trace := rfl
@[simp] theorem State.cfg_modOhm (p : Nat) (f : Port → Port) : (s.modOhm p f).cfg = s.cfg := rfl
@[simp] theorem State.power_modOhm (p : Nat) (f : Port → Port) : (s.modOhm p f).power = s.power := rfl
@[simp] theorem State.mem_modOhm (p : Nat) (f : Port → Port) : (s.modOhm p f).mem = s.mem := rfl
@[simp] theorem State.tiles_modOhm (p : Nat) (f : Port → Port) : (s.modOhm p f).tiles = s.tiles := rfl
@[simp] theorem State.quads_modOhm (p : Nat) (f : Port → Port) : (s.modOhm p f).quads = s.quads := rfl
@[simp] theorem State.hbms_modOhm (p : Nat) (f : Port → Port) : (s.modOhm p f).hbms = s.hbms := rfl
@[simp] theorem State.fars_modOhm (p : Nat) (f : Port → Port) : (s.modOhm p f).fars = s.fars := rfl
@[simp] theorem State.partGen_modOhm (p : Nat) (f : Port → Port) : (s.modOhm p f).partGen = s.partGen := rfl
@[simp] theorem State.saddleRerouted_modOhm (p : Nat) (f : Port → Port) : (s.modOhm p f).saddleRerouted = s.saddleRerouted := rfl
@[simp] theorem State.qps_modOhm (p : Nat) (f : Port → Port) : (s.modOhm p f).qps = s.qps := rfl
@[simp] theorem State.ctxs_modOhm (p : Nat) (f : Port → Port) : (s.modOhm p f).ctxs = s.ctxs := rfl
@[simp] theorem State.models_modOhm (p : Nat) (f : Port → Port) : (s.modOhm p f).models = s.models := rfl
@[simp] theorem State.seqs_modOhm (p : Nat) (f : Port → Port) : (s.modOhm p f).seqs = s.seqs := rfl
@[simp] theorem State.prefixes_modOhm (p : Nat) (f : Port → Port) : (s.modOhm p f).prefixes = s.prefixes := rfl
@[simp] theorem State.works_modOhm (p : Nat) (f : Port → Port) : (s.modOhm p f).works = s.works := rfl
@[simp] theorem State.workNext_modOhm (p : Nat) (f : Port → Port) : (s.modOhm p f).workNext = s.workNext := rfl
@[simp] theorem State.rng_modOhm (p : Nat) (f : Port → Port) : (s.modOhm p f).rng = s.rng := rfl
@[simp] theorem State.signals_modOhm (p : Nat) (f : Port → Port) : (s.modOhm p f).signals = s.signals := rfl
@[simp] theorem State.barriers_modOhm (p : Nat) (f : Port → Port) : (s.modOhm p f).barriers = s.barriers := rfl
@[simp] theorem State.waits_modOhm (p : Nat) (f : Port → Port) : (s.modOhm p f).waits = s.waits := rfl
@[simp] theorem State.held_modOhm (p : Nat) (f : Port → Port) : (s.modOhm p f).held = s.held := rfl
@[simp] theorem State.windows_modOhm (p : Nat) (f : Port → Port) : (s.modOhm p f).windows = s.windows := rfl
@[simp] theorem State.disabled_modOhm (p : Nat) (f : Port → Port) : (s.modOhm p f).disabled = s.disabled := rfl
@[simp] theorem State.disabling_modOhm (p : Nat) (f : Port → Port) : (s.modOhm p f).disabling = s.disabling := rfl
@[simp] theorem State.resets_modOhm (p : Nat) (f : Port → Port) : (s.modOhm p f).resets = s.resets := rfl
@[simp] theorem State.advances_modOhm (p : Nat) (f : Port → Port) : (s.modOhm p f).advances = s.advances := rfl
@[simp] theorem State.ctrs_modOhm (p : Nat) (f : Port → Port) : (s.modOhm p f).ctrs = s.ctrs := rfl
@[simp] theorem State.snapBank_modOhm (p : Nat) (f : Port → Port) : (s.modOhm p f).snapBank = s.snapBank := rfl
@[simp] theorem State.snapAt_modOhm (p : Nat) (f : Port → Port) : (s.modOhm p f).snapAt = s.snapAt := rfl
@[simp] theorem State.snapPending_modOhm (p : Nat) (f : Port → Port) : (s.modOhm p f).snapPending = s.snapPending := rfl
@[simp] theorem State.dumps_modOhm (p : Nat) (f : Port → Port) : (s.modOhm p f).dumps = s.dumps := rfl
@[simp] theorem State.dumpNext_modOhm (p : Nat) (f : Port → Port) : (s.modOhm p f).dumpNext = s.dumpNext := rfl
@[simp] theorem State.openSeq_modOhm (p : Nat) (f : Port → Port) : (s.modOhm p f).openSeq = s.openSeq := rfl
@[simp] theorem State.remote_modOhm (p : Nat) (f : Port → Port) : (s.modOhm p f).remote = s.remote := rfl
@[simp] theorem State.freeCtr_modOhm (p : Nat) (f : Port → Port) : (s.modOhm p f).freeCtr = s.freeCtr := rfl

/-! ### modQp -/

@[simp] theorem State.pending_modQp (q : Nat) (f : Qp → Qp) : (s.modQp q f).pending = s.pending := rfl
@[simp] theorem State.pins_modQp (q : Nat) (f : Qp → Qp) : (s.modQp q f).pins = s.pins := rfl
@[simp] theorem State.boot_modQp (q : Nat) (f : Qp → Qp) : (s.modQp q f).boot = s.boot := rfl
@[simp] theorem State.clk_modQp (q : Nat) (f : Qp → Qp) : (s.modQp q f).clk = s.clk := rfl
@[simp] theorem State.port_modQp (q : Nat) (f : Qp → Qp) : (s.modQp q f).port = s.port := rfl
@[simp] theorem State.log_modQp (q : Nat) (f : Qp → Qp) : (s.modQp q f).log = s.log := rfl
@[simp] theorem State.trace_modQp (q : Nat) (f : Qp → Qp) : (s.modQp q f).trace = s.trace := rfl
@[simp] theorem State.cfg_modQp (q : Nat) (f : Qp → Qp) : (s.modQp q f).cfg = s.cfg := rfl
@[simp] theorem State.power_modQp (q : Nat) (f : Qp → Qp) : (s.modQp q f).power = s.power := rfl
@[simp] theorem State.mem_modQp (q : Nat) (f : Qp → Qp) : (s.modQp q f).mem = s.mem := rfl
@[simp] theorem State.links_modQp (q : Nat) (f : Qp → Qp) : (s.modQp q f).links = s.links := rfl
@[simp] theorem State.tiles_modQp (q : Nat) (f : Qp → Qp) : (s.modQp q f).tiles = s.tiles := rfl
@[simp] theorem State.quads_modQp (q : Nat) (f : Qp → Qp) : (s.modQp q f).quads = s.quads := rfl
@[simp] theorem State.hbms_modQp (q : Nat) (f : Qp → Qp) : (s.modQp q f).hbms = s.hbms := rfl
@[simp] theorem State.fars_modQp (q : Nat) (f : Qp → Qp) : (s.modQp q f).fars = s.fars := rfl
@[simp] theorem State.partGen_modQp (q : Nat) (f : Qp → Qp) : (s.modQp q f).partGen = s.partGen := rfl
@[simp] theorem State.saddleRerouted_modQp (q : Nat) (f : Qp → Qp) : (s.modQp q f).saddleRerouted = s.saddleRerouted := rfl
@[simp] theorem State.ctxs_modQp (q : Nat) (f : Qp → Qp) : (s.modQp q f).ctxs = s.ctxs := rfl
@[simp] theorem State.models_modQp (q : Nat) (f : Qp → Qp) : (s.modQp q f).models = s.models := rfl
@[simp] theorem State.seqs_modQp (q : Nat) (f : Qp → Qp) : (s.modQp q f).seqs = s.seqs := rfl
@[simp] theorem State.prefixes_modQp (q : Nat) (f : Qp → Qp) : (s.modQp q f).prefixes = s.prefixes := rfl
@[simp] theorem State.works_modQp (q : Nat) (f : Qp → Qp) : (s.modQp q f).works = s.works := rfl
@[simp] theorem State.workNext_modQp (q : Nat) (f : Qp → Qp) : (s.modQp q f).workNext = s.workNext := rfl
@[simp] theorem State.rng_modQp (q : Nat) (f : Qp → Qp) : (s.modQp q f).rng = s.rng := rfl
@[simp] theorem State.signals_modQp (q : Nat) (f : Qp → Qp) : (s.modQp q f).signals = s.signals := rfl
@[simp] theorem State.barriers_modQp (q : Nat) (f : Qp → Qp) : (s.modQp q f).barriers = s.barriers := rfl
@[simp] theorem State.waits_modQp (q : Nat) (f : Qp → Qp) : (s.modQp q f).waits = s.waits := rfl
@[simp] theorem State.held_modQp (q : Nat) (f : Qp → Qp) : (s.modQp q f).held = s.held := rfl
@[simp] theorem State.windows_modQp (q : Nat) (f : Qp → Qp) : (s.modQp q f).windows = s.windows := rfl
@[simp] theorem State.disabled_modQp (q : Nat) (f : Qp → Qp) : (s.modQp q f).disabled = s.disabled := rfl
@[simp] theorem State.disabling_modQp (q : Nat) (f : Qp → Qp) : (s.modQp q f).disabling = s.disabling := rfl
@[simp] theorem State.resets_modQp (q : Nat) (f : Qp → Qp) : (s.modQp q f).resets = s.resets := rfl
@[simp] theorem State.advances_modQp (q : Nat) (f : Qp → Qp) : (s.modQp q f).advances = s.advances := rfl
@[simp] theorem State.ctrs_modQp (q : Nat) (f : Qp → Qp) : (s.modQp q f).ctrs = s.ctrs := rfl
@[simp] theorem State.snapBank_modQp (q : Nat) (f : Qp → Qp) : (s.modQp q f).snapBank = s.snapBank := rfl
@[simp] theorem State.snapAt_modQp (q : Nat) (f : Qp → Qp) : (s.modQp q f).snapAt = s.snapAt := rfl
@[simp] theorem State.snapPending_modQp (q : Nat) (f : Qp → Qp) : (s.modQp q f).snapPending = s.snapPending := rfl
@[simp] theorem State.dumps_modQp (q : Nat) (f : Qp → Qp) : (s.modQp q f).dumps = s.dumps := rfl
@[simp] theorem State.dumpNext_modQp (q : Nat) (f : Qp → Qp) : (s.modQp q f).dumpNext = s.dumpNext := rfl
@[simp] theorem State.openSeq_modQp (q : Nat) (f : Qp → Qp) : (s.modQp q f).openSeq = s.openSeq := rfl
@[simp] theorem State.remote_modQp (q : Nat) (f : Qp → Qp) : (s.modQp q f).remote = s.remote := rfl
@[simp] theorem State.freeCtr_modQp (q : Nat) (f : Qp → Qp) : (s.modQp q f).freeCtr = s.freeCtr := rfl

/-! ### modSeq -/

@[simp] theorem State.pending_modSeq (n : Nat) (f : Seq → Seq) : (s.modSeq n f).pending = s.pending := rfl
@[simp] theorem State.pins_modSeq (n : Nat) (f : Seq → Seq) : (s.modSeq n f).pins = s.pins := rfl
@[simp] theorem State.boot_modSeq (n : Nat) (f : Seq → Seq) : (s.modSeq n f).boot = s.boot := rfl
@[simp] theorem State.clk_modSeq (n : Nat) (f : Seq → Seq) : (s.modSeq n f).clk = s.clk := rfl
@[simp] theorem State.port_modSeq (n : Nat) (f : Seq → Seq) : (s.modSeq n f).port = s.port := rfl
@[simp] theorem State.log_modSeq (n : Nat) (f : Seq → Seq) : (s.modSeq n f).log = s.log := rfl
@[simp] theorem State.trace_modSeq (n : Nat) (f : Seq → Seq) : (s.modSeq n f).trace = s.trace := rfl
@[simp] theorem State.cfg_modSeq (n : Nat) (f : Seq → Seq) : (s.modSeq n f).cfg = s.cfg := rfl
@[simp] theorem State.power_modSeq (n : Nat) (f : Seq → Seq) : (s.modSeq n f).power = s.power := rfl
@[simp] theorem State.mem_modSeq (n : Nat) (f : Seq → Seq) : (s.modSeq n f).mem = s.mem := rfl
@[simp] theorem State.links_modSeq (n : Nat) (f : Seq → Seq) : (s.modSeq n f).links = s.links := rfl
@[simp] theorem State.tiles_modSeq (n : Nat) (f : Seq → Seq) : (s.modSeq n f).tiles = s.tiles := rfl
@[simp] theorem State.quads_modSeq (n : Nat) (f : Seq → Seq) : (s.modSeq n f).quads = s.quads := rfl
@[simp] theorem State.hbms_modSeq (n : Nat) (f : Seq → Seq) : (s.modSeq n f).hbms = s.hbms := rfl
@[simp] theorem State.fars_modSeq (n : Nat) (f : Seq → Seq) : (s.modSeq n f).fars = s.fars := rfl
@[simp] theorem State.partGen_modSeq (n : Nat) (f : Seq → Seq) : (s.modSeq n f).partGen = s.partGen := rfl
@[simp] theorem State.saddleRerouted_modSeq (n : Nat) (f : Seq → Seq) : (s.modSeq n f).saddleRerouted = s.saddleRerouted := rfl
@[simp] theorem State.qps_modSeq (n : Nat) (f : Seq → Seq) : (s.modSeq n f).qps = s.qps := rfl
@[simp] theorem State.ctxs_modSeq (n : Nat) (f : Seq → Seq) : (s.modSeq n f).ctxs = s.ctxs := rfl
@[simp] theorem State.models_modSeq (n : Nat) (f : Seq → Seq) : (s.modSeq n f).models = s.models := rfl
@[simp] theorem State.prefixes_modSeq (n : Nat) (f : Seq → Seq) : (s.modSeq n f).prefixes = s.prefixes := rfl
@[simp] theorem State.works_modSeq (n : Nat) (f : Seq → Seq) : (s.modSeq n f).works = s.works := rfl
@[simp] theorem State.workNext_modSeq (n : Nat) (f : Seq → Seq) : (s.modSeq n f).workNext = s.workNext := rfl
@[simp] theorem State.rng_modSeq (n : Nat) (f : Seq → Seq) : (s.modSeq n f).rng = s.rng := rfl
@[simp] theorem State.signals_modSeq (n : Nat) (f : Seq → Seq) : (s.modSeq n f).signals = s.signals := rfl
@[simp] theorem State.barriers_modSeq (n : Nat) (f : Seq → Seq) : (s.modSeq n f).barriers = s.barriers := rfl
@[simp] theorem State.waits_modSeq (n : Nat) (f : Seq → Seq) : (s.modSeq n f).waits = s.waits := rfl
@[simp] theorem State.held_modSeq (n : Nat) (f : Seq → Seq) : (s.modSeq n f).held = s.held := rfl
@[simp] theorem State.windows_modSeq (n : Nat) (f : Seq → Seq) : (s.modSeq n f).windows = s.windows := rfl
@[simp] theorem State.disabled_modSeq (n : Nat) (f : Seq → Seq) : (s.modSeq n f).disabled = s.disabled := rfl
@[simp] theorem State.disabling_modSeq (n : Nat) (f : Seq → Seq) : (s.modSeq n f).disabling = s.disabling := rfl
@[simp] theorem State.resets_modSeq (n : Nat) (f : Seq → Seq) : (s.modSeq n f).resets = s.resets := rfl
@[simp] theorem State.advances_modSeq (n : Nat) (f : Seq → Seq) : (s.modSeq n f).advances = s.advances := rfl
@[simp] theorem State.ctrs_modSeq (n : Nat) (f : Seq → Seq) : (s.modSeq n f).ctrs = s.ctrs := rfl
@[simp] theorem State.snapBank_modSeq (n : Nat) (f : Seq → Seq) : (s.modSeq n f).snapBank = s.snapBank := rfl
@[simp] theorem State.snapAt_modSeq (n : Nat) (f : Seq → Seq) : (s.modSeq n f).snapAt = s.snapAt := rfl
@[simp] theorem State.snapPending_modSeq (n : Nat) (f : Seq → Seq) : (s.modSeq n f).snapPending = s.snapPending := rfl
@[simp] theorem State.dumps_modSeq (n : Nat) (f : Seq → Seq) : (s.modSeq n f).dumps = s.dumps := rfl
@[simp] theorem State.dumpNext_modSeq (n : Nat) (f : Seq → Seq) : (s.modSeq n f).dumpNext = s.dumpNext := rfl
@[simp] theorem State.openSeq_modSeq (n : Nat) (f : Seq → Seq) : (s.modSeq n f).openSeq = s.openSeq := rfl
@[simp] theorem State.remote_modSeq (n : Nat) (f : Seq → Seq) : (s.modSeq n f).remote = s.remote := rfl
@[simp] theorem State.freeCtr_modSeq (n : Nat) (f : Seq → Seq) : (s.modSeq n f).freeCtr = s.freeCtr := rfl

/-! ### count -/

@[simp] theorem State.pending_count (off n : Nat) : (s.count off n).pending = s.pending := rfl
@[simp] theorem State.pins_count (off n : Nat) : (s.count off n).pins = s.pins := rfl
@[simp] theorem State.boot_count (off n : Nat) : (s.count off n).boot = s.boot := rfl
@[simp] theorem State.clk_count (off n : Nat) : (s.count off n).clk = s.clk := rfl
@[simp] theorem State.port_count (off n : Nat) : (s.count off n).port = s.port := rfl
@[simp] theorem State.log_count (off n : Nat) : (s.count off n).log = s.log := rfl
@[simp] theorem State.trace_count (off n : Nat) : (s.count off n).trace = s.trace := rfl
@[simp] theorem State.cfg_count (off n : Nat) : (s.count off n).cfg = s.cfg := rfl
@[simp] theorem State.power_count (off n : Nat) : (s.count off n).power = s.power := rfl
@[simp] theorem State.mem_count (off n : Nat) : (s.count off n).mem = s.mem := rfl
@[simp] theorem State.links_count (off n : Nat) : (s.count off n).links = s.links := rfl
@[simp] theorem State.tiles_count (off n : Nat) : (s.count off n).tiles = s.tiles := rfl
@[simp] theorem State.quads_count (off n : Nat) : (s.count off n).quads = s.quads := rfl
@[simp] theorem State.hbms_count (off n : Nat) : (s.count off n).hbms = s.hbms := rfl
@[simp] theorem State.fars_count (off n : Nat) : (s.count off n).fars = s.fars := rfl
@[simp] theorem State.partGen_count (off n : Nat) : (s.count off n).partGen = s.partGen := rfl
@[simp] theorem State.saddleRerouted_count (off n : Nat) : (s.count off n).saddleRerouted = s.saddleRerouted := rfl
@[simp] theorem State.qps_count (off n : Nat) : (s.count off n).qps = s.qps := rfl
@[simp] theorem State.ctxs_count (off n : Nat) : (s.count off n).ctxs = s.ctxs := rfl
@[simp] theorem State.models_count (off n : Nat) : (s.count off n).models = s.models := rfl
@[simp] theorem State.seqs_count (off n : Nat) : (s.count off n).seqs = s.seqs := rfl
@[simp] theorem State.prefixes_count (off n : Nat) : (s.count off n).prefixes = s.prefixes := rfl
@[simp] theorem State.works_count (off n : Nat) : (s.count off n).works = s.works := rfl
@[simp] theorem State.workNext_count (off n : Nat) : (s.count off n).workNext = s.workNext := rfl
@[simp] theorem State.rng_count (off n : Nat) : (s.count off n).rng = s.rng := rfl
@[simp] theorem State.signals_count (off n : Nat) : (s.count off n).signals = s.signals := rfl
@[simp] theorem State.barriers_count (off n : Nat) : (s.count off n).barriers = s.barriers := rfl
@[simp] theorem State.waits_count (off n : Nat) : (s.count off n).waits = s.waits := rfl
@[simp] theorem State.held_count (off n : Nat) : (s.count off n).held = s.held := rfl
@[simp] theorem State.windows_count (off n : Nat) : (s.count off n).windows = s.windows := rfl
@[simp] theorem State.disabled_count (off n : Nat) : (s.count off n).disabled = s.disabled := rfl
@[simp] theorem State.disabling_count (off n : Nat) : (s.count off n).disabling = s.disabling := rfl
@[simp] theorem State.resets_count (off n : Nat) : (s.count off n).resets = s.resets := rfl
@[simp] theorem State.advances_count (off n : Nat) : (s.count off n).advances = s.advances := rfl
@[simp] theorem State.snapBank_count (off n : Nat) : (s.count off n).snapBank = s.snapBank := rfl
@[simp] theorem State.snapAt_count (off n : Nat) : (s.count off n).snapAt = s.snapAt := rfl
@[simp] theorem State.snapPending_count (off n : Nat) : (s.count off n).snapPending = s.snapPending := rfl
@[simp] theorem State.dumps_count (off n : Nat) : (s.count off n).dumps = s.dumps := rfl
@[simp] theorem State.dumpNext_count (off n : Nat) : (s.count off n).dumpNext = s.dumpNext := rfl
@[simp] theorem State.openSeq_count (off n : Nat) : (s.count off n).openSeq = s.openSeq := rfl
@[simp] theorem State.remote_count (off n : Nat) : (s.count off n).remote = s.remote := rfl
@[simp] theorem State.freeCtr_count (off n : Nat) : (s.count off n).freeCtr = s.freeCtr := rfl

/-! ### used -/

@[simp] theorem State.pending_used (n : Nat) : (s.used n).pending = s.pending := rfl
@[simp] theorem State.pins_used (n : Nat) : (s.used n).pins = s.pins := rfl
@[simp] theorem State.boot_used (n : Nat) : (s.used n).boot = s.boot := rfl
@[simp] theorem State.clk_used (n : Nat) : (s.used n).clk = s.clk := rfl
@[simp] theorem State.port_used (n : Nat) : (s.used n).port = s.port := rfl
@[simp] theorem State.log_used (n : Nat) : (s.used n).log = s.log := rfl
@[simp] theorem State.trace_used (n : Nat) : (s.used n).trace = s.trace := rfl
@[simp] theorem State.cfg_used (n : Nat) : (s.used n).cfg = s.cfg := rfl
@[simp] theorem State.power_used (n : Nat) : (s.used n).power = s.power := rfl
@[simp] theorem State.mem_used (n : Nat) : (s.used n).mem = s.mem := rfl
@[simp] theorem State.links_used (n : Nat) : (s.used n).links = s.links := rfl
@[simp] theorem State.tiles_used (n : Nat) : (s.used n).tiles = s.tiles := rfl
@[simp] theorem State.quads_used (n : Nat) : (s.used n).quads = s.quads := rfl
@[simp] theorem State.hbms_used (n : Nat) : (s.used n).hbms = s.hbms := rfl
@[simp] theorem State.fars_used (n : Nat) : (s.used n).fars = s.fars := rfl
@[simp] theorem State.partGen_used (n : Nat) : (s.used n).partGen = s.partGen := rfl
@[simp] theorem State.saddleRerouted_used (n : Nat) : (s.used n).saddleRerouted = s.saddleRerouted := rfl
@[simp] theorem State.qps_used (n : Nat) : (s.used n).qps = s.qps := rfl
@[simp] theorem State.ctxs_used (n : Nat) : (s.used n).ctxs = s.ctxs := rfl
@[simp] theorem State.models_used (n : Nat) : (s.used n).models = s.models := rfl
@[simp] theorem State.seqs_used (n : Nat) : (s.used n).seqs = s.seqs := rfl
@[simp] theorem State.prefixes_used (n : Nat) : (s.used n).prefixes = s.prefixes := rfl
@[simp] theorem State.works_used (n : Nat) : (s.used n).works = s.works := rfl
@[simp] theorem State.workNext_used (n : Nat) : (s.used n).workNext = s.workNext := rfl
@[simp] theorem State.rng_used (n : Nat) : (s.used n).rng = s.rng := rfl
@[simp] theorem State.signals_used (n : Nat) : (s.used n).signals = s.signals := rfl
@[simp] theorem State.barriers_used (n : Nat) : (s.used n).barriers = s.barriers := rfl
@[simp] theorem State.waits_used (n : Nat) : (s.used n).waits = s.waits := rfl
@[simp] theorem State.held_used (n : Nat) : (s.used n).held = s.held := rfl
@[simp] theorem State.windows_used (n : Nat) : (s.used n).windows = s.windows := rfl
@[simp] theorem State.disabled_used (n : Nat) : (s.used n).disabled = s.disabled := rfl
@[simp] theorem State.disabling_used (n : Nat) : (s.used n).disabling = s.disabling := rfl
@[simp] theorem State.resets_used (n : Nat) : (s.used n).resets = s.resets := rfl
@[simp] theorem State.advances_used (n : Nat) : (s.used n).advances = s.advances := rfl
@[simp] theorem State.ctrs_used (n : Nat) : (s.used n).ctrs = s.ctrs := rfl
@[simp] theorem State.snapBank_used (n : Nat) : (s.used n).snapBank = s.snapBank := rfl
@[simp] theorem State.snapAt_used (n : Nat) : (s.used n).snapAt = s.snapAt := rfl
@[simp] theorem State.snapPending_used (n : Nat) : (s.used n).snapPending = s.snapPending := rfl
@[simp] theorem State.dumps_used (n : Nat) : (s.used n).dumps = s.dumps := rfl
@[simp] theorem State.dumpNext_used (n : Nat) : (s.used n).dumpNext = s.dumpNext := rfl
@[simp] theorem State.openSeq_used (n : Nat) : (s.used n).openSeq = s.openSeq := rfl
@[simp] theorem State.remote_used (n : Nat) : (s.used n).remote = s.remote := rfl

/-! ### take -/

@[simp] theorem State.pending_take (h : Pkt) : (s.take h).pending = s.pending := rfl
@[simp] theorem State.pins_take (h : Pkt) : (s.take h).pins = s.pins := rfl
@[simp] theorem State.boot_take (h : Pkt) : (s.take h).boot = s.boot := rfl
@[simp] theorem State.clk_take (h : Pkt) : (s.take h).clk = s.clk := rfl
@[simp] theorem State.port_take (h : Pkt) : (s.take h).port = s.port := rfl
@[simp] theorem State.log_take (h : Pkt) : (s.take h).log = s.log := rfl
@[simp] theorem State.trace_take (h : Pkt) : (s.take h).trace = s.trace := rfl
@[simp] theorem State.cfg_take (h : Pkt) : (s.take h).cfg = s.cfg := rfl
@[simp] theorem State.power_take (h : Pkt) : (s.take h).power = s.power := rfl
@[simp] theorem State.mem_take (h : Pkt) : (s.take h).mem = s.mem := rfl
@[simp] theorem State.links_take (h : Pkt) : (s.take h).links = s.links := rfl
@[simp] theorem State.tiles_take (h : Pkt) : (s.take h).tiles = s.tiles := rfl
@[simp] theorem State.quads_take (h : Pkt) : (s.take h).quads = s.quads := rfl
@[simp] theorem State.hbms_take (h : Pkt) : (s.take h).hbms = s.hbms := rfl
@[simp] theorem State.fars_take (h : Pkt) : (s.take h).fars = s.fars := rfl
@[simp] theorem State.partGen_take (h : Pkt) : (s.take h).partGen = s.partGen := rfl
@[simp] theorem State.saddleRerouted_take (h : Pkt) : (s.take h).saddleRerouted = s.saddleRerouted := rfl
@[simp] theorem State.ctxs_take (h : Pkt) : (s.take h).ctxs = s.ctxs := rfl
@[simp] theorem State.models_take (h : Pkt) : (s.take h).models = s.models := rfl
@[simp] theorem State.seqs_take (h : Pkt) : (s.take h).seqs = s.seqs := rfl
@[simp] theorem State.prefixes_take (h : Pkt) : (s.take h).prefixes = s.prefixes := rfl
@[simp] theorem State.works_take (h : Pkt) : (s.take h).works = s.works := rfl
@[simp] theorem State.workNext_take (h : Pkt) : (s.take h).workNext = s.workNext := rfl
@[simp] theorem State.rng_take (h : Pkt) : (s.take h).rng = s.rng := rfl
@[simp] theorem State.signals_take (h : Pkt) : (s.take h).signals = s.signals := rfl
@[simp] theorem State.barriers_take (h : Pkt) : (s.take h).barriers = s.barriers := rfl
@[simp] theorem State.waits_take (h : Pkt) : (s.take h).waits = s.waits := rfl
@[simp] theorem State.held_take (h : Pkt) : (s.take h).held = s.held := rfl
@[simp] theorem State.windows_take (h : Pkt) : (s.take h).windows = s.windows := rfl
@[simp] theorem State.disabled_take (h : Pkt) : (s.take h).disabled = s.disabled := rfl
@[simp] theorem State.disabling_take (h : Pkt) : (s.take h).disabling = s.disabling := rfl
@[simp] theorem State.resets_take (h : Pkt) : (s.take h).resets = s.resets := rfl
@[simp] theorem State.advances_take (h : Pkt) : (s.take h).advances = s.advances := rfl
@[simp] theorem State.ctrs_take (h : Pkt) : (s.take h).ctrs = s.ctrs := rfl
@[simp] theorem State.snapBank_take (h : Pkt) : (s.take h).snapBank = s.snapBank := rfl
@[simp] theorem State.snapAt_take (h : Pkt) : (s.take h).snapAt = s.snapAt := rfl
@[simp] theorem State.snapPending_take (h : Pkt) : (s.take h).snapPending = s.snapPending := rfl
@[simp] theorem State.dumps_take (h : Pkt) : (s.take h).dumps = s.dumps := rfl
@[simp] theorem State.dumpNext_take (h : Pkt) : (s.take h).dumpNext = s.dumpNext := rfl
@[simp] theorem State.openSeq_take (h : Pkt) : (s.take h).openSeq = s.openSeq := rfl
@[simp] theorem State.remote_take (h : Pkt) : (s.take h).remote = s.remote := rfl
@[simp] theorem State.freeCtr_take (h : Pkt) : (s.take h).freeCtr = s.freeCtr := rfl

/-! ### modCtx -/

@[simp] theorem State.pending_modCtx (c : Nat) (f : Ctx → Ctx) : (s.modCtx c f).pending = s.pending := by unfold State.modCtx; split <;> rfl
@[simp] theorem State.pins_modCtx (c : Nat) (f : Ctx → Ctx) : (s.modCtx c f).pins = s.pins := by unfold State.modCtx; split <;> rfl
@[simp] theorem State.boot_modCtx (c : Nat) (f : Ctx → Ctx) : (s.modCtx c f).boot = s.boot := by unfold State.modCtx; split <;> rfl
@[simp] theorem State.clk_modCtx (c : Nat) (f : Ctx → Ctx) : (s.modCtx c f).clk = s.clk := by unfold State.modCtx; split <;> rfl
@[simp] theorem State.port_modCtx (c : Nat) (f : Ctx → Ctx) : (s.modCtx c f).port = s.port := by unfold State.modCtx; split <;> rfl
@[simp] theorem State.log_modCtx (c : Nat) (f : Ctx → Ctx) : (s.modCtx c f).log = s.log := by unfold State.modCtx; split <;> rfl
@[simp] theorem State.trace_modCtx (c : Nat) (f : Ctx → Ctx) : (s.modCtx c f).trace = s.trace := by unfold State.modCtx; split <;> rfl
@[simp] theorem State.cfg_modCtx (c : Nat) (f : Ctx → Ctx) : (s.modCtx c f).cfg = s.cfg := by unfold State.modCtx; split <;> rfl
@[simp] theorem State.power_modCtx (c : Nat) (f : Ctx → Ctx) : (s.modCtx c f).power = s.power := by unfold State.modCtx; split <;> rfl
@[simp] theorem State.mem_modCtx (c : Nat) (f : Ctx → Ctx) : (s.modCtx c f).mem = s.mem := by unfold State.modCtx; split <;> rfl
@[simp] theorem State.links_modCtx (c : Nat) (f : Ctx → Ctx) : (s.modCtx c f).links = s.links := by unfold State.modCtx; split <;> rfl
@[simp] theorem State.tiles_modCtx (c : Nat) (f : Ctx → Ctx) : (s.modCtx c f).tiles = s.tiles := by unfold State.modCtx; split <;> rfl
@[simp] theorem State.quads_modCtx (c : Nat) (f : Ctx → Ctx) : (s.modCtx c f).quads = s.quads := by unfold State.modCtx; split <;> rfl
@[simp] theorem State.hbms_modCtx (c : Nat) (f : Ctx → Ctx) : (s.modCtx c f).hbms = s.hbms := by unfold State.modCtx; split <;> rfl
@[simp] theorem State.fars_modCtx (c : Nat) (f : Ctx → Ctx) : (s.modCtx c f).fars = s.fars := by unfold State.modCtx; split <;> rfl
@[simp] theorem State.partGen_modCtx (c : Nat) (f : Ctx → Ctx) : (s.modCtx c f).partGen = s.partGen := by unfold State.modCtx; split <;> rfl
@[simp] theorem State.saddleRerouted_modCtx (c : Nat) (f : Ctx → Ctx) : (s.modCtx c f).saddleRerouted = s.saddleRerouted := by unfold State.modCtx; split <;> rfl
@[simp] theorem State.qps_modCtx (c : Nat) (f : Ctx → Ctx) : (s.modCtx c f).qps = s.qps := by unfold State.modCtx; split <;> rfl
@[simp] theorem State.models_modCtx (c : Nat) (f : Ctx → Ctx) : (s.modCtx c f).models = s.models := by unfold State.modCtx; split <;> rfl
@[simp] theorem State.seqs_modCtx (c : Nat) (f : Ctx → Ctx) : (s.modCtx c f).seqs = s.seqs := by unfold State.modCtx; split <;> rfl
@[simp] theorem State.prefixes_modCtx (c : Nat) (f : Ctx → Ctx) : (s.modCtx c f).prefixes = s.prefixes := by unfold State.modCtx; split <;> rfl
@[simp] theorem State.works_modCtx (c : Nat) (f : Ctx → Ctx) : (s.modCtx c f).works = s.works := by unfold State.modCtx; split <;> rfl
@[simp] theorem State.workNext_modCtx (c : Nat) (f : Ctx → Ctx) : (s.modCtx c f).workNext = s.workNext := by unfold State.modCtx; split <;> rfl
@[simp] theorem State.rng_modCtx (c : Nat) (f : Ctx → Ctx) : (s.modCtx c f).rng = s.rng := by unfold State.modCtx; split <;> rfl
@[simp] theorem State.signals_modCtx (c : Nat) (f : Ctx → Ctx) : (s.modCtx c f).signals = s.signals := by unfold State.modCtx; split <;> rfl
@[simp] theorem State.barriers_modCtx (c : Nat) (f : Ctx → Ctx) : (s.modCtx c f).barriers = s.barriers := by unfold State.modCtx; split <;> rfl
@[simp] theorem State.waits_modCtx (c : Nat) (f : Ctx → Ctx) : (s.modCtx c f).waits = s.waits := by unfold State.modCtx; split <;> rfl
@[simp] theorem State.held_modCtx (c : Nat) (f : Ctx → Ctx) : (s.modCtx c f).held = s.held := by unfold State.modCtx; split <;> rfl
@[simp] theorem State.windows_modCtx (c : Nat) (f : Ctx → Ctx) : (s.modCtx c f).windows = s.windows := by unfold State.modCtx; split <;> rfl
@[simp] theorem State.disabled_modCtx (c : Nat) (f : Ctx → Ctx) : (s.modCtx c f).disabled = s.disabled := by unfold State.modCtx; split <;> rfl
@[simp] theorem State.disabling_modCtx (c : Nat) (f : Ctx → Ctx) : (s.modCtx c f).disabling = s.disabling := by unfold State.modCtx; split <;> rfl
@[simp] theorem State.resets_modCtx (c : Nat) (f : Ctx → Ctx) : (s.modCtx c f).resets = s.resets := by unfold State.modCtx; split <;> rfl
@[simp] theorem State.advances_modCtx (c : Nat) (f : Ctx → Ctx) : (s.modCtx c f).advances = s.advances := by unfold State.modCtx; split <;> rfl
@[simp] theorem State.ctrs_modCtx (c : Nat) (f : Ctx → Ctx) : (s.modCtx c f).ctrs = s.ctrs := by unfold State.modCtx; split <;> rfl
@[simp] theorem State.snapBank_modCtx (c : Nat) (f : Ctx → Ctx) : (s.modCtx c f).snapBank = s.snapBank := by unfold State.modCtx; split <;> rfl
@[simp] theorem State.snapAt_modCtx (c : Nat) (f : Ctx → Ctx) : (s.modCtx c f).snapAt = s.snapAt := by unfold State.modCtx; split <;> rfl
@[simp] theorem State.snapPending_modCtx (c : Nat) (f : Ctx → Ctx) : (s.modCtx c f).snapPending = s.snapPending := by unfold State.modCtx; split <;> rfl
@[simp] theorem State.dumps_modCtx (c : Nat) (f : Ctx → Ctx) : (s.modCtx c f).dumps = s.dumps := by unfold State.modCtx; split <;> rfl
@[simp] theorem State.dumpNext_modCtx (c : Nat) (f : Ctx → Ctx) : (s.modCtx c f).dumpNext = s.dumpNext := by unfold State.modCtx; split <;> rfl
@[simp] theorem State.openSeq_modCtx (c : Nat) (f : Ctx → Ctx) : (s.modCtx c f).openSeq = s.openSeq := by unfold State.modCtx; split <;> rfl
@[simp] theorem State.remote_modCtx (c : Nat) (f : Ctx → Ctx) : (s.modCtx c f).remote = s.remote := by unfold State.modCtx; split <;> rfl
@[simp] theorem State.freeCtr_modCtx (c : Nat) (f : Ctx → Ctx) : (s.modCtx c f).freeCtr = s.freeCtr := by unfold State.modCtx; split <;> rfl

/-! ### modWork -/

@[simp] theorem State.pending_modWork (w : Nat) (f : Work → Work) : (s.modWork w f).pending = s.pending := by unfold State.modWork; split <;> rfl
@[simp] theorem State.pins_modWork (w : Nat) (f : Work → Work) : (s.modWork w f).pins = s.pins := by unfold State.modWork; split <;> rfl
@[simp] theorem State.boot_modWork (w : Nat) (f : Work → Work) : (s.modWork w f).boot = s.boot := by unfold State.modWork; split <;> rfl
@[simp] theorem State.clk_modWork (w : Nat) (f : Work → Work) : (s.modWork w f).clk = s.clk := by unfold State.modWork; split <;> rfl
@[simp] theorem State.port_modWork (w : Nat) (f : Work → Work) : (s.modWork w f).port = s.port := by unfold State.modWork; split <;> rfl
@[simp] theorem State.log_modWork (w : Nat) (f : Work → Work) : (s.modWork w f).log = s.log := by unfold State.modWork; split <;> rfl
@[simp] theorem State.trace_modWork (w : Nat) (f : Work → Work) : (s.modWork w f).trace = s.trace := by unfold State.modWork; split <;> rfl
@[simp] theorem State.cfg_modWork (w : Nat) (f : Work → Work) : (s.modWork w f).cfg = s.cfg := by unfold State.modWork; split <;> rfl
@[simp] theorem State.power_modWork (w : Nat) (f : Work → Work) : (s.modWork w f).power = s.power := by unfold State.modWork; split <;> rfl
@[simp] theorem State.mem_modWork (w : Nat) (f : Work → Work) : (s.modWork w f).mem = s.mem := by unfold State.modWork; split <;> rfl
@[simp] theorem State.links_modWork (w : Nat) (f : Work → Work) : (s.modWork w f).links = s.links := by unfold State.modWork; split <;> rfl
@[simp] theorem State.tiles_modWork (w : Nat) (f : Work → Work) : (s.modWork w f).tiles = s.tiles := by unfold State.modWork; split <;> rfl
@[simp] theorem State.quads_modWork (w : Nat) (f : Work → Work) : (s.modWork w f).quads = s.quads := by unfold State.modWork; split <;> rfl
@[simp] theorem State.hbms_modWork (w : Nat) (f : Work → Work) : (s.modWork w f).hbms = s.hbms := by unfold State.modWork; split <;> rfl
@[simp] theorem State.fars_modWork (w : Nat) (f : Work → Work) : (s.modWork w f).fars = s.fars := by unfold State.modWork; split <;> rfl
@[simp] theorem State.partGen_modWork (w : Nat) (f : Work → Work) : (s.modWork w f).partGen = s.partGen := by unfold State.modWork; split <;> rfl
@[simp] theorem State.saddleRerouted_modWork (w : Nat) (f : Work → Work) : (s.modWork w f).saddleRerouted = s.saddleRerouted := by unfold State.modWork; split <;> rfl
@[simp] theorem State.qps_modWork (w : Nat) (f : Work → Work) : (s.modWork w f).qps = s.qps := by unfold State.modWork; split <;> rfl
@[simp] theorem State.ctxs_modWork (w : Nat) (f : Work → Work) : (s.modWork w f).ctxs = s.ctxs := by unfold State.modWork; split <;> rfl
@[simp] theorem State.models_modWork (w : Nat) (f : Work → Work) : (s.modWork w f).models = s.models := by unfold State.modWork; split <;> rfl
@[simp] theorem State.seqs_modWork (w : Nat) (f : Work → Work) : (s.modWork w f).seqs = s.seqs := by unfold State.modWork; split <;> rfl
@[simp] theorem State.prefixes_modWork (w : Nat) (f : Work → Work) : (s.modWork w f).prefixes = s.prefixes := by unfold State.modWork; split <;> rfl
@[simp] theorem State.workNext_modWork (w : Nat) (f : Work → Work) : (s.modWork w f).workNext = s.workNext := by unfold State.modWork; split <;> rfl
@[simp] theorem State.rng_modWork (w : Nat) (f : Work → Work) : (s.modWork w f).rng = s.rng := by unfold State.modWork; split <;> rfl
@[simp] theorem State.signals_modWork (w : Nat) (f : Work → Work) : (s.modWork w f).signals = s.signals := by unfold State.modWork; split <;> rfl
@[simp] theorem State.barriers_modWork (w : Nat) (f : Work → Work) : (s.modWork w f).barriers = s.barriers := by unfold State.modWork; split <;> rfl
@[simp] theorem State.waits_modWork (w : Nat) (f : Work → Work) : (s.modWork w f).waits = s.waits := by unfold State.modWork; split <;> rfl
@[simp] theorem State.held_modWork (w : Nat) (f : Work → Work) : (s.modWork w f).held = s.held := by unfold State.modWork; split <;> rfl
@[simp] theorem State.windows_modWork (w : Nat) (f : Work → Work) : (s.modWork w f).windows = s.windows := by unfold State.modWork; split <;> rfl
@[simp] theorem State.disabled_modWork (w : Nat) (f : Work → Work) : (s.modWork w f).disabled = s.disabled := by unfold State.modWork; split <;> rfl
@[simp] theorem State.disabling_modWork (w : Nat) (f : Work → Work) : (s.modWork w f).disabling = s.disabling := by unfold State.modWork; split <;> rfl
@[simp] theorem State.resets_modWork (w : Nat) (f : Work → Work) : (s.modWork w f).resets = s.resets := by unfold State.modWork; split <;> rfl
@[simp] theorem State.advances_modWork (w : Nat) (f : Work → Work) : (s.modWork w f).advances = s.advances := by unfold State.modWork; split <;> rfl
@[simp] theorem State.ctrs_modWork (w : Nat) (f : Work → Work) : (s.modWork w f).ctrs = s.ctrs := by unfold State.modWork; split <;> rfl
@[simp] theorem State.snapBank_modWork (w : Nat) (f : Work → Work) : (s.modWork w f).snapBank = s.snapBank := by unfold State.modWork; split <;> rfl
@[simp] theorem State.snapAt_modWork (w : Nat) (f : Work → Work) : (s.modWork w f).snapAt = s.snapAt := by unfold State.modWork; split <;> rfl
@[simp] theorem State.snapPending_modWork (w : Nat) (f : Work → Work) : (s.modWork w f).snapPending = s.snapPending := by unfold State.modWork; split <;> rfl
@[simp] theorem State.dumps_modWork (w : Nat) (f : Work → Work) : (s.modWork w f).dumps = s.dumps := by unfold State.modWork; split <;> rfl
@[simp] theorem State.dumpNext_modWork (w : Nat) (f : Work → Work) : (s.modWork w f).dumpNext = s.dumpNext := by unfold State.modWork; split <;> rfl
@[simp] theorem State.openSeq_modWork (w : Nat) (f : Work → Work) : (s.modWork w f).openSeq = s.openSeq := by unfold State.modWork; split <;> rfl
@[simp] theorem State.remote_modWork (w : Nat) (f : Work → Work) : (s.modWork w f).remote = s.remote := by unfold State.modWork; split <;> rfl
@[simp] theorem State.freeCtr_modWork (w : Nat) (f : Work → Work) : (s.modWork w f).freeCtr = s.freeCtr := by unfold State.modWork; split <;> rfl

/-! ### Parts after an update -/

@[simp] theorem State.tile_modTile_self (i : Nat) (f : Tile → Tile) : (s.modTile i f).tile i = f (s.tile i) := by
  simp [State.modTile, State.tile, State.setTile]

theorem State.tile_modTile_ne (i j : Nat) (f : Tile → Tile) (h : i ≠ j) : (s.modTile i f).tile j = s.tile j := by
  simp only [State.modTile, State.tile, State.setTile]; exact NMap.get_put_ne _ _ _ _ _ h

@[simp] theorem State.quad_modQuad_self (i : Nat) (f : Quad → Quad) : (s.modQuad i f).quad i = f (s.quad i) := by
  simp [State.modQuad, State.quad]

theorem State.quad_modQuad_ne (i j : Nat) (f : Quad → Quad) (h : i ≠ j) : (s.modQuad i f).quad j = s.quad j := by
  simp only [State.modQuad, State.quad]; exact NMap.get_put_ne _ _ _ _ _ h

@[simp] theorem State.stack_modStack_self (i : Nat) (f : Stack → Stack) : (s.modStack i f).stack i = f (s.stack i) := by
  simp [State.modStack, State.stack]

theorem State.stack_modStack_ne (i j : Nat) (f : Stack → Stack) (h : i ≠ j) : (s.modStack i f).stack j = s.stack j := by
  simp only [State.modStack, State.stack]; exact NMap.get_put_ne _ _ _ _ _ h

@[simp] theorem State.far_modFar_self (i : Nat) (f : Far → Far) : (s.modFar i f).far i = f (s.far i) := by
  simp [State.modFar, State.far]

theorem State.far_modFar_ne (i j : Nat) (f : Far → Far) (h : i ≠ j) : (s.modFar i f).far j = s.far j := by
  simp only [State.modFar, State.far]; exact NMap.get_put_ne _ _ _ _ _ h

@[simp] theorem State.ohm_modOhm_self (i : Nat) (f : Port → Port) : (s.modOhm i f).ohm i = f (s.ohm i) := by
  simp [State.modOhm, State.ohm]

theorem State.ohm_modOhm_ne (i j : Nat) (f : Port → Port) (h : i ≠ j) : (s.modOhm i f).ohm j = s.ohm j := by
  simp only [State.modOhm, State.ohm]; exact NMap.get_put_ne _ _ _ _ _ h

@[simp] theorem State.qp_modQp_self (i : Nat) (f : Qp → Qp) : (s.modQp i f).qp i = f (s.qp i) := by
  simp [State.modQp, State.qp]

theorem State.qp_modQp_ne (i j : Nat) (f : Qp → Qp) (h : i ≠ j) : (s.modQp i f).qp j = s.qp j := by
  simp only [State.modQp, State.qp]; exact NMap.get_put_ne _ _ _ _ _ h

@[simp] theorem State.seq_modSeq_self (i : Nat) (f : Seq → Seq) : (s.modSeq i f).seq i = f (s.seq i) := by
  simp [State.modSeq, State.seq]

theorem State.seq_modSeq_ne (i j : Nat) (f : Seq → Seq) (h : i ≠ j) : (s.modSeq i f).seq j = s.seq j := by
  simp only [State.modSeq, State.seq]; exact NMap.get_put_ne _ _ _ _ _ h

@[simp] theorem State.tile_setTile_self (t : Nat) (x : Tile) : (s.setTile t x).tile t = x := by
  simp [State.setTile, State.tile]

theorem State.tile_setTile_ne (t u : Nat) (x : Tile) (h : t ≠ u) : (s.setTile t x).tile u = s.tile u := by
  simp only [State.setTile, State.tile]; exact NMap.get_put_ne _ _ _ _ _ h

@[simp] theorem State.tile_modCore_self (t : Nat) (f : Core → Core) :
    (s.modCore t f).tile t = { s.tile t with core := f (s.tile t).core } := by simp [State.modCore]

theorem State.tile_modCore_ne (t u : Nat) (f : Core → Core) (h : t ≠ u) : (s.modCore t f).tile u = s.tile u :=
  s.tile_modTile_ne t u _ h

theorem State.ctx?_modCtx_self (c : Nat) (f : Ctx → Ctx) : (s.modCtx c f).ctx? c = (s.ctx? c).map f := by
  unfold State.modCtx; split
  · next x e => rw [e]; simp [State.ctx?]
  · next e => simp [e]

theorem State.ctx?_modCtx_ne (c d : Nat) (f : Ctx → Ctx) (h : c ≠ d) : (s.modCtx c f).ctx? d = s.ctx? d := by
  unfold State.modCtx; split
  · exact NMap.get?_put_ne _ _ _ _ h
  · rfl

@[simp] theorem State.ctr_count_self (off n : Nat) : (s.count off n).ctr off = (s.ctr off + n) % 2 ^ 64 := by
  simp [State.count, State.ctr]

theorem State.ctr_count_ne (off off' n : Nat) (h : off ≠ off') : (s.count off n).ctr off' = s.ctr off' := by
  simp only [State.count, State.ctr]; exact NMap.get_set_ne _ _ _ _ _ h

@[simp] theorem State.pktCtx_take (h : Pkt) : (s.take h).pktCtx h = s.pktCtx h := by
  simp [State.pktCtx, State.take]

@[simp] theorem State.ctx?_take (h : Pkt) (c : Nat) : (s.take h).ctx? c = s.ctx? c := rfl

end Sys2Proof.Machine
end

