-- ==== Sys2Proof/Laws/Core.lean ====
section
/-! SUPPORT. The core of a tile: what issuing, fetching and committing one instruction do to the machine. -/

set_option linter.unusedSimpArgs false

namespace Sys2Proof

@[simp] theorem NMap.put_put {α : Type} (m : NMap α) (i : Nat) (a b : α) : NMap.put (NMap.put m i a) i b = NMap.put m i b := by
  induction m with
  | nil => simp [NMap.put]
  | cons e r ih => grind [NMap.put]

namespace Machine

theorem State.modTile_modTile (s : State) (t : Nat) (f g : Tile → Tile) :
    (s.modTile t f).modTile t g = s.modTile t (fun x => g (f x)) := by
  simp [State.modTile, State.setTile, State.tile]

theorem State.modCore_modCore (s : State) (t : Nat) (f g : Core → Core) :
    (s.modCore t f).modCore t g = s.modCore t (fun c => g (f c)) := by
  simp [State.modCore, State.modTile_modTile]

@[simp] theorem State.traced_modCore (s : State) (t u : Nat) (f : Core → Core) : (s.modCore t f).traced u = s.traced u := by
  have : ((s.modCore t f).tile u).ctx = (s.tile u).ctx := by
    by_cases h : t = u
    · subst h; simp
    · rw [State.tile_modCore_ne _ _ _ _ h]
  simp only [State.traced, this]; rfl

/-- The words of a fetch that are clean leave the state as it was (R172). -/
theorem State.fetch_clean (s : State) (t pc n : Nat)
    (h : (cellsOf pc n).all (fun k => !(s.tile t).core.ipoison.contains k && (NMap.get? (s.tile t).core.ilatent k).isNone) = true) :
    s.fetch t pc n = (false, s) := by
  unfold State.fetch
  generalize cellsOf pc n = l at h
  induction l with
  | nil => rfl
  | cons k l ih =>
    simp only [List.all_cons, Bool.and_eq_true, Bool.not_eq_true', Option.isNone_iff_eq_none] at h
    simp only [List.foldl_cons, h.1.1, h.1.2, Bool.false_eq_true, if_false]
    exact ih h.2

/-- A row whose instruction the core issues does what the instruction does. -/
theorem State.row_stands {s : State} {t w : Nat} (h : s.stands t w = true) (f : State → SRes) :
    s.row t w f = s.finishScalar t 4 (f s) := by
  simp only [State.stands, State.fetches, Bool.and_eq_true, decide_eq_true_eq, Bool.not_eq_true'] at h
  obtain ⟨⟨⟨⟨h1, h2⟩, h3⟩, h4⟩, h5⟩ := h
  have e := s.fetch_clean t _ 4 h4
  have e3 : ¬ (s.tile t).core.pc ≥ 0x20000 := by omega
  simp only [State.row, h1, h2, h5, e, e3]
  simp

/-- A running core that nothing else waits for commits an instruction: its pc and its count of commits move, no more. -/
theorem State.commit_plain {s : State} {t : Nat} (h : s.plain t = true) (len : Nat) (taken : Option Nat)
    (hr : (match (s.tile t).core.run with | .halting => false | .ending .. => false | _ => true) = true) :
    s.commit t len taken = s.modCore t (fun c => { c with pc := taken.getD (c.pc + len), commits := c.commits + 1 }) := by
  simp only [State.plain, Bool.and_eq_true, Bool.not_eq_true', List.isEmpty_iff] at h
  obtain ⟨⟨h1, h2⟩, h3⟩ := h
  have ht : ∀ f : Core → Core, (s.modCore t f).traced t = s.traced t := s.traced_modCore t t
  have e : (Core.ahead { (s.tile t).core with pc := taken.getD ((s.tile t).core.pc + len) }) = false := by simp [Core.ahead, h1]
  have ea : (s.tile t).core.ahead = false := by simp [Core.ahead, h1]
  simp only [State.commit, ea, Bool.false_eq_true, if_false, State.traceCommit, State.modCore_modCore, ht, h2, Bool.not_false, if_true]
  generalize hg' : (s.modCore t fun c => { c with pc := taken.getD (c.pc + len), commits := c.commits + 1 }) = v
  have hg := hg'.symm
  have hw : v.works = s.works := by rw [hg]; rfl
  have hone : v.settleOne t = v := by
    have : (v.tile t).core.run = (s.tile t).core.run := by rw [hg]; simp
    simp only [State.settleOne, this]
    split
    · rfl
    · revert hr; cases (s.tile t).core.run <;> simp
  have hall : ∀ l : List Nat, l.all (fun n => match NMap.get? s.works n with
      | some w => !w.items.any (fun i => match i.st with | .ended st _ => decide (st ≠ .ok) | _ => false)
      | none => true) = true → l.foldl State.cancelOthers v = v := by
    intro l
    induction l with
    | nil => intro _; rfl
    | cons n l ih =>
      intro hl
      rw [List.all_cons, Bool.and_eq_true] at hl
      have : v.cancelOthers n = v := by
        simp only [State.cancelOthers, hw]
        revert hl
        cases NMap.get? s.works n with
        | none => intro _; rfl
        | some w =>
          intro hl
          have := hl.1
          simp only [Bool.not_eq_true'] at this
          exact if_neg (fun k => Bool.false_ne_true (this.symm.trans k))
      rw [List.foldl_cons, this]
      exact ih hl.2
  rw [State.settle, hone]
  have : v.worksOn t = s.worksOn t := by simp only [State.worksOn, hw]
  rw [this, hall _ h3]

end Machine
end Sys2Proof
end

