-- ==== Sys2Proof/Laws/Frames/Ops.lean ====
section
/-! SUPPORT. Frames of shared operations: the queue of commands and the pins are outside what they write. `f_outer` says that
`f` leaves both as they were; `f_steady`, for the few operations that move a pin, what they leave. -/

set_option linter.unusedSimpArgs false
set_option linter.unusedVariables false
set_option linter.unusedTactic false
set_option linter.unreachableTactic false

namespace Sys2Proof.Machine

theorem ite_holds {β : Type} (P : β → Prop) {c : Prop} [Decidable c] {a b : β} (ha : P a) (hb : P b) :
    P (if c then a else b) := by
  split
  · exact ha
  · exact hb

theorem outer_trans {a b c : State} (h : b.pins = a.pins ∧ b.pending = a.pending)
    (k : c.pins = b.pins ∧ c.pending = b.pending) : c.pins = a.pins ∧ c.pending = a.pending :=
  ⟨k.1.trans h.1, k.2.trans h.2⟩

theorem getD_outer (o : Option State) (s : State) (h : ∀ r, o = some r → r.pins = s.pins ∧ r.pending = s.pending) :
    (o.getD s).pins = s.pins ∧ (o.getD s).pending = s.pending := by
  cases o with
  | none => exact ⟨rfl, rfl⟩
  | some r => exact h r rfl

theorem foldlM_option_proj_outer {α β : Type} (P : β → State) (f : β → α → Option β)
    (h : ∀ s x r, f s x = some r → (P r).pins = (P s).pins ∧ (P r).pending = (P s).pending) (l : List α) (s r : β)
    (e : l.foldlM f s = some r) : (P r).pins = (P s).pins ∧ (P r).pending = (P s).pending := by
  induction l generalizing s with
  | nil => cases e; exact ⟨rfl, rfl⟩
  | cons a l ih =>
    rw [List.foldlM_cons] at e
    obtain ⟨m, hm, e⟩ := Option.bind_eq_some_iff.mp e
    exact ⟨(ih m e).1.trans (h s a m hm).1, (ih m e).2.trans (h s a m hm).2⟩

def Steady (s t : State) : Prop :=
  t.pending = s.pending ∧ t.pins.straps = s.pins.straps ∧ t.pins.jtag = s.pins.jtag ∧
    (t.pins.faultN = true → s.pins.faultN = true) ∧ (t.pins.thermtripN = true → s.pins.thermtripN = true)

theorem steady_of_outer {s t : State} (h : t.pins = s.pins ∧ t.pending = s.pending) : Steady s t :=
  ⟨h.2, by rw [h.1], by rw [h.1], fun x => by rwa [h.1] at x, fun x => by rwa [h.1] at x⟩

theorem steady_trans {a b c : State} (h : Steady a b) (k : Steady b c) : Steady a c :=
  ⟨k.1.trans h.1, k.2.1.trans h.2.1, k.2.2.1.trans h.2.2.1, fun x => h.2.2.2.1 (k.2.2.2.1 x),
    fun x => h.2.2.2.2 (k.2.2.2.2 x)⟩

theorem foldl_steady {α : Type} (f : State → α → State) (h : ∀ s x, Steady s (f s x)) (l : List α) (s : State) :
    Steady s (l.foldl f s) := by
  induction l generalizing s with
  | nil => exact steady_of_outer ⟨rfl, rfl⟩
  | cons a l ih => exact steady_trans (h s a) (ih _)

theorem outer_of_next {s t r : State} (h : (.next t : Host.Outcome State Fault Refusal) = .next r)
    (k : t.pins = s.pins ∧ t.pending = s.pending) : r.pins = s.pins ∧ r.pending = s.pending := by
  cases h
  exact k

theorem foldl_proj_outer {α β : Type} (P : β → State) (f : β → α → β)
    (h : ∀ b x, (P (f b x)).pins = (P b).pins ∧ (P (f b x)).pending = (P b).pending) (l : List α) (b : β) :
    (P (l.foldl f b)).pins = (P b).pins ∧ (P (l.foldl f b)).pending = (P b).pending := by
  induction l generalizing b with
  | nil => exact ⟨rfl, rfl⟩
  | cons a l ih => exact ⟨(ih (f b a)).1.trans (h b a).1, (ih (f b a)).2.trans (h b a).2⟩

theorem foldlM_option_outer {α : Type} (f : State → α → Option State)
    (h : ∀ s x r, f s x = some r → r.pins = s.pins ∧ r.pending = s.pending) (l : List α) (s r : State)
    (e : l.foldlM f s = some r) : r.pins = s.pins ∧ r.pending = s.pending := by
  induction l generalizing s with
  | nil => cases e; exact ⟨rfl, rfl⟩
  | cons a l ih =>
    rw [List.foldlM_cons] at e
    obtain ⟨m, hm, e⟩ := Option.bind_eq_some_iff.mp e
    exact ⟨(ih m e).1.trans (h s a m hm).1, (ih m e).2.trans (h s a m hm).2⟩

theorem foldlM_except_outer {α β ε : Type} (P : β → State) (f : β → α → Except ε β)
    (h : ∀ s x r, f s x = .ok r → (P r).pins = (P s).pins ∧ (P r).pending = (P s).pending) (l : List α) (s r : β)
    (e : l.foldlM f s = .ok r) : (P r).pins = (P s).pins ∧ (P r).pending = (P s).pending := by
  induction l generalizing s with
  | nil => cases e; exact ⟨rfl, rfl⟩
  | cons a l ih =>
    rw [List.foldlM_cons] at e
    cases hm : f s a with
    | error x => rw [hm] at e; cases e
    | ok m => rw [hm] at e; exact ⟨(ih m e).1.trans (h s a m hm).1, (ih m e).2.trans (h s a m hm).2⟩

theorem foldl_outer {α : Type} (f : State → α → State) (h : ∀ s x,
    (f s x).pins = s.pins ∧ (f s x).pending = s.pending)
    (l : List α) (s : State) : (l.foldl f s).pins = s.pins ∧ (l.foldl f s).pending = s.pending := by
  induction l generalizing s with
  | nil => exact ⟨rfl, rfl⟩
  | cons a l ih => exact ⟨(ih (f s a)).1.trans (h s a).1, (ih (f s a)).2.trans (h s a).2⟩

theorem State.setTile_outer (s : State) (t : Nat) (x : Tile) : (State.setTile s t x).pins = s.pins ∧
    (State.setTile s t x).pending = s.pending := by
  simp [State.setTile]

theorem State.modTile_outer (s : State) (t : Nat) (f : Tile → Tile) : (State.modTile s t f).pins = s.pins ∧
    (State.modTile s t f).pending = s.pending := by
  simp [State.modTile, State.setTile_outer]

theorem State.modCore_outer (s : State) (t : Nat) (f : Core → Core) : (State.modCore s t f).pins = s.pins ∧
    (State.modCore s t f).pending = s.pending := by
  simp [State.modCore, State.modTile_outer]

theorem State.modQuad_outer (s : State) (q : Nat) (f : Quad → Quad) : (State.modQuad s q f).pins = s.pins ∧
    (State.modQuad s q f).pending = s.pending := by
  simp [State.modQuad]

theorem State.modStack_outer (s : State) (k : Nat) (f : Stack → Stack) : (State.modStack s k f).pins = s.pins ∧
    (State.modStack s k f).pending = s.pending := by
  simp [State.modStack]

theorem State.modFar_outer (s : State) (p : Nat) (f : Far → Far) : (State.modFar s p f).pins = s.pins ∧
    (State.modFar s p f).pending = s.pending := by
  simp [State.modFar]

theorem State.modOhm_outer (s : State) (p : Nat) (f : Port → Port) : (State.modOhm s p f).pins = s.pins ∧
    (State.modOhm s p f).pending = s.pending := by
  simp [State.modOhm]

theorem State.modQp_outer (s : State) (q : Nat) (f : Qp → Qp) : (State.modQp s q f).pins = s.pins ∧
    (State.modQp s q f).pending = s.pending := by
  simp [State.modQp]

theorem State.modCtx_outer (s : State) (c : Nat) (f : Ctx → Ctx) : (State.modCtx s c f).pins = s.pins ∧
    (State.modCtx s c f).pending = s.pending := by
  unfold State.modCtx; split <;> simp []

theorem State.modSeq_outer (s : State) (n : Nat) (f : Seq → Seq) : (State.modSeq s n f).pins = s.pins ∧
    (State.modSeq s n f).pending = s.pending := by
  simp [State.modSeq]

theorem State.modWork_outer (s : State) (w : Nat) (f : Work → Work) : (State.modWork s w f).pins = s.pins ∧
    (State.modWork s w f).pending = s.pending := by
  unfold State.modWork; split <;> simp []

theorem State.count_outer (s : State) (off n : Nat) : (State.count s off n).pins = s.pins ∧
    (State.count s off n).pending = s.pending := by
  simp [State.count]

theorem State.used_outer (s : State) (n : Nat) : (State.used s n).pins = s.pins ∧ (State.used s n).pending = s.pending
    := by
  simp [State.used]

theorem State.raiseMsix_outer (s : State) (v : Nat) : (State.raiseMsix s v).pins = s.pins ∧
    (State.raiseMsix s v).pending = s.pending := by
  unfold State.raiseMsix; (repeat' split) <;> simp []

theorem State.raise_outer (s : State) (e : Ev) : (State.raise s e).pins = s.pins ∧ (State.raise s e).pending =
    s.pending := by
  grind [State.raise, State.raiseMsix_outer]

theorem State.raiseAll_outer (s : State) (es : List Ev) : (State.raiseAll s es).pins = s.pins ∧
    (State.raiseAll s es).pending = s.pending := by
  simp [State.raiseAll, State.raise_outer, foldl_outer]

theorem State.markReload_outer (s : State) (t cell : Nat) : (State.markReload s t cell).pins = s.pins ∧
    (State.markReload s t cell).pending = s.pending := by
  grind [State.markReload, State.setTile_outer, State.raiseAll_outer]

theorem State.afterRead_outer (s : State) (t : Nat) (r : CellRead) (scrub : Bool) : (State.afterRead s t r scrub).pins
    = s.pins ∧ (State.afterRead s t r scrub).pending = s.pending := by
  simp [State.afterRead, State.setTile_outer, State.raise_outer, State.raiseAll_outer, State.markReload_outer,
      foldl_outer]

theorem State.countSp_outer (s : State) (t a n : Nat) (write : Bool) : (State.countSp s t a n write).pins = s.pins ∧
    (State.countSp s t a n write).pending = s.pending := by
  grind [State.countSp, State.count_outer]

theorem State.spReadQuiet_outer (s : State) (t a n : Nat) : (State.spReadQuiet s t a n).2.2.pins = s.pins ∧
    (State.spReadQuiet s t a n).2.2.pending = s.pending := by
  simp [State.spReadQuiet, State.afterRead_outer]

theorem State.spRead_outer (s : State) (t a n : Nat) : (State.spRead s t a n).2.2.pins = s.pins ∧
    (State.spRead s t a n).2.2.pending = s.pending := by
  simp [State.spRead, State.countSp_outer, State.spReadQuiet_outer]

theorem State.spWrite_outer (s : State) (t a : Nat) (bs : List Byte) (poison : Bool) :
    (State.spWrite s t a bs poison).pins = s.pins ∧ (State.spWrite s t a bs poison).pending = s.pending := by
  simp [State.spWrite, State.modTile_outer, State.afterRead_outer, State.countSp_outer, foldl_outer]

theorem State.endItem_outer (s : State) (t : Nat) (st : Status) (result : Nat) : (State.endItem s t st result).pins =
    s.pins ∧ (State.endItem s t st result).pending = s.pending := by
  simp [State.endItem, State.modCore_outer]

theorem State.settleOne_outer (s : State) (t : Nat) : (State.settleOne s t).pins = s.pins ∧
    (State.settleOne s t).pending = s.pending := by
  grind [State.settleOne, State.raise_outer, State.endItem_outer]

theorem State.cancelTile_outer (s : State) (t : Nat) : (State.cancelTile s t).pins = s.pins ∧
    (State.cancelTile s t).pending = s.pending := by
  simp [State.cancelTile, State.modTile_outer, State.settleOne_outer]

theorem State.cancelOthers_outer (s : State) (n : Nat) : (State.cancelOthers s n).pins = s.pins ∧
    (State.cancelOthers s n).pending = s.pending := by
  unfold State.cancelOthers; (repeat' split) <;> simp [State.modWork_outer, State.cancelTile_outer, foldl_outer]

theorem State.settle_outer (s : State) (t : Nat) : (State.settle s t).pins = s.pins ∧ (State.settle s t).pending =
    s.pending := by
  simp [State.settle, State.settleOne_outer, State.cancelOthers_outer, foldl_outer]

theorem State.complete_outer (s : State) (t e n : Nat) (st : Status) (flags : Nat) :
    (State.complete s t e n st flags).pins = s.pins ∧ (State.complete s t e n st flags).pending = s.pending := by
  simp [State.complete, State.modTile_outer, State.settle_outer]

end Sys2Proof.Machine
end

