-- ==== Sys2Proof/Laws/Frames/Mem.lean ====
section
/-! SUPPORT. Frames of the memory tiers: the queue of commands and the pins are outside what they write. -/

set_option linter.unusedSimpArgs false
set_option linter.unusedVariables false
set_option linter.unusedTactic false
set_option linter.unreachableTactic false

namespace Sys2Proof.Machine

theorem State.countTier_outer (s : State) (pa n : Nat) (write : Bool) : (State.countTier s pa n write).pins = s.pins ∧
    (State.countTier s pa n write).pending = s.pending := by
  unfold State.countTier; (repeat' split) <;> simp [State.count_outer]

theorem State.kvStruck_outer (s : State) (pa : Nat) : (State.kvStruck s pa).pins = s.pins ∧
    (State.kvStruck s pa).pending = s.pending := by
  unfold State.kvStruck; split <;> simp []

theorem State.strikeHbm_outer (s : State) (us : List Upset) : (State.strikeHbm s us).pins = s.pins ∧
    (State.strikeHbm s us).pending = s.pending := by
  grind [State.strikeHbm, foldl_outer]

theorem State.hbmUnit_outer (s : State) (n : Nat) (patrol : Bool) : (State.hbmUnit s n patrol).2.pins = s.pins ∧
    (State.hbmUnit s n patrol).2.pending = s.pending := by
  grind [State.hbmUnit, State.raise_outer, State.kvStruck_outer]

theorem State.copiesDiffer_outer (s : State) (n : Nat) : (State.copiesDiffer s n).2.pins = s.pins ∧
    (State.copiesDiffer s n).2.pending = s.pending := by
  unfold State.copiesDiffer; split <;> simp [State.raise_outer]

theorem State.decrypt_outer (s : State) (m : List (Nat × Byte)) (keys : NMap Nat) (lost : List Nat) (pa n key : Nat) :
    (State.decrypt s m keys lost pa n key).2.pins = s.pins ∧ (State.decrypt s m keys lost pa n key).2.pending =
    s.pending := by
  grind [State.decrypt, State.used_outer]

theorem State.hbmRead_outer (s : State) (pa n key : Nat) :
    (s.hbmRead pa n key).st.pins = s.pins ∧ (s.hbmRead pa n key).st.pending = s.pending := by
  refine outer_trans (foldl_proj_outer (fun r : Bool × State => r.2) _ (fun b x => ?_) _ (false,
      s)) (State.decrypt_outer ..)
  exact outer_trans (State.hbmUnit_outer ..) (State.copiesDiffer_outer ..)

theorem State.farRead_outer (s : State) (pa n key : Nat) : (State.farRead s pa n key).st.pins = s.pins ∧
    (State.farRead s pa n key).st.pending = s.pending := by
  simp [State.farRead, State.decrypt_outer]

theorem State.hbmMerge_outer (s : State) (u key : Nat) : (State.hbmMerge s u key).pins = s.pins ∧
    (State.hbmMerge s u key).pending = s.pending := by
  simp [State.hbmMerge, State.hbmUnit_outer, State.decrypt_outer]

theorem State.farMerge_outer (s : State) (u key : Nat) : (State.farMerge s u key).pins = s.pins ∧
    (State.farMerge s u key).pending = s.pending := by
  simp [State.farMerge, State.decrypt_outer]

theorem State.hbmWrite_outer (s : State) (pa : Nat) (bs : List Byte) (key : Nat) (poison : Bool) :
    (State.hbmWrite s pa bs key poison).pins = s.pins ∧ (State.hbmWrite s pa bs key poison).pending = s.pending := by
  simp [State.hbmWrite, State.copiesDiffer_outer, State.hbmMerge_outer, foldl_outer]

theorem State.farWrite_outer (s : State) (pa : Nat) (bs : List Byte) (key : Nat) (poison : Bool) :
    (State.farWrite s pa bs key poison).pins = s.pins ∧ (State.farWrite s pa bs key poison).pending = s.pending := by
  simp [State.farWrite, State.farMerge_outer, foldl_outer]

theorem State.hostWrite_outer (s : State) (h : Nat) (bs : List Byte) (poison : Bool) :
    (State.hostWrite s h bs poison).pins = s.pins ∧ (State.hostWrite s h bs poison).pending = s.pending := by
  grind [State.hostWrite, foldl_outer]

theorem State.cacheLine_outer (s : State) (l : Nat) : (State.cacheLine s l).pins = s.pins ∧
    (State.cacheLine s l).pending = s.pending := by
  grind [State.cacheLine, State.used_outer]

theorem State.hbmDiscard_outer (s : State) (k : Nat) : (State.hbmDiscard s k).pins = s.pins ∧
    (State.hbmDiscard s k).pending = s.pending := by
  simp [State.hbmDiscard, State.modStack_outer]

theorem State.groupRead_outer (s : State) (r : Region) (g key : Nat) : (State.groupRead s r g key).st.pins = s.pins ∧
    (State.groupRead s r g key).st.pending = s.pending := by
  grind [State.groupRead, State.hbmRead_outer, State.farRead_outer]

theorem State.tierRead_outer (s : State) (pa n key : Nat) :
    (s.tierRead pa n key).st.pins = s.pins ∧ (s.tierRead pa n key).st.pending = s.pending := by
  unfold State.tierRead
  repeat' split
  all_goals first
    | exact foldl_proj_outer MemRead.st _ (fun b x => by simp [State.groupRead_outer]) _ _
    | simp [State.hbmRead_outer, State.farRead_outer]

theorem State.tierWrite_outer (s : State) (pa : Nat) (bs : List Byte) (key : Nat) (poison : Bool) :
    (State.tierWrite s pa bs key poison).pins = s.pins ∧ (State.tierWrite s pa bs key poison).pending = s.pending :=
    by
  unfold State.tierWrite; split <;> simp [State.hbmWrite_outer, State.farWrite_outer]

theorem State.groupWrite_outer (s : State) (r : Region) (g : Nat) (bs : List Byte) (key : Nat) (poison : Bool) :
    (State.groupWrite s r g bs key poison).2.pins = s.pins ∧ (State.groupWrite s r g bs key poison).2.pending =
    s.pending := by
  unfold State.groupWrite; split <;> simp [State.tierWrite_outer]

end Sys2Proof.Machine
end

