-- ==== Sys2Proof/Laws/Frames/Operands.lean ====
section
/-! SUPPORT. Frames of trace and exceptions of a core: the queue of commands and the pins are outside what they write. -/

set_option linter.unusedSimpArgs false
set_option linter.unusedVariables false
set_option linter.unusedTactic false
set_option linter.unreachableTactic false

namespace Sys2Proof.Machine

theorem State.traceAdd_outer (s : State) (r : TraceRec) : (State.traceAdd s r).pins = s.pins ∧
    (State.traceAdd s r).pending = s.pending := by
  simp [State.traceAdd, State.tierWrite_outer, foldl_outer]

theorem State.traceFlush_outer (s : State) (t : Nat) : (State.traceFlush s t).pins = s.pins ∧
    (State.traceFlush s t).pending = s.pending := by
  grind [State.traceFlush, State.modCore_outer, State.traceAdd_outer]

theorem State.traceSync_outer (s : State) (t : Nat) : (State.traceSync s t).pins = s.pins ∧
    (State.traceSync s t).pending = s.pending := by
  simp [State.traceSync, State.traceAdd_outer, State.traceFlush_outer]

theorem State.traceCommit_outer (s : State) (t : Nat) (taken : Option Nat) :
    (s.traceCommit t taken).pins = s.pins ∧ (s.traceCommit t taken).pending = s.pending := by
  unfold State.traceCommit
  extract_lets s1 s2
  have h1 : s1.pins = s.pins ∧ s1.pending = s.pending := State.modCore_outer ..
  have h2 : s2.pins = s.pins ∧ s2.pending = s.pending := by
    refine outer_trans h1 ?_
    simp only [s2]
    repeat' split
    all_goals simp [State.modCore_outer, State.traceFlush_outer]
  repeat' split
  all_goals simp [h1, h2, State.traceSync_outer]

theorem State.except_outer (s : State) (t cause pc detail : Nat) : (State.except s t cause pc detail).pins = s.pins ∧
    (State.except s t cause pc detail).pending = s.pending := by
  unfold State.except; split <;> simp [State.modCore_outer, State.settle_outer, State.traceAdd_outer,
      State.traceFlush_outer]

end Sys2Proof.Machine
end

