-- ==== Sys2Proof/Laws/Frames/Xlate.lean ====
section
/-! SUPPORT. Frames of translation, swapping and KV runs: the queue of commands and the pins are outside what they write. -/

set_option linter.unusedSimpArgs false
set_option linter.unusedVariables false
set_option linter.unusedTactic false
set_option linter.unreachableTactic false

namespace Sys2Proof.Machine

theorem Answer.ifOk_outer {α β : Type} (x : Answer α) (f : α → State → Answer β)
    (h : ∀ a t, (f a t).2.pins = t.pins ∧ (f a t).2.pending = t.pending) :
    (x.ifOk f).2.pins = x.2.pins ∧ (x.ifOk f).2.pending = x.2.pending := by
  unfold Answer.ifOk
  split
  · exact h _ _
  · exact ⟨rfl, rfl⟩

theorem walkF_outer (l : Nat) (s : State) (table va : Nat) :
    (walkF l s table va).2.2.pins = s.pins ∧ (walkF l s table va).2.2.pending = s.pending := by
  induction l generalizing s table with
  | zero => exact ⟨rfl, rfl⟩
  | succ l ih =>
    have h := State.hbmRead_outer s (pteAt l table va) 8 0
    simp only [walkF]
    repeat' split
    all_goals first
      | exact h
      | exact outer_trans h (ih _ _)

theorem State.walk_outer (s : State) (c va : Nat) :
    (s.walk c va).2.pins = s.pins ∧ (s.walk c va).2.pending = s.pending := by
  unfold State.walk
  (repeat' split) <;> first
    | exact ⟨rfl, rfl⟩
    | exact walkF_outer ..

theorem State.tlbAdd_outer (s : State) (t c va pa size pte : Nat) : (State.tlbAdd s t c va pa size pte).pins = s.pins
    ∧ (State.tlbAdd s t c va pa size pte).pending = s.pending := by
  simp [State.tlbAdd, State.modTile_outer]

theorem State.walkTile_outer (s : State) (t c va : Nat) :
    (s.walkTile t c va).2.pins = s.pins ∧ (s.walkTile t c va).2.pending = s.pending := by
  unfold State.walkTile
  (repeat' split) <;> first
    | exact ⟨rfl, rfl⟩
    | exact outer_trans (walkF_outer ..) (State.modTile_outer ..)

theorem State.invalidate_outer (s : State) (c va n : Nat) : (State.invalidate s c va n).pins = s.pins ∧
    (State.invalidate s c va n).pending = s.pending := by
  simp [State.invalidate]

theorem State.invalidateKv_outer (s : State) (c slot : Nat) : (State.invalidateKv s c slot).pins = s.pins ∧
    (State.invalidateKv s c slot).pending = s.pending := by
  simp [State.invalidateKv]

theorem newTable_aux (s : State) (a : Nat) (z : List Byte) (c : Nat) (f : Ctx → Ctx) (r : Nat × State)
    (e : (a, (s.hbmWrite a z 0 false).modCtx c f) = r) : r.2.pins = s.pins ∧ r.2.pending = s.pending := by
  subst e
  exact outer_trans (State.hbmWrite_outer ..) (State.modCtx_outer ..)

theorem State.newTable_outer (s : State) (c : Nat) (r : Nat × State) (h : s.newTable c = some r) :
    r.2.pins = s.pins ∧ r.2.pending = s.pending := by
  obtain ⟨a, -, e⟩ := Option.map_eq_some_iff.mp h
  exact newTable_aux _ _ _ _ _ _ e

theorem mapF_outer (l : Nat) (s : State) (c table va lv pte : Nat) (r : State)
    (h : mapF l s c table va lv pte = some r) : r.pins = s.pins ∧ r.pending = s.pending := by
  induction l generalizing s table with
  | zero => cases h
  | succ l ih =>
    simp only [mapF] at h
    repeat' split at h
    · cases h; exact State.hbmWrite_outer ..
    · exact ih _ _ h
    · cases h
    · next a s1 hn => exact outer_trans (outer_trans (State.newTable_outer s c _ hn) (State.hbmWrite_outer ..)) (ih _ _ h)

theorem State.mapEntry_outer (s : State) (c va level pte : Nat) (r : State) (h : s.mapEntry c va level pte = some r) :
    r.pins = s.pins ∧ r.pending = s.pending := by
  simp only [State.mapEntry] at h
  repeat' split at h
  · cases h
  · exact mapF_outer _ _ _ _ _ _ _ _ h
  · cases h
  · next a s1 hn =>
    exact outer_trans (outer_trans (State.newTable_outer s c _ hn) (State.modCtx_outer ..)) (mapF_outer _ _ _ _ _ _ _ _ h)

theorem State.copyTier_outer (s : State) (src dst n key : Nat) :
    (s.copyTier src dst n key).pins = s.pins ∧ (s.copyTier src dst n key).pending = s.pending :=
  foldl_outer _ (fun _ _ => outer_trans (State.tierRead_outer ..) (State.tierWrite_outer ..)) _ _

theorem State.sealOut_outer (s : State) (c src h n key : Nat) :
    (s.sealOut c src h n key).pins = s.pins ∧ (s.sealOut c src h n key).pending = s.pending := by
  have e := foldl_proj_outer (fun r : List (Nat × List Byte × Bool) × State => r.2)
    (fun a i =>
      let m := a.2.tierRead (src + 64 * i) 64 key
      (a.1 ++ [(frameAt h (64 * i), m.bytes, m.bad)], m.st))
    (fun b x => State.tierRead_outer ..) (List.range (n / 64)) ([], s)
  exact outer_trans (outer_trans e (foldl_outer _ (fun _ _ => State.hostWrite_outer ..) _ _)) (State.modCtx_outer ..)

theorem State.sealIn_outer (s : State) (c h dst n key : Nat) (bad : Nat → Bool) :
    (State.sealIn s c h dst n key bad).pins = s.pins ∧ (State.sealIn s c h dst n key bad).pending = s.pending := by
  unfold State.sealIn; split <;> simp [State.tierWrite_outer, foldl_outer]

theorem State.swapTo_outer (s : State) (c src backing n key : Nat) : (State.swapTo s c src backing n key).pins =
    s.pins ∧ (State.swapTo s c src backing n key).pending = s.pending := by
  unfold State.swapTo; split <;> simp [State.copyTier_outer, State.sealOut_outer]

theorem State.copyLate_outer (s : State) (p src dst n key : Nat) (bad : Nat → Bool) :
    (State.copyLate s p src dst n key bad).pins = s.pins ∧ (State.copyLate s p src dst n key bad).pending = s.pending
    := by
  grind [State.copyLate, State.used_outer, State.raise_outer, State.tierWrite_outer, State.copyTier_outer,
      foldl_outer]

theorem State.swapFrom_outer (s : State) (c backing dst n key : Nat) (bad : Nat → Bool) :
    (State.swapFrom s c backing dst n key bad).pins = s.pins ∧ (State.swapFrom s c backing dst n key bad).pending =
    s.pending := by
  unfold State.swapFrom; split <;> simp [State.copyTier_outer, State.sealIn_outer, State.copyLate_outer]

theorem State.pageIn_outer (s : State) (c va : Nat) (bad : Nat → Bool) (r : State) (h : s.pageIn c va bad = some r) :
    r.pins = s.pins ∧ r.pending = s.pending := by
  simp only [State.pageIn] at h
  repeat' split at h
  · cases h
  · cases h
  · obtain ⟨m, hm, rfl⟩ := Option.map_eq_some_iff.mp h
    exact outer_trans (outer_trans (State.swapFrom_outer ..) (State.mapEntry_outer _ _ _ _ _ _ hm)) (State.modCtx_outer ..)

theorem State.placeRun_outer (s : State) (part key : Nat) (rs : NMap Run) (inh : Nat) (a : Attn) (layer n : Nat)
    (r : Nat × State) (h : s.placeRun part key rs inh a layer n = some r) :
    r.2.pins = s.pins ∧ r.2.pending = s.pending := by
  simp only [State.placeRun] at h
  split at h
  · cases h; exact ⟨rfl, rfl⟩
  · obtain ⟨b, -, rfl⟩ := Option.map_eq_some_iff.mp h
    exact State.hbmWrite_outer ..

theorem State.runIn_outer (s : State) (slot key : Nat) (bad : Nat → Bool) (r : State) (h : s.runIn slot key bad = some r) :
    r.pins = s.pins ∧ r.pending = s.pending := by
  simp only [State.runIn] at h
  repeat' split at h
  · cases h
  · obtain ⟨p, hp, rfl⟩ := Option.map_eq_some_iff.mp h
    exact outer_trans (outer_trans (State.placeRun_outer _ _ _ _ _ _ _ _ _ hp) (State.swapFrom_outer ..))
      (State.modSeq_outer ..)
  · cases h

theorem State.stewardXlate_outer (s : State) (c va : Nat) (write : Bool) (bad : Nat → Bool) :
    (s.stewardXlate c va write bad).2.pins = s.pins ∧ (s.stewardXlate c va write bad).2.pending = s.pending := by
  unfold State.stewardXlate
  split
  · exact ⟨rfl, rfl⟩
  · have h := State.walk_outer s c va
    extract_lets w w'
    have hw : w'.2.pins = s.pins ∧ w'.2.pending = s.pending := by
      simp only [w']
      repeat' split
      · next e => exact outer_trans (outer_trans h (State.pageIn_outer _ _ _ _ _ e)) (State.walk_outer ..)
      · exact h
      · exact h
    repeat' split
    all_goals exact hw

theorem State.physRead_outer (s : State) (pa n key : Nat) (ext : Ext) : (State.physRead s pa n key ext).st.pins =
    s.pins ∧ (State.physRead s pa n key ext).st.pending = s.pending := by
  unfold State.physRead; (repeat' split) <;> simp [State.raise_outer, State.spReadQuiet_outer, State.tierRead_outer]

theorem State.stewardReach_outer (s : State) (c va : Nat) (write : Bool) (bad : Nat → Bool) :
    (s.stewardReach c va write bad).2.pins = s.pins ∧ (s.stewardReach c va write bad).2.pending = s.pending :=
  outer_trans (State.stewardXlate_outer s c va write bad) (Answer.ifOk_outer _ _ (fun a t => by split <;> exact ⟨rfl,
      rfl⟩))

theorem State.stewardRead_outer (s : State) (c va n : Nat) (ext : Ext) :
    (s.stewardRead c va n ext).2.pins = s.pins ∧ (s.stewardRead c va n ext).2.pending = s.pending := by
  refine foldl_proj_outer (fun a : Answer (List Byte) => a.2) _ (fun a ch => Answer.ifOk_outer _ _ (fun bs t => ?_)) _ (.ok [], s)
  refine outer_trans (State.stewardReach_outer ..) (Answer.ifOk_outer _ _ (fun x t => ?_))
  dsimp only
  (repeat' split) <;> exact State.physRead_outer ..

theorem State.physWrite_outer (s : State) (pa : Nat) (bs : List Byte) (key : Nat) (poison : Bool) :
    (State.physWrite s pa bs key poison).pins = s.pins ∧ (State.physWrite s pa bs key poison).pending = s.pending :=
    by
  unfold State.physWrite; split <;> simp [State.spWrite_outer, State.hostWrite_outer, State.tierWrite_outer]

theorem State.stewardWrite_outer (s : State) (c va : Nat) (bs : List Byte) (bad : Nat → Bool) :
    (s.stewardWrite c va bs bad).2.pins = s.pins ∧ (s.stewardWrite c va bs bad).2.pending = s.pending := by
  refine outer_trans (foldl_proj_outer (fun a : Answer (List (Nat × Nat × List Byte)) => a.2) _
    (fun a ch => Answer.ifOk_outer _ _ (fun ps t => ?_)) _ (.ok [], s))
    (Answer.ifOk_outer _ _ (fun ps t => foldl_outer _ (fun _ _ => State.physWrite_outer ..) _ _))
  refine outer_trans (State.stewardReach_outer ..) (Answer.ifOk_outer _ _ (fun x t => ?_))
  split <;> exact ⟨rfl, rfl⟩

end Sys2Proof.Machine
end

