-- ==== Sys2Proof/Laws/Frames/HostOps.lean ====
section
/-! SUPPORT. Frames of host commands, signals, barriers and messages: the queue of commands and the pins are outside what they write. -/

set_option linter.unusedSimpArgs false
set_option linter.unusedVariables false
set_option linter.unusedTactic false
set_option linter.unreachableTactic false

namespace Sys2Proof.Machine

theorem State.raiseQp_outer (s : State) (n : Nat) : (State.raiseQp s n).pins = s.pins ∧ (State.raiseQp s n).pending =
    s.pending := by
  simp [State.raiseQp, State.modQp_outer, State.raiseMsix_outer]

theorem State.replyLate_outer (s : State) (h : Pkt) (st : Status) (r0 r1 : Nat) (late : Bool) :
    (State.replyLate s h st r0 r1 late).pins = s.pins ∧ (State.replyLate s h st r0 r1 late).pending = s.pending := by
  grind [State.replyLate, State.modQp_outer, State.hbmWrite_outer, State.hostWrite_outer, State.raiseQp_outer]

theorem State.reply_outer (s : State) (h : Pkt) (st : Status) (r0 r1 : Nat) : (State.reply s h st r0 r1).pins = s.pins
    ∧ (State.reply s h st r0 r1).pending = s.pending := by
  grind [State.reply, State.replyLate_outer]

theorem State.replyS_outer (s : State) (h : Pkt) (st : Status) : (State.replyS s h st).pins = s.pins ∧
    (State.replyS s h st).pending = s.pending := by
  grind [State.replyS, State.reply_outer]

theorem State.take_outer (s : State) (h : Pkt) : (State.take s h).pins = s.pins ∧ (State.take s h).pending = s.pending
    := by
  grind [State.take, State.modQp_outer]

theorem State.host_outer (s : State) (h : Pkt) (d work ok : Bool) (body : Nat → State → State)
    (hb : ∀ n s, (body n s).pins = s.pins ∧ (body n s).pending = s.pending) :
    (s.host h d work ok body).pins = s.pins ∧ (s.host h d work ok body).pending = s.pending := by
  simp only [State.host]
  repeat' split
  all_goals first
    | exact ⟨rfl, rfl⟩
    | exact State.modQp_outer ..
    | exact outer_trans (State.take_outer ..) (State.replyS_outer ..)
    | exact outer_trans (State.take_outer ..) (hb _ _)

theorem State.orStatus_outer {α : Type} (h : Pkt) (x : Answer α) (f : α → State → State)
    (k : ∀ a t, (f a t).pins = t.pins ∧ (f a t).pending = t.pending) :
    (State.orStatus h x f).pins = x.2.pins ∧ (State.orStatus h x f).pending = x.2.pending := by
  unfold State.orStatus
  split
  · exact k _ _
  · exact State.replyS_outer ..

theorem State.orStatus_from {s : State} {α : Type} (h : Pkt) (x : Answer α) (f : α → State → State)
    (hx : x.2.pins = s.pins ∧ x.2.pending = s.pending)
    (k : ∀ a t, t.pins = s.pins ∧ t.pending = s.pending → (f a t).pins = s.pins ∧ (f a t).pending = s.pending) :
    (State.orStatus h x f).pins = s.pins ∧ (State.orStatus h x f).pending = s.pending := by
  unfold State.orStatus
  split
  · exact k _ _ hx
  · exact outer_trans hx (State.replyS_outer ..)

theorem State.host_from (s : State) (h : Pkt) (d work ok : Bool) (body : Nat → State → State)
    (k : ∀ c t, t.pins = s.pins ∧ t.pending = s.pending → (body c t).pins = s.pins ∧ (body c t).pending = s.pending) :
    (s.host h d work ok body).pins = s.pins ∧ (s.host h d work ok body).pending = s.pending := by
  unfold State.host
  dsimp only
  repeat' split
  · exact ⟨rfl, rfl⟩
  · exact State.modQp_outer ..
  · exact outer_trans (State.take_outer ..) (State.replyS_outer ..)
  · exact k _ _ (State.take_outer ..)

theorem State.decideWait_outer (s : State) (t : Nat) : (State.decideWait s t).pins = s.pins ∧
    (State.decideWait s t).pending = s.pending := by
  unfold State.decideWait; (repeat' split) <;> simp [State.modCore_outer]

theorem State.decideWaits_outer (s : State) (c : Nat) : (State.decideWaits s c).pins = s.pins ∧
    (State.decideWaits s c).pending = s.pending := by
  simp [State.decideWaits, State.decideWait_outer, foldl_outer]

theorem State.wakeWaits_outer (s : State) (c ident count : Nat) : (State.wakeWaits s c ident count).pins = s.pins ∧
    (State.wakeWaits s c ident count).pending = s.pending := by
  simp [State.wakeWaits, State.count_outer, State.reply_outer, foldl_outer]

theorem State.addDiscarded_outer (s : State) (c ident : Nat) (barrier : Bool) :
    (State.addDiscarded s c ident barrier).pins = s.pins ∧ (State.addDiscarded s c ident barrier).pending = s.pending
    := by
  simp [State.addDiscarded, State.raise_outer]

theorem State.signalAdd_outer (s : State) (c ident amount : Nat) : (State.signalAdd s c ident amount).pins = s.pins ∧
    (State.signalAdd s c ident amount).pending = s.pending := by
  unfold State.signalAdd; (repeat' split) <;> simp [State.modCtx_outer, State.count_outer, State.decideWaits_outer,
      State.wakeWaits_outer, State.addDiscarded_outer]

theorem State.send_outer (s : State) (m : Mgmt) : (State.send s m).pins = s.pins ∧ (State.send s m).pending =
    s.pending := by
  unfold State.send; split <;> simp []

theorem State.mgmtDrop_outer (s : State) (m : MgmtHdr) : (State.mgmtDrop s m).pins = s.pins ∧
    (State.mgmtDrop s m).pending = s.pending := by
  grind [State.mgmtDrop, State.count_outer, State.raise_outer]

theorem State.countArrival_outer (s : State) (c ident : Nat) : (State.countArrival s c ident).pins = s.pins ∧
    (State.countArrival s c ident).pending = s.pending := by
  grind [State.countArrival, State.complete_outer, State.decideWaits_outer, State.addDiscarded_outer,
      State.send_outer]

theorem State.arrive_outer (s : State) (c ident : Nat) : (State.arrive s c ident).pins = s.pins ∧
    (State.arrive s c ident).pending = s.pending := by
  unfold State.arrive; (repeat' split) <;> simp [State.addDiscarded_outer, State.send_outer, State.countArrival_outer]

theorem State.arriveN_outer (s : State) (c ident n : Nat) :
    (s.arriveN c ident n).pins = s.pins ∧ (s.arriveN c ident n).pending = s.pending := by
  induction n generalizing s with
  | zero => exact ⟨rfl, rfl⟩
  | succ n ih => exact outer_trans (State.arrive_outer ..) (ih _)

theorem State.breakBarrier_outer (s : State) (c ident : Nat) : (State.breakBarrier s c ident).pins = s.pins ∧
    (State.breakBarrier s c ident).pending = s.pending := by
  grind [State.breakBarrier, State.raise_outer, State.complete_outer, State.decideWaits_outer, State.send_outer]

theorem State.act_outer (s : State) (t ident amount : Nat) (barrier : Bool) :
    (s.act t ident amount barrier).pins = s.pins ∧ (s.act t ident amount barrier).pending = s.pending := by
  simp only [State.act]
  have e := foldl_outer (fun (s : State) (w : Nat) => s.modWork w (fun x => { x with dirty := true }))
    (fun _ _ => State.modWork_outer ..) (s.worksOn t) s
  repeat' split
  all_goals first
    | exact ⟨rfl, rfl⟩
    | exact outer_trans (State.modCore_outer ..) (State.settle_outer ..)
    | exact outer_trans e (State.arriveN_outer ..)
    | exact outer_trans e (State.signalAdd_outer ..)

end Sys2Proof.Machine
end

