-- ==== Sys2Proof/Laws/Frames/Dma.lean ====
section
/-! SUPPORT. Frames of transfers: the queue of commands and the pins are outside what they write. -/

set_option linter.unusedSimpArgs false
set_option linter.unusedVariables false
set_option linter.unusedTactic false
set_option linter.unreachableTactic false

namespace Sys2Proof.Machine

theorem State.doneX_outer (s : State) (t : Nat) (q : Xfer) (st : Status) : (State.doneX s t q st).pins = s.pins ∧
    (State.doneX s t q st).pending = s.pending := by
  simp [State.doneX, State.modTile_outer, State.complete_outer]

theorem State.suspendCtx_outer (s : State) (c : Nat) : (State.suspendCtx s c).pins = s.pins ∧
    (State.suspendCtx s c).pending = s.pending := by
  simp [State.suspendCtx, State.modTile_outer, State.modCtx_outer, foldl_outer]

theorem State.resumeCtx_outer (s : State) (c : Nat) : (State.resumeCtx s c).pins = s.pins ∧
    (State.resumeCtx s c).pending = s.pending := by
  unfold State.resumeCtx; (repeat' split) <;> simp [State.modTile_outer, State.modCtx_outer, foldl_outer]

theorem State.postRecord_outer (s : State) (t ticket : Nat) : (State.postRecord s t ticket).pins = s.pins ∧
    (State.postRecord s t ticket).pending = s.pending := by
  unfold State.postRecord; (repeat' split) <;> simp [State.raise_outer]

theorem State.afterAck_outer (s : State) (t ticket : Nat) : (State.afterAck s t ticket).pins = s.pins ∧
    (State.afterAck s t ticket).pending = s.pending := by
  unfold State.afterAck; (repeat' split) <;> simp [State.modTile_outer, State.act_outer, State.doneX_outer,
      State.resumeCtx_outer, State.postRecord_outer]

theorem State.endX_outer (s : State) (t : Nat) (q : Xfer) (u : Nat) (st : Status) (va : Nat) (write : Bool) :
    (State.endX s t q u st va write).pins = s.pins ∧ (State.endX s t q u st va write).pending = s.pending := by
  simp [State.endX, State.modTile_outer, State.afterAck_outer]

theorem State.abortX_outer (s : State) (t : Nat) (q : Xfer) (st : Status) : (State.abortX s t q st).pins = s.pins ∧
    (State.abortX s t q st).pending = s.pending := by
  simp [State.abortX, State.modTile_outer, State.afterAck_outer]

theorem State.faultX_outer (s : State) (t : Nat) (q : Xfer) (reason va : Nat) (write : Bool) :
    (State.faultX s t q reason va write).pins = s.pins ∧ (State.faultX s t q reason va write).pending = s.pending :=
    by
  simp [State.faultX, State.modTile_outer, State.modCtx_outer, State.suspendCtx_outer, State.postRecord_outer]

theorem State.datapath_outer (s : State) (t : Nat) (q : Xfer) (path : Nat) : (State.datapath s t q path).pins = s.pins
    ∧ (State.datapath s t q path).pending = s.pending := by
  simp [State.datapath, State.raise_outer, State.endX_outer]

theorem State.pauseXfers_outer (s : State) : (State.pauseXfers s).pins = s.pins ∧ (State.pauseXfers s).pending =
    s.pending := by
  simp [State.pauseXfers]

theorem State.countSaddle_outer (s : State) (sad k n : Nat) : (State.countSaddle s sad k n).pins = s.pins ∧
    (State.countSaddle s sad k n).pending = s.pending := by
  simp [State.countSaddle, State.count_outer]

theorem State.countRing_outer (s : State) (a : Nat) (fwd : Bool) (n : Nat) : (State.countRing s a fwd n).pins = s.pins
    ∧ (State.countRing s a fwd n).pending = s.pending := by
  unfold State.countRing; split <;> simp [State.countSaddle_outer]

theorem State.countRoute_outer (s : State) (src dst : Option Nat) (n : Nat) : (State.countRoute s src dst n).pins =
    s.pins ∧ (State.countRoute s src dst n).pending = s.pending := by
  unfold State.countRoute; (repeat' split) <;> simp [State.countSaddle_outer, State.countRing_outer]

theorem State.pull_outer (s : State) (t u a n : Nat) : (State.pull s t u a n).2.2.pins = s.pins ∧
    (State.pull s t u a n).2.2.pending = s.pending := by
  unfold State.pull; split <;> simp [State.count_outer, State.spRead_outer, State.countRoute_outer]

theorem State.countWriteAs_outer (s : State) (t pa n stored : Nat) : (State.countWriteAs s t pa n stored).pins =
    s.pins ∧ (State.countWriteAs s t pa n stored).pending = s.pending := by
  grind [State.countWriteAs, State.count_outer, State.countTier_outer, State.host_outer, State.countRoute_outer]

theorem State.countWrite_outer (s : State) (t pa n : Nat) : (State.countWrite s t pa n).pins = s.pins ∧
    (State.countWrite s t pa n).pending = s.pending := by
  simp [State.countWrite, State.countWriteAs_outer]

end Sys2Proof.Machine
end

