-- ==== Sys2Proof/Laws/Frames/Kv.lean ====
section
/-! SUPPORT. Frames of KV pages and runs: the queue of commands and the pins are outside what they write. -/

set_option linter.unusedSimpArgs false
set_option linter.unusedVariables false
set_option linter.unusedTactic false
set_option linter.unreachableTactic false

namespace Sys2Proof.Machine

theorem State.evictOne_outer (s : State) (part : Nat) : (State.evictOne s part).pins = s.pins ∧
    (State.evictOne s part).pending = s.pending := by
  grind [State.evictOne, State.used_outer, foldl_outer]

theorem State.evictFor_outer (s : State) (part need n : Nat) :
    (s.evictFor part need n).pins = s.pins ∧ (s.evictFor part need n).pending = s.pending := by
  induction n generalizing s with
  | zero => exact ⟨rfl, rfl⟩
  | succ n ih =>
    simp only [State.evictFor]
    split
    · exact ⟨rfl, rfl⟩
    · exact outer_trans (State.evictOne_outer ..) (ih _)

theorem State.zeroPositions_outer (s : State) (pa key : Nat) (a : Attn) (keep : Nat → Bool) :
    (s.zeroPositions pa key a keep).pins = s.pins ∧ (s.zeroPositions pa key a keep).pending = s.pending :=
  outer_trans (State.hbmRead_outer ..) (State.hbmWrite_outer ..)

theorem State.copyRun_outer (s : State) (src dst key : Nat) (a : Attn) (keep : Nat → Bool) :
    (s.copyRun src dst key a keep).pins = s.pins ∧ (s.copyRun src dst key a keep).pending = s.pending :=
  outer_trans (State.hbmRead_outer ..) (State.hbmWrite_outer ..)

theorem State.growRun_outer (s : State) (slot : Nat) (a : Attn) (n : Nat) (r : State) (h : s.growRun slot a n = some r) :
    r.pins = s.pins ∧ r.pending = s.pending := by
  simp only [State.growRun] at h
  repeat' split at h
  · cases h; exact ⟨rfl, rfl⟩
  · cases h
  · obtain ⟨p, hp, rfl⟩ := Option.map_eq_some_iff.mp h
    exact outer_trans (State.placeRun_outer _ _ _ _ _ _ _ _ _ hp) (State.modSeq_outer ..)

theorem State.growTo_outer (s : State) (slot len : Nat) (r : State) (h : s.growTo slot len = some r) :
    r.pins = s.pins ∧ r.pending = s.pending :=
  foldlM_option_outer _ (fun _ _ _ h => foldlM_option_outer _ (fun _ _ _ h => State.growRun_outer _ _ _ _ _ h) _ _ _ h) _ _ _ h

theorem State.copyPartial_outer (s : State) (slot : Nat) (r : State) (h : s.copyPartial slot = some r) :
    r.pins = s.pins ∧ r.pending = s.pending := by
  refine foldlM_option_outer _ (fun s a r h => ?_) _ _ _ h
  dsimp only at h
  repeat' split at h
  · obtain ⟨p, hp, rfl⟩ := Option.map_eq_some_iff.mp h
    exact outer_trans (outer_trans (State.placeRun_outer _ _ _ _ _ _ _ _ _ hp) (State.copyRun_outer ..))
      (State.modSeq_outer ..)
  all_goals cases h; exact ⟨rfl, rfl⟩

theorem State.trimRuns_outer (s : State) (slot : Nat) :
    (s.trimRuns slot).pins = s.pins ∧ (s.trimRuns slot).pending = s.pending := by
  refine outer_trans (outer_trans (State.modSeq_outer ..) (State.invalidateKv_outer ..)) (foldl_outer _ (fun s e => ?_) _ _)
  repeat' split
  all_goals first
    | exact ⟨rfl, rfl⟩
    | exact State.zeroPositions_outer ..

theorem State.freeSlot_outer (s : State) (slot : Nat) :
    (s.freeSlot slot).pins = s.pins ∧ (s.freeSlot slot).pending = s.pending :=
  outer_trans (State.invalidateKv_outer ..) (State.modSeq_outer ..)

end Sys2Proof.Machine
end

