-- ==== Sys2Proof/Laws/Frames/Scalar.lean ====
section
/-! SUPPORT. Frames of scalar operations: the queue of commands and the pins are outside what they write. -/

set_option linter.unusedSimpArgs false
set_option linter.unusedVariables false
set_option linter.unusedTactic false
set_option linter.unreachableTactic false

namespace Sys2Proof.Machine

def SRes.Keeps (s : State) : SRes → Prop
  | .done s' _ | .ahead s' => s'.pins = s.pins ∧ s'.pending = s.pending
  | _ => True

theorem illegal_outer (s : State) (w : Nat) : SRes.Keeps s (illegal w) := trivial

theorem State.res_outer (s : State) (t : Nat) (late : Bool) (deps : List Dst) (d : Dst) (v : Nat) : SRes.Keeps s
    (State.res s t late deps d v) := by
  exact State.modCore_outer ..

theorem State.stick_outer (s : State) (t fl : Nat) : (State.stick s t fl).pins = s.pins ∧ (State.stick s t fl).pending
    = s.pending := by
  unfold State.stick; split <;> simp [State.modCore_outer]

theorem sAlu_outer (t : Nat) (late : Bool) (rd ra rb rc fn w : Nat) (s : State) : SRes.Keeps s
    (sAlu t late rd ra rb rc fn w s) := by
  simp only [sAlu]; (repeat' split) <;> first
      | trivial
      | exact ⟨rfl, rfl⟩
      | exact illegal_outer ..
      | exact State.res_outer ..
      | simp [illegal_outer, State.res_outer, SRes.Keeps]
      | grind [illegal_outer, State.res_outer, SRes.Keeps]

theorem sUnary_outer (t : Nat) (late : Bool) (rd ra : Nat) (f : Nat → Nat) (s : State) : SRes.Keeps s
    (sUnary t late rd ra f s) := by
  simp only [sUnary]; (repeat' split) <;> first
      | trivial
      | exact ⟨rfl, rfl⟩
      | exact State.res_outer ..
      | simp [State.res_outer, SRes.Keeps]
      | grind [State.res_outer, SRes.Keeps]

theorem sShi_outer (t : Nat) (late : Bool) (rd ra imm w : Nat) (s : State) : SRes.Keeps s (sShi t late rd ra imm w s)
    := by
  simp only [sShi]; (repeat' split) <;> first
      | trivial
      | exact ⟨rfl, rfl⟩
      | exact illegal_outer ..
      | exact sUnary_outer ..
      | simp [illegal_outer, sUnary_outer, SRes.Keeps]
      | grind [illegal_outer, sUnary_outer, SRes.Keeps]

theorem sLi_outer (t : Nat) (late : Bool) (rd imm : Nat) (s : State) : SRes.Keeps s (sLi t late rd imm s) := by
  exact State.res_outer ..

theorem sLis_outer (t : Nat) (late : Bool) (rd imm : Nat) (s : State) : SRes.Keeps s (sLis t late rd imm s) := by
  exact sUnary_outer ..

theorem State.pred_outer (s : State) (t : Nat) (late : Bool) (ops : List Dst) (rd : Nat) (v : Bool) : SRes.Keeps s
    (State.pred s t late ops rd v) := by
  exact State.res_outer ..

theorem sCmp_outer (t : Nat) (late : Bool) (rd ra rb rc fn w : Nat) (s : State) : SRes.Keeps s
    (sCmp t late rd ra rb rc fn w s) := by
  simp only [sCmp]; (repeat' split) <;> first
      | trivial
      | exact ⟨rfl, rfl⟩
      | exact illegal_outer ..
      | exact State.pred_outer ..
      | simp [illegal_outer, State.pred_outer, SRes.Keeps]
      | grind [illegal_outer, State.pred_outer, SRes.Keeps]

theorem sCmpi_outer (t : Nat) (late : Bool) (rd ra imm : Nat) (s : State) : SRes.Keeps s (sCmpi t late rd ra imm s) :=
    by
  exact State.pred_outer ..

theorem sPlog_outer (t : Nat) (late : Bool) (rd ra rb rc fn w : Nat) (s : State) : SRes.Keeps s
    (sPlog t late rd ra rb rc fn w s) := by
  simp only [sPlog]; (repeat' split) <;> first
      | trivial
      | exact ⟨rfl, rfl⟩
      | exact illegal_outer ..
      | exact State.pred_outer ..
      | simp [illegal_outer, State.pred_outer, SRes.Keeps]
      | grind [illegal_outer, State.pred_outer, SRes.Keeps]

theorem State.load_outer (s : State) (t a n : Nat) : (State.load s t a n).2.2.pins = s.pins ∧
    (State.load s t a n).2.2.pending = s.pending := by
  unfold State.load; split <;> simp [State.modCore_outer, State.spReadQuiet_outer, State.spRead_outer, foldl_outer]

theorem State.storeNow_outer (s : State) (t a n v : Nat) : (State.storeNow s t a n v).pins = s.pins ∧
    (State.storeNow s t a n v).pending = s.pending := by
  grind [State.storeNow, State.modCore_outer, State.spWrite_outer]

theorem State.store_outer (s : State) (t a n v : Nat) : (State.store s t a n v).pins = s.pins ∧
    (State.store s t a n v).pending = s.pending := by
  unfold State.store; split <;> simp [State.modCore_outer, State.storeNow_outer]

theorem State.loadTo_outer (s : State) (t : Nat) (late : Bool) (a n : Nat) (d : Dst) (f : Nat → Nat) : SRes.Keeps s
    (State.loadTo s t late a n d f) := by
  simp only [State.loadTo]; (repeat' split) <;> first
      | trivial
      | exact ⟨rfl, rfl⟩
      | exact State.res_outer ..
      | exact State.load_outer ..
      | simp [State.res_outer, State.load_outer, SRes.Keeps]
      | grind [State.res_outer, State.load_outer, SRes.Keeps]

theorem sLd_outer (t : Nat) (late : Bool) (rd ra imm sz w : Nat) (s : State) : SRes.Keeps s
    (sLd t late rd ra imm sz w s) := by
  simp only [sLd]; (repeat' split) <;> first
      | trivial
      | exact ⟨rfl, rfl⟩
      | exact illegal_outer ..
      | exact State.loadTo_outer ..
      | simp [illegal_outer, State.loadTo_outer, SRes.Keeps]
      | grind [illegal_outer, State.loadTo_outer, SRes.Keeps]

theorem State.storeFrom_outer (s : State) (t a n v : Nat) : SRes.Keeps s (State.storeFrom s t a n v) := by
  simp only [State.storeFrom]; (repeat' split) <;> first
      | trivial
      | exact ⟨rfl, rfl⟩
      | exact State.store_outer ..
      | simp [State.store_outer, SRes.Keeps]
      | grind [State.store_outer, SRes.Keeps]

theorem sSt_outer (t : Nat) (rd ra imm sz w : Nat) (s : State) : SRes.Keeps s (sSt t rd ra imm sz w s) := by
  simp only [sSt]; (repeat' split) <;> first
      | trivial
      | exact ⟨rfl, rfl⟩
      | exact illegal_outer ..
      | exact State.storeFrom_outer ..
      | simp [illegal_outer, State.storeFrom_outer, SRes.Keeps]
      | grind [illegal_outer, State.storeFrom_outer, SRes.Keeps]

theorem sLdf_outer (t : Nat) (late : Bool) (rd ra imm sz w : Nat) (s : State) : SRes.Keeps s
    (sLdf t late rd ra imm sz w s) := by
  simp only [sLdf]; (repeat' split) <;> first
      | trivial
      | exact ⟨rfl, rfl⟩
      | exact illegal_outer ..
      | exact State.loadTo_outer ..
      | simp [illegal_outer, State.loadTo_outer, SRes.Keeps]
      | grind [illegal_outer, State.loadTo_outer, SRes.Keeps]

theorem sStf_outer (t rd ra imm sz w : Nat) (s : State) : SRes.Keeps s (sStf t rd ra imm sz w s) := by
  simp only [sStf]
  split
  · trivial
  · split
    · trivial
    · generalize hr : s.storeFrom _ _ _ _ = r
      have hk : SRes.Keeps s r := hr ▸ State.storeFrom_outer ..
      cases r with
      | done s' k =>
        by_cases hz : sz = 0
        · simpa only [hz, if_true] using hk
        · simp only [hz, if_false]; exact outer_trans hk (State.stick_outer ..)
      | _ => exact hk

theorem sFop_outer (t : Nat) (late : Bool) (rd ra rb rc fn w : Nat) (s : State) : SRes.Keeps s
    (sFop t late rd ra rb rc fn w s) := by
  simp only [sFop]; (repeat' split) <;> first
      | trivial
      | exact ⟨rfl, rfl⟩
      | exact illegal_outer ..
      | exact State.res_outer ..
      | exact State.stick_outer ..
      | simp [illegal_outer, State.res_outer, State.stick_outer, SRes.Keeps]
      | grind [illegal_outer, State.res_outer, State.stick_outer, SRes.Keeps]

theorem sFcmp_outer (t : Nat) (late : Bool) (rd ra rb rc fn w : Nat) (s : State) : SRes.Keeps s
    (sFcmp t late rd ra rb rc fn w s) := by
  simp only [sFcmp]; (repeat' split) <;> first
      | trivial
      | exact ⟨rfl, rfl⟩
      | exact illegal_outer ..
      | exact State.stick_outer ..
      | exact State.pred_outer ..
      | simp [illegal_outer, State.stick_outer, State.pred_outer, SRes.Keeps]
      | grind [illegal_outer, State.stick_outer, State.pred_outer, SRes.Keeps]

theorem sFmv_outer (t : Nat) (late : Bool) (rd ra rb rc fn w : Nat) (s : State) : SRes.Keeps s
    (sFmv t late rd ra rb rc fn w s) := by
  simp only [sFmv]; (repeat' split) <;> first
      | trivial
      | exact ⟨rfl, rfl⟩
      | exact illegal_outer ..
      | exact State.res_outer ..
      | exact State.stick_outer ..
      | simp [illegal_outer, State.res_outer, State.stick_outer, SRes.Keeps]
      | grind [illegal_outer, State.res_outer, State.stick_outer, SRes.Keeps]

theorem sHash_outer (t : Nat) (late : Bool) (rd ra rb rc fn w : Nat) (s : State) : SRes.Keeps s
    (sHash t late rd ra rb rc fn w s) := by
  simp only [sHash]; (repeat' split) <;> first
      | trivial
      | exact ⟨rfl, rfl⟩
      | exact illegal_outer ..
      | exact State.res_outer ..
      | simp [illegal_outer, State.res_outer, SRes.Keeps]
      | grind [illegal_outer, State.res_outer, SRes.Keeps]

theorem sRdraw_outer (t : Nat) (late : Bool) (rd ra rb rc w : Nat) (s : State) : SRes.Keeps s
    (sRdraw t late rd ra rb rc w s) := by
  simp only [sRdraw]; (repeat' split) <;> first
      | trivial
      | exact ⟨rfl, rfl⟩
      | exact illegal_outer ..
      | exact State.res_outer ..
      | simp [illegal_outer, State.res_outer, SRes.Keeps]
      | grind [illegal_outer, State.res_outer, SRes.Keeps]

theorem sRctr_outer (t : Nat) (late : Bool) (rd ra rb rc w : Nat) (s : State) : SRes.Keeps s
    (sRctr t late rd ra rb rc w s) := by
  simp only [sRctr]; (repeat' split) <;> first
      | trivial
      | exact ⟨rfl, rfl⟩
      | exact illegal_outer ..
      | exact State.res_outer ..
      | simp [illegal_outer, State.res_outer, SRes.Keeps]
      | grind [illegal_outer, State.res_outer, SRes.Keeps]

theorem sRctw_outer (t : Nat) (rd ra rb rc w : Nat) (s : State) : SRes.Keeps s (sRctw t rd ra rb rc w s) := by
  simp only [sRctw]; (repeat' split) <;> first
      | trivial
      | exact ⟨rfl, rfl⟩
      | exact illegal_outer ..
      | simp [illegal_outer, SRes.Keeps]
      | grind [illegal_outer, SRes.Keeps]

theorem sCsrr_outer (t : Nat) (late : Bool) (rd ra imm w : Nat) (s : State) : SRes.Keeps s
    (sCsrr t late rd ra imm w s) := by
  simp only [sCsrr]; (repeat' split) <;> first
      | trivial
      | exact ⟨rfl, rfl⟩
      | exact illegal_outer ..
      | exact State.res_outer ..
      | simp [illegal_outer, State.res_outer, SRes.Keeps]
      | grind [illegal_outer, State.res_outer, SRes.Keeps]

theorem sCsrw_outer (t : Nat) (rd ra imm w : Nat) (s : State) : SRes.Keeps s (sCsrw t rd ra imm w s) := by
  simp only [sCsrw]; (repeat' split) <;> first
      | trivial
      | exact ⟨rfl, rfl⟩
      | exact State.modCore_outer ..
      | exact illegal_outer ..
      | simp [State.modCore_outer, illegal_outer, SRes.Keeps]
      | grind [State.modCore_outer, illegal_outer, SRes.Keeps]

theorem sCntr_outer (t : Nat) (late : Bool) (rd ra rb rc fn w : Nat) (s : State) : SRes.Keeps s
    (sCntr t late rd ra rb rc fn w s) := by
  simp only [sCntr]; (repeat' split) <;> first
      | trivial
      | exact ⟨rfl, rfl⟩
      | exact illegal_outer ..
      | exact State.res_outer ..
      | simp [illegal_outer, State.res_outer, SRes.Keeps]
      | grind [illegal_outer, State.res_outer, SRes.Keeps]

theorem sBranch_outer (t : Nat) (call : Bool) (pred : Nat) (neg hint : Bool) (disp len : Nat) (s : State) : SRes.Keeps
    s (sBranch t call pred neg hint disp len s) := by
  simp only [sBranch]; (repeat' split) <;> first
      | trivial
      | exact ⟨rfl, rfl⟩
      | exact State.modCore_outer ..
      | exact State.pred_outer ..
      | simp [State.modCore_outer, State.pred_outer, SRes.Keeps]
      | grind [State.modCore_outer, State.pred_outer, SRes.Keeps]

theorem sJr_outer (t : Nat) (rd ra rb rc fn w : Nat) (s : State) : SRes.Keeps s (sJr t rd ra rb rc fn w s) := by
  simp only [sJr]; (repeat' split) <;> first
      | trivial
      | exact ⟨rfl, rfl⟩
      | exact illegal_outer ..
      | simp [illegal_outer, SRes.Keeps]
      | grind [illegal_outer, SRes.Keeps]

theorem sDescw_outer (t : Nat) (rd ra rb rc fn w : Nat) (s : State) : SRes.Keeps s (sDescw t rd ra rb rc fn w s) := by
  simp only [sDescw]; (repeat' split) <;> first
      | trivial
      | exact ⟨rfl, rfl⟩
      | exact State.modTile_outer ..
      | exact illegal_outer ..
      | simp [State.modTile_outer, illegal_outer, SRes.Keeps]
      | grind [State.modTile_outer, illegal_outer, SRes.Keeps]

theorem sTkstat_outer (t : Nat) (late : Bool) (rd ra rb rc fn w : Nat) (s : State) : SRes.Keeps s
    (sTkstat t late rd ra rb rc fn w s) := by
  simp only [sTkstat]; (repeat' split) <;> first
      | trivial
      | exact ⟨rfl, rfl⟩
      | exact illegal_outer ..
      | exact State.res_outer ..
      | simp [illegal_outer, State.res_outer, SRes.Keeps]
      | grind [illegal_outer, State.res_outer, SRes.Keeps]

theorem sSvc_outer (t : Nat) (rd ra imm w : Nat) (s : State) : SRes.Keeps s (sSvc t rd ra imm w s) := by
  simp only [sSvc]; (repeat' split) <;> first
      | trivial
      | exact ⟨rfl, rfl⟩
      | exact State.modCore_outer ..
      | exact illegal_outer ..
      | simp [State.modCore_outer, illegal_outer, SRes.Keeps]
      | grind [State.modCore_outer, illegal_outer, SRes.Keeps]

theorem sHalt_outer (t : Nat) (rd ra rb rc fn w : Nat) (s : State) : SRes.Keeps s (sHalt t rd ra rb rc fn w s) := by
  simp only [sHalt]; (repeat' split) <;> first
      | trivial
      | exact ⟨rfl, rfl⟩
      | exact State.modCore_outer ..
      | exact illegal_outer ..
      | simp [State.modCore_outer, illegal_outer, SRes.Keeps]
      | grind [State.modCore_outer, illegal_outer, SRes.Keeps]

theorem State.fetch_outer (s : State) (t pc n : Nat) :
    (s.fetch t pc n).2.pins = s.pins ∧ (s.fetch t pc n).2.pending = s.pending := by
  refine foldl_proj_outer (fun r : Bool × State => r.2) _ (fun r k => ?_) _ (false, s)
  dsimp only
  repeat' split
  all_goals first
    | exact ⟨rfl, rfl⟩
    | exact State.modCore_outer ..
    | exact outer_trans (State.modCore_outer ..) (State.raise_outer ..)

theorem State.exceptAt_outer (s : State) (t cause detail : Nat) : (State.exceptAt s t cause detail).pins = s.pins ∧
    (State.exceptAt s t cause detail).pending = s.pending := by
  grind [State.exceptAt, State.modCore_outer, State.except_outer]

theorem State.commit_outer (s : State) (t len : Nat) (taken : Option Nat) : (State.commit s t len taken).pins = s.pins
    ∧ (State.commit s t len taken).pending = s.pending := by
  grind [State.commit, State.modCore_outer, State.settle_outer, State.traceCommit_outer]

theorem State.finishScalar_outer (s : State) (t len : Nat) (r : SRes) (h : SRes.Keeps s r) :
    (s.finishScalar t len r).pins = s.pins ∧ (s.finishScalar t len r).pending = s.pending := by
  cases r with
  | stall => exact ⟨rfl, rfl⟩
  | exc cause detail => exact State.exceptAt_outer ..
  | done s' k => exact outer_trans h (State.commit_outer ..)
  | ahead s' => exact h

theorem State.row_outer (s : State) (t w : Nat) (f : State → SRes) (hf : ∀ s, SRes.Keeps s (f s)) :
    (s.row t w f).pins = s.pins ∧ (s.row t w f).pending = s.pending := by
  simp only [State.row]
  repeat' split
  all_goals first
    | exact ⟨rfl, rfl⟩
    | exact State.exceptAt_outer ..
    | exact outer_trans (State.fetch_outer ..) (State.exceptAt_outer ..)
    | exact outer_trans (State.fetch_outer ..) (State.finishScalar_outer _ _ _ _ (hf _))

theorem State.answer_outer (s : State) (t num : Nat) (f : State → Nat × State)
    (hf : ∀ s, (f s).2.pins = s.pins ∧ (f s).2.pending = s.pending) :
    (s.answer t num f).pins = s.pins ∧ (s.answer t num f).pending = s.pending := by
  simp only [State.answer]
  split
  · exact outer_trans (hf _) (State.modCore_outer ..)
  · exact ⟨rfl, rfl⟩

theorem State.svcRow_outer (s : State) (t rd ra num w : Nat) (f : State → Nat × State)
    (hf : ∀ s, (f s).2.pins = s.pins ∧ (f s).2.pending = s.pending) :
    (s.svcRow t rd ra num w f).pins = s.pins ∧ (s.svcRow t rd ra num w f).pending = s.pending :=
  outer_trans (State.row_outer _ _ _ _ (fun _ => sSvc_outer ..)) (State.answer_outer _ _ _ _ hf)

end Sys2Proof.Machine
end

