-- ==== Sys2Proof/Laws/Frames/CoreRows.lean ====
section
/-! SUPPORT. Frames of scalar rows: the queue of commands and the pins are outside what they write. -/

set_option linter.unusedSimpArgs false
set_option linter.unusedVariables false
set_option linter.unusedTactic false
set_option linter.unreachableTactic false

namespace Sys2Proof.Machine

theorem execAlu_outer (t : Byte) (late : Bool) (rd ra rb rc fn : BitVec 5) (s : State) (r : State)
    (h : execAlu t late rd ra rb rc fn s = .next r) : r.pins = s.pins ∧ r.pending = s.pending := by
  cases h; exact State.row_outer _ _ _ _ (fun _ => sAlu_outer ..)

theorem execAddi_outer (t : Byte) (late : Bool) (rd ra : BitVec 5) (imm : BitVec 15) (s : State) (r : State)
    (h : execAddi t late rd ra imm s = .next r) : r.pins = s.pins ∧ r.pending = s.pending := by
  cases h; exact State.row_outer _ _ _ _ (fun _ => sUnary_outer ..)

theorem execAndi_outer (t : Byte) (late : Bool) (rd ra : BitVec 5) (imm : BitVec 15) (s : State) (r : State)
    (h : execAndi t late rd ra imm s = .next r) : r.pins = s.pins ∧ r.pending = s.pending := by
  cases h; exact State.row_outer _ _ _ _ (fun _ => sUnary_outer ..)

theorem execOri_outer (t : Byte) (late : Bool) (rd ra : BitVec 5) (imm : BitVec 15) (s : State) (r : State)
    (h : execOri t late rd ra imm s = .next r) : r.pins = s.pins ∧ r.pending = s.pending := by
  cases h; exact State.row_outer _ _ _ _ (fun _ => sUnary_outer ..)

theorem execXori_outer (t : Byte) (late : Bool) (rd ra : BitVec 5) (imm : BitVec 15) (s : State) (r : State)
    (h : execXori t late rd ra imm s = .next r) : r.pins = s.pins ∧ r.pending = s.pending := by
  cases h; exact State.row_outer _ _ _ _ (fun _ => sUnary_outer ..)

theorem execShi_outer (t : Byte) (late : Bool) (rd ra : BitVec 5) (imm : BitVec 15) (s : State) (r : State)
    (h : execShi t late rd ra imm s = .next r) : r.pins = s.pins ∧ r.pending = s.pending := by
  cases h; exact State.row_outer _ _ _ _ (fun _ => sShi_outer ..)

theorem execLi_outer (t : Byte) (late : Bool) (rd : BitVec 5) (imm : BitVec 20) (s : State) (r : State)
    (h : execLi t late rd imm s = .next r) : r.pins = s.pins ∧ r.pending = s.pending := by
  cases h; exact State.row_outer _ _ _ _ (fun _ => sLi_outer ..)

theorem execLis_outer (t : Byte) (late : Bool) (rd : BitVec 5) (imm : BitVec 20) (s : State) (r : State)
    (h : execLis t late rd imm s = .next r) : r.pins = s.pins ∧ r.pending = s.pending := by
  cases h; exact State.row_outer _ _ _ _ (fun _ => sLis_outer ..)

theorem execLd_outer (t : Byte) (late : Bool) (rd ra : BitVec 5) (imm : BitVec 12) (sz : BitVec 3)
    (upsets : List Upset) (s : State) (r : State) (h : execLd t late rd ra imm sz upsets s = .next r) : r.pins =
    s.pins ∧ r.pending = s.pending := by
  cases h; exact State.row_outer _ _ _ _ (fun _ => sLd_outer ..)

theorem execSt_outer (t : Byte) (rd ra : BitVec 5) (imm : BitVec 12) (sz : BitVec 3) (upsets : List Upset) (s : State)
    (r : State) (h : execSt t rd ra imm sz upsets s = .next r) : r.pins = s.pins ∧ r.pending = s.pending := by
  cases h; exact State.row_outer _ _ _ _ (fun _ => sSt_outer ..)

theorem execLdf_outer (t : Byte) (late : Bool) (rd ra : BitVec 5) (imm : BitVec 12) (sz : BitVec 3)
    (upsets : List Upset) (s : State) (r : State) (h : execLdf t late rd ra imm sz upsets s = .next r) : r.pins =
    s.pins ∧ r.pending = s.pending := by
  cases h; exact State.row_outer _ _ _ _ (fun _ => sLdf_outer ..)

theorem execStf_outer (t : Byte) (rd ra : BitVec 5) (imm : BitVec 12) (sz : BitVec 3) (upsets : List Upset)
    (s : State) (r : State) (h : execStf t rd ra imm sz upsets s = .next r) : r.pins = s.pins ∧ r.pending = s.pending
    := by
  cases h; exact State.row_outer _ _ _ _ (fun _ => sStf_outer ..)

theorem execCmp_outer (t : Byte) (late : Bool) (rd ra rb rc fn : BitVec 5) (s : State) (r : State)
    (h : execCmp t late rd ra rb rc fn s = .next r) : r.pins = s.pins ∧ r.pending = s.pending := by
  cases h; exact State.row_outer _ _ _ _ (fun _ => sCmp_outer ..)

theorem execCmpi_outer (t : Byte) (late : Bool) (rd ra : BitVec 5) (imm : BitVec 15) (s : State) (r : State)
    (h : execCmpi t late rd ra imm s = .next r) : r.pins = s.pins ∧ r.pending = s.pending := by
  cases h; exact State.row_outer _ _ _ _ (fun _ => sCmpi_outer ..)

theorem execPlog_outer (t : Byte) (late : Bool) (rd ra rb rc fn : BitVec 5) (s : State) (r : State)
    (h : execPlog t late rd ra rb rc fn s = .next r) : r.pins = s.pins ∧ r.pending = s.pending := by
  cases h; exact State.row_outer _ _ _ _ (fun _ => sPlog_outer ..)

theorem execBr_outer (t : Byte) (pred : BitVec 3) (neg hint : Bool) (disp : BitVec 20) (s : State) (r : State)
    (h : execBr t pred neg hint disp s = .next r) : r.pins = s.pins ∧ r.pending = s.pending := by
  cases h; exact State.row_outer _ _ _ _ (fun _ => sBranch_outer ..)

theorem execCall_outer (t : Byte) (pred : BitVec 3) (neg hint : Bool) (disp : BitVec 20) (s : State) (r : State)
    (h : execCall t pred neg hint disp s = .next r) : r.pins = s.pins ∧ r.pending = s.pending := by
  cases h; exact State.row_outer _ _ _ _ (fun _ => sBranch_outer ..)

theorem execJr_outer (t : Byte) (rd ra rb rc fn : BitVec 5) (s : State) (r : State)
    (h : execJr t rd ra rb rc fn s = .next r) : r.pins = s.pins ∧ r.pending = s.pending := by
  cases h; exact State.row_outer _ _ _ _ (fun _ => sJr_outer ..)

theorem execFop_outer (t : Byte) (late : Bool) (rd ra rb rc fn : BitVec 5) (s : State) (r : State)
    (h : execFop t late rd ra rb rc fn s = .next r) : r.pins = s.pins ∧ r.pending = s.pending := by
  cases h; exact State.row_outer _ _ _ _ (fun _ => sFop_outer ..)

theorem execFcmp_outer (t : Byte) (late : Bool) (rd ra rb rc fn : BitVec 5) (s : State) (r : State)
    (h : execFcmp t late rd ra rb rc fn s = .next r) : r.pins = s.pins ∧ r.pending = s.pending := by
  cases h; exact State.row_outer _ _ _ _ (fun _ => sFcmp_outer ..)

theorem execFmv_outer (t : Byte) (late : Bool) (rd ra rb rc fn : BitVec 5) (s : State) (r : State)
    (h : execFmv t late rd ra rb rc fn s = .next r) : r.pins = s.pins ∧ r.pending = s.pending := by
  cases h; exact State.row_outer _ _ _ _ (fun _ => sFmv_outer ..)

theorem execHash_outer (t : Byte) (late : Bool) (rd ra rb rc fn : BitVec 5) (s : State) (r : State)
    (h : execHash t late rd ra rb rc fn s = .next r) : r.pins = s.pins ∧ r.pending = s.pending := by
  cases h; exact State.row_outer _ _ _ _ (fun _ => sHash_outer ..)

theorem execRdraw_outer (t : Byte) (late : Bool) (rd ra rb rc : BitVec 5) (s : State) (r : State)
    (h : execRdraw t late rd ra rb rc s = .next r) : r.pins = s.pins ∧ r.pending = s.pending := by
  cases h; exact State.row_outer _ _ _ _ (fun _ => sRdraw_outer ..)

theorem execRctr_outer (t : Byte) (late : Bool) (rd ra rb rc : BitVec 5) (s : State) (r : State)
    (h : execRctr t late rd ra rb rc s = .next r) : r.pins = s.pins ∧ r.pending = s.pending := by
  cases h; exact State.row_outer _ _ _ _ (fun _ => sRctr_outer ..)

theorem execRctw_outer (t : Byte) (rd ra rb rc : BitVec 5) (s : State) (r : State)
    (h : execRctw t rd ra rb rc s = .next r) : r.pins = s.pins ∧ r.pending = s.pending := by
  cases h; exact State.row_outer _ _ _ _ (fun _ => sRctw_outer ..)

theorem execCsrr_outer (t : Byte) (late : Bool) (rd ra : BitVec 5) (imm : BitVec 15) (s : State) (r : State)
    (h : execCsrr t late rd ra imm s = .next r) : r.pins = s.pins ∧ r.pending = s.pending := by
  cases h; exact State.row_outer _ _ _ _ (fun _ => sCsrr_outer ..)

theorem execCsrw_outer (t : Byte) (rd ra : BitVec 5) (imm : BitVec 15) (s : State) (r : State)
    (h : execCsrw t rd ra imm s = .next r) : r.pins = s.pins ∧ r.pending = s.pending := by
  cases h; exact State.row_outer _ _ _ _ (fun _ => sCsrw_outer ..)

theorem execCntr_outer (t : Byte) (late : Bool) (rd ra rb rc fn : BitVec 5) (s : State) (r : State)
    (h : execCntr t late rd ra rb rc fn s = .next r) : r.pins = s.pins ∧ r.pending = s.pending := by
  cases h; exact State.row_outer _ _ _ _ (fun _ => sCntr_outer ..)

theorem execHalt_outer (t : Byte) (rd ra rb rc fn : BitVec 5) (s : State) (r : State)
    (h : execHalt t rd ra rb rc fn s = .next r) : r.pins = s.pins ∧ r.pending = s.pending := by
  cases h; exact State.row_outer _ _ _ _ (fun _ => sHalt_outer ..)

theorem execDescw_outer (t : Byte) (rd ra rb rc fn : BitVec 5) (s : State) (r : State)
    (h : execDescw t rd ra rb rc fn s = .next r) : r.pins = s.pins ∧ r.pending = s.pending := by
  cases h; exact State.row_outer _ _ _ _ (fun _ => sDescw_outer ..)

theorem execTkstat_outer (t : Byte) (late : Bool) (rd ra rb rc fn : BitVec 5) (s : State) (r : State)
    (h : execTkstat t late rd ra rb rc fn s = .next r) : r.pins = s.pins ∧ r.pending = s.pending := by
  cases h; exact State.row_outer _ _ _ _ (fun _ => sTkstat_outer ..)

theorem execYield_outer (t : Byte) (rd ra : BitVec 5) (s : State) (r : State) (h : execYield t rd ra s = .next r) :
    r.pins = s.pins ∧ r.pending = s.pending := by
  cases h; refine State.svcRow_outer _ _ _ _ _ _ _ (fun b => ?_); ((try dsimp only); (try (repeat' split)) <;> first
      | exact ⟨rfl, rfl⟩
      | simp []
      | grind [])

theorem execWorkNext_outer (t : Byte) (rd ra : BitVec 5) (s : State) (r : State)
    (h : execWorkNext t rd ra s = .next r) : r.pins = s.pins ∧ r.pending = s.pending := by
  cases h; refine State.svcRow_outer _ _ _ _ _ _ _ (fun b => ?_); ((try dsimp only); (try (repeat' split)) <;> first
      | exact ⟨rfl, rfl⟩
      | simp [State.modCore_outer, State.modWork_outer, foldl_outer]
      | grind [State.modCore_outer, State.modWork_outer, foldl_outer])

theorem execEventPost_outer (t : Byte) (rd ra : BitVec 5) (s : State) (r : State)
    (h : execEventPost t rd ra s = .next r) : r.pins = s.pins ∧ r.pending = s.pending := by
  cases h; refine State.svcRow_outer _ _ _ _ _ _ _ (fun b => ?_); ((try dsimp only); (try (repeat' split)) <;> first
      | exact ⟨rfl, rfl⟩
      | simp [State.raise_outer]
      | grind [State.raise_outer])

theorem execSvcUnlisted_outer (t : Byte) (rd ra : BitVec 5) (num : BitVec 15) (s : State) (r : State)
    (h : execSvcUnlisted t rd ra num s = .next r) : r.pins = s.pins ∧ r.pending = s.pending := by
  (try simp only [execSvcUnlisted] at h); (try (repeat' split at h)) <;> (injection h with h; rw [← h]; first
      | exact ⟨rfl, rfl⟩
      | exact State.svcRow_outer ..
      | simp [State.svcRow_outer]
      | grind [State.svcRow_outer])

theorem execPendingResultArrival_outer (t : Byte) (dst : Dst) (s : State) (r : State)
    (h : execPendingResultArrival t dst s = .next r) : r.pins = s.pins ∧ r.pending = s.pending := by
  (try simp only [execPendingResultArrival] at h); (try (repeat' split at h)) <;> (injection h with h; rw [← h]; first
      | exact ⟨rfl, rfl⟩
      | exact State.modCore_outer ..
      | simp [State.modCore_outer]
      | grind [State.modCore_outer])

end Sys2Proof.Machine
end

