-- ==== Sys2Proof/Laws/Frames/Array.lean ====
section
/-! SUPPORT. Frames of array rows: the queue of commands and the pins are outside what they write. -/

set_option linter.unusedSimpArgs false
set_option linter.unusedVariables false
set_option linter.unusedTactic false
set_option linter.unreachableTactic false

namespace Sys2Proof.Machine

theorem State.endA_outer (s : State) (t ticket : Nat) (st : Status) (flags : Nat) :
    (State.endA s t ticket st flags).pins = s.pins ∧ (State.endA s t ticket st flags).pending = s.pending := by
  simp [State.endA, State.modTile_outer, State.complete_outer]

theorem State.maybeEndStep_outer (s : State) (t : Nat) : (State.maybeEndStep s t).pins = s.pins ∧
    (State.maybeEndStep s t).pending = s.pending := by
  grind [State.maybeEndStep, State.res_outer, State.endA_outer]

theorem execStepOperationBegin_outer (t : Byte) (s : State) (r : State) (h : execStepOperationBegin t s = .next r) :
    r.pins = s.pins ∧ r.pending = s.pending := by
  (try simp only [execStepOperationBegin] at h); (try (repeat' split at h)) <;> (injection h with h; rw [← h]; first
      | exact ⟨rfl, rfl⟩
      | exact State.setTile_outer ..
      | exact State.endA_outer ..
      | exact State.maybeEndStep_outer ..
      | simp [State.setTile_outer, State.endA_outer, State.maybeEndStep_outer, foldl_outer]
      | grind [State.setTile_outer, State.endA_outer, State.maybeEndStep_outer, foldl_outer])

theorem State.failStep_outer (s : State) (t : Nat) (o : AOp) (st : Status) : (State.failStep s t o st).pins = s.pins ∧
    (State.failStep s t o st).pending = s.pending := by
  simp [State.failStep, State.modTile_outer, State.res_outer, State.maybeEndStep_outer, foldl_outer]

theorem State.readVectors_outer (s : State) (t base gs size : Nat) (r : List (List Byte) × Bool × State)
    (h : s.readVectors t base gs size = some r) : r.2.2.pins = s.pins ∧ r.2.2.pending = s.pending := by
  simp only [State.readVectors] at h
  split at h
  · cases h
    exact foldl_proj_outer (fun r : List (List Byte) × Bool × State => r.2.2) _ (fun r g => State.spRead_outer ..) _ ([], false, s)
  · cases h

theorem execTritStep_outer (t : Byte) (laneErr : List (Nat × Int)) (upsets : List Upset) (s r : State)
    (h : execTritStep t laneErr upsets s = .next r) : r.pins = s.pins ∧ r.pending = s.pending := by
  simp only [execTritStep] at h
  repeat' split at h
  all_goals (injection h with h; rw [← h])
  all_goals first
    | with_reducible exact ⟨rfl, rfl⟩
    | with_reducible exact outer_trans (State.modTile_outer ..) (State.failStep_outer ..)
    | with_reducible
        exact outer_trans (outer_trans (State.modTile_outer ..) (State.readVectors_outer _ _ _ _ _ _ (by assumption)))
          (State.failStep_outer ..)
    | with_reducible
        exact outer_trans (outer_trans (State.modTile_outer ..) (State.readVectors_outer _ _ _ _ _ _ (by assumption)))
          (outer_trans (State.setTile_outer ..) (State.maybeEndStep_outer ..))

theorem execOutlierDigitStep_outer (t : Byte) (laneErr : List (Nat × Int)) (upsets : List Upset) (s r : State)
    (h : execOutlierDigitStep t laneErr upsets s = .next r) : r.pins = s.pins ∧ r.pending = s.pending := by
  unfold execOutlierDigitStep at h
  dsimp only at h
  repeat' split at h
  all_goals (injection h with h; rw [← h])
  all_goals first
    | with_reducible exact ⟨rfl, rfl⟩
    | with_reducible exact outer_trans (State.modTile_outer ..) (State.failStep_outer ..)
    | with_reducible
        exact outer_trans (outer_trans (State.modTile_outer ..) (State.spRead_outer ..)) (State.failStep_outer ..)
    | with_reducible
        exact outer_trans (outer_trans (State.modTile_outer ..) (State.spRead_outer ..))
          (outer_trans (State.setTile_outer ..) (State.maybeEndStep_outer ..))

theorem execPlaneToken_outer (t : Byte) (laneErr : List (Nat × Int)) (upsets : List Upset) (s r : State)
    (h : execPlaneToken t laneErr upsets s = .next r) : r.pins = s.pins ∧ r.pending = s.pending := by
  simp only [execPlaneToken] at h
  repeat' split at h
  all_goals (injection h with h; rw [← h])
  all_goals first
    | with_reducible exact ⟨rfl, rfl⟩
    | with_reducible exact outer_trans (State.modTile_outer ..) (State.failStep_outer ..)
    | with_reducible
        exact outer_trans (outer_trans (State.modTile_outer ..) (State.readVectors_outer _ _ _ _ _ _ (by assumption)))
          (State.failStep_outer ..)
    | with_reducible
        exact outer_trans (outer_trans (State.modTile_outer ..) (State.readVectors_outer _ _ _ _ _ _ (by assumption)))
          (outer_trans (State.setTile_outer ..) (State.maybeEndStep_outer ..))

theorem execCheckComparison_outer (t : Byte) (s : State) (r : State) (h : execCheckComparison t s = .next r) : r.pins
    = s.pins ∧ r.pending = s.pending := by
  (try simp only [execCheckComparison] at h); (try (repeat' split at h)) <;> (injection h with h; rw [← h]; first
      | exact ⟨rfl, rfl⟩
      | exact State.setTile_outer ..
      | exact State.raise_outer ..
      | exact State.res_outer ..
      | exact State.maybeEndStep_outer ..
      | simp [State.setTile_outer, State.raise_outer, State.res_outer, State.maybeEndStep_outer]
      | grind [State.setTile_outer, State.raise_outer, State.res_outer, State.maybeEndStep_outer])

end Sys2Proof.Machine
end

