-- ==== Sys2Proof/Laws/Frames/Drain.lean ====
section
/-! SUPPORT. Frames of drains: the queue of commands and the pins are outside what they write. -/

set_option linter.unusedSimpArgs false
set_option linter.unusedVariables false
set_option linter.unusedTactic false
set_option linter.unreachableTactic false

namespace Sys2Proof.Machine

theorem execDrainBegin_outer (t : Byte) (upsets : List Upset) (s r : State) (h : execDrainBegin t upsets s = .next r) :
    r.pins = s.pins ∧ r.pending = s.pending := by
  unfold execDrainBegin at h
  dsimp only at h
  repeat' split at h
  · exact outer_of_next h ⟨rfl, rfl⟩
  · cases h; exact State.endA_outer ..
  · cases h; exact State.endA_outer ..
  · cases h; exact State.endA_outer ..
  · injection h with h
    rw [← h]
    exact outer_trans (outer_trans (State.modTile_outer ..) (State.spRead_outer ..)) (State.modTile_outer ..)
  · cases h; exact outer_trans (State.modTile_outer ..) (State.modTile_outer ..)

theorem execDrainRow_outer (t : Byte) (accErr : List (Nat × Bool)) (residue : Bool) (upsets : List Upset) (s : State)
    (r : State) (h : execDrainRow t accErr residue upsets s = .next r) : r.pins = s.pins ∧ r.pending = s.pending := by
  grind [execDrainRow, State.setTile_outer, State.modTile_outer, State.raise_outer, State.raiseAll_outer,
      State.spRead_outer, State.res_outer, State.row_outer, State.endA_outer, foldl_outer]

theorem State.spWriteOwn_outer (s : State) (t a : Nat) (bs : List Byte) (poison : Bool) :
    (State.spWriteOwn s t a bs poison).pins = s.pins ∧ (State.spWriteOwn s t a bs poison).pending = s.pending := by
  grind [State.spWriteOwn, State.spWrite_outer, foldl_outer]

theorem execQueueRowWrite_outer (t : Byte) (s : State) (r : State) (h : execQueueRowWrite t s = .next r) : r.pins =
    s.pins ∧ r.pending = s.pending := by
  (try simp only [execQueueRowWrite] at h); (try (repeat' split at h)) <;> (injection h with h; rw [← h]; first
      | exact ⟨rfl, rfl⟩
      | exact State.setTile_outer ..
      | exact State.res_outer ..
      | exact State.endA_outer ..
      | exact State.spWriteOwn_outer ..
      | simp [State.setTile_outer, State.res_outer, State.endA_outer, State.spWriteOwn_outer]
      | grind [State.setTile_outer, State.res_outer, State.endA_outer, State.spWriteOwn_outer])

end Sys2Proof.Machine
end

