-- ==== Sys2Proof/Laws/Frames/Vector.lean ====
section
/-! SUPPORT. Frames of vector rows: the queue of commands and the pins are outside what they write. -/

set_option linter.unusedSimpArgs false
set_option linter.unusedVariables false
set_option linter.unusedTactic false
set_option linter.unreachableTactic false

namespace Sys2Proof.Machine

theorem State.vRead_outer (s : State) (t d p : Nat) : (State.vRead s t d p).2.pins = s.pins ∧
    (State.vRead s t d p).2.pending = s.pending := by
  grind [State.vRead, State.countSp_outer, State.spReadQuiet_outer]

theorem State.vWrite_outer (s : State) (t : Nat) (ws : List (Nat × Nat × Nat × Bool)) : (State.vWrite s t ws).pins =
    s.pins ∧ (State.vWrite s t ws).pending = s.pending := by
  grind [State.vWrite, State.modTile_outer, State.spWriteOwn_outer, foldl_outer]

theorem State.endV_outer (s : State) (t ticket : Nat) (st : Status) (flags : Nat) :
    (State.endV s t ticket st flags).pins = s.pins ∧ (State.endV s t ticket st flags).pending = s.pending := by
  simp [State.endV, State.modTile_outer, State.complete_outer]

theorem execChainRunBegin_outer (t : Byte) (upsets : List Upset) (s r : State) (h : execChainRunBegin t upsets s = .next r) :
    r.pins = s.pins ∧ r.pending = s.pending := by
  unfold execChainRunBegin at h
  extract_lets t' s1 at h
  split at h
  · exact outer_of_next h ⟨rfl, rfl⟩
  · next o _ =>
    extract_lets st lr list asc s2 once at h
    split at h
    · cases h; exact State.endV_outer ..
    · have h1 : s1.pins = s.pins ∧ s1.pending = s.pending := State.modTile_outer ..
      have h2 : s2.pins = s.pins ∧ s2.pending = s.pending := by
        refine outer_trans h1 ?_
        simp only [s2, lr]
        split
        · exact State.spRead_outer ..
        · exact ⟨rfl, rfl⟩
      split at h
      · cases h; exact outer_trans h2 (State.endV_outer ..)
      · split at h
        · cases h; exact outer_trans h2 (State.endV_outer ..)
        · have h3 : once.2.2.pins = s2.pins ∧ once.2.2.pending = s2.pending :=
            foldl_proj_outer (fun r : NMap (Nat × Bool) × Nat × State => r.2.2) _ (fun r k => State.vRead_outer ..) _ ([], 0, s2)
          cases h
          exact outer_trans (outer_trans h2 h3) (State.modTile_outer ..)

theorem State.elemIns_outer (s : State) (t : Nat) (o : VOp) (ins : List Nat) (i : Nat) :
    (s.elemIns t o ins i).2.pins = s.pins ∧ (s.elemIns t o ins i).2.pending = s.pending := by
  refine foldl_proj_outer (fun r : (NMap (Nat × Bool) × Nat) × State => r.2) _ (fun r k => ?_) _ (([], 0), s)
  dsimp only
  repeat' split
  all_goals first
    | exact ⟨rfl, rfl⟩
    | exact State.vRead_outer ..

theorem execVectorBeat_outer (t : Byte) (residue : List (Nat × Nat)) (upsets : List Upset) (s r : State)
    (h : execVectorBeat t residue upsets s = .next r) : r.pins = s.pins ∧ r.pending = s.pending := by
  unfold execVectorBeat at h
  extract_lets t' x ref s1 lut seed at h
  split at h
  · exact outer_of_next h ⟨rfl, rfl⟩
  · next o _ =>
    extract_lets w st stream lo n sid rnd ins q p s2 s3 s4 flags poison at h
    generalize (o.reject || o.usesQueue && o.qrow.isNone || _) = c at h
    cases c
    case true => rw [if_pos rfl] at h; exact outer_of_next h ⟨rfl, rfl⟩
    case false =>
      rw [if_neg Bool.false_ne_true] at h
      have h1 : s1.pins = s.pins ∧ s1.pending = s.pending := State.modTile_outer ..
      have h2 : q.1.pins = s1.pins ∧ q.1.pending = s1.pending :=
        foldl_proj_outer (fun r : State × Pass × NMap (List (Nat × Bool)) => r.1) _ (fun r k => State.elemIns_outer ..) _ _
      have h3 : s2.pins = s.pins ∧ s2.pending = s.pending :=
        outer_trans (outer_trans h1 h2) (State.vWrite_outer ..)
      have h4 : s4.pins = s.pins ∧ s4.pending = s.pending := outer_trans (b := s3) h3 (State.raiseAll_outer ..)
      split at h
      · cases h; exact outer_trans h4 (State.endV_outer ..)
      · cases h; exact outer_trans h4 (State.modTile_outer ..)

theorem execQueueRowConsume_outer (t : Byte) (s : State) (r : State) (h : execQueueRowConsume t s = .next r) : r.pins
    = s.pins ∧ r.pending = s.pending := by
  (try simp only [execQueueRowConsume] at h); (try (repeat' split at h)) <;> (injection h with h; rw [← h]; first
      | exact ⟨rfl, rfl⟩
      | exact State.setTile_outer ..
      | exact State.modTile_outer ..
      | exact State.endV_outer ..
      | simp [State.setTile_outer, State.modTile_outer, State.endV_outer]
      | grind [State.setTile_outer, State.modTile_outer, State.endV_outer])

theorem execLookupSlotLoad_outer (t : Byte) (upsets : List Upset) (s : State) (r : State)
    (h : execLookupSlotLoad t upsets s = .next r) : r.pins = s.pins ∧ r.pending = s.pending := by
  (try simp only [execLookupSlotLoad] at h); (try (repeat' split at h)) <;> (injection h with h; rw [← h]; first
      | exact ⟨rfl, rfl⟩
      | exact State.modTile_outer ..
      | exact State.spRead_outer ..
      | exact State.endV_outer ..
      | simp [State.modTile_outer, State.spRead_outer, State.endV_outer]
      | grind [State.modTile_outer, State.spRead_outer, State.endV_outer])

end Sys2Proof.Machine
end

