-- ==== Sys2Proof/Laws/Frames/Loads.lean ====
section
/-! SUPPORT. Frames of block loads: the queue of commands and the pins are outside what they write. -/

set_option linter.unusedSimpArgs false
set_option linter.unusedVariables false
set_option linter.unusedTactic false
set_option linter.unreachableTactic false

namespace Sys2Proof.Machine

theorem State.laneRows_outer (s : State) (t w lo n : Nat) : (State.laneRows s t w lo n).2.pins = s.pins ∧
    (State.laneRows s t w lo n).2.pending = s.pending := by
  simp [State.laneRows, State.spRead_outer]

theorem State.denseBlock_outer (s : State) (t w : Nat) : (State.denseBlock s t w).2.pins = s.pins ∧
    (State.denseBlock s t w).2.pending = s.pending := by
  simp [State.denseBlock, State.laneRows_outer]

theorem State.imageBlock_outer (s : State) (t w d : Nat) :
    (s.imageBlock t w d).2.pins = s.pins ∧ (s.imageBlock t w d).2.pending = s.pending := by
  unfold State.imageBlock
  extract_lets form size b img n l2 a1 l1 ad de off rec_ l0 firstBad stored bytes a rows exp m
  have h2 : l2.2.2.pins = s.pins ∧ l2.2.2.pending = s.pending := State.spRead_outer ..
  have h1 : l1.2.2.pins = s.pins ∧ l1.2.2.pending = s.pending := outer_trans h2 (State.spRead_outer ..)
  have he : de.2.2.pins = s.pins ∧ de.2.2.pending = s.pending := outer_trans h1 (State.spRead_outer ..)
  have h0 : l0.2.2.pins = s.pins ∧ l0.2.2.pending = s.pending := outer_trans he (State.spRead_outer ..)
  have hr : rows.2.2.pins = s.pins ∧ rows.2.2.pending = s.pending := outer_trans h0 (State.spRead_outer ..)
  clear_value form size b img n l2 a1 l1 ad de off rec_ l0 firstBad stored bytes a rows exp m
  repeat' first
    | with_reducible refine ite_holds (fun r : Option Blk × State => r.2.pins = s.pins ∧ r.2.pending = s.pending) ?_ ?_
    | with_reducible exact ⟨rfl, rfl⟩
    | with_reducible exact h2
    | with_reducible exact h1
    | with_reducible exact he
    | with_reducible exact h0
    | with_reducible exact hr

theorem State.transposed_outer (s : State) (t w d : Nat) :
    (s.transposed t w d).2.pins = s.pins ∧ (s.transposed t w d).2.pending = s.pending := by
  unfold State.transposed
  extract_lets wb io u n r src uses byte
  have h : r.2.pins = s.pins ∧ r.2.pending = s.pending :=
    foldl_proj_outer (fun r : List Blk × State => r.2) _ (fun r k => State.laneRows_outer ..) _ ([], s)
  repeat' split
  all_goals first
    | with_reducible exact ⟨rfl, rfl⟩
    | with_reducible exact h

theorem State.patched_outer (s : State) (t w d : Nat) (b : Blk) :
    (s.patched t w d b).2.pins = s.pins ∧ (s.patched t w d b).2.pending = s.pending := by
  unfold State.patched
  extract_lets wb r ad de cnt a ls
  have h1 : de.2.2.pins = s.pins ∧ de.2.2.pending = s.pending := State.spRead_outer ..
  have h2 : ls.2.2.pins = s.pins ∧ ls.2.2.pending = s.pending := outer_trans h1 (State.spRead_outer ..)
  repeat' split
  all_goals first
    | exact ⟨rfl, rfl⟩
    | exact h1
    | exact h2

theorem State.failLoad_outer (s : State) (t : Nat) (o : AOp) : (State.failLoad s t o).pins = s.pins ∧
    (State.failLoad s t o).pending = s.pending := by
  simp [State.failLoad, State.modTile_outer, State.endA_outer, foldl_outer]

theorem State.finishLoad_outer (s : State) (t : Nat) (o : AOp) (b : Blk) (spill : Nat) :
    (State.finishLoad s t o b spill).pins = s.pins ∧ (State.finishLoad s t o b spill).pending = s.pending := by
  grind [State.finishLoad, State.modTile_outer, State.count_outer, State.endA_outer, State.failLoad_outer]

theorem State.patchAndFinish_outer (s : State) (t : Nat) (o : AOp) (b : Blk) :
    (s.patchAndFinish t o b).pins = s.pins ∧ (s.patchAndFinish t o b).pending = s.pending := by
  unfold State.patchAndFinish
  have h := State.patched_outer s t o.i.word o.i.d0 b
  repeat' split
  · next s1 e => rw [e] at h; exact outer_trans h (State.failLoad_outer ..)
  · next s1 e => rw [e] at h; exact outer_trans h (State.finishLoad_outer ..)
  · exact State.finishLoad_outer ..

theorem execBlockLoad_outer (t : Byte) (upsets : List Upset) (s r : State) (h : execBlockLoad t upsets s = .next r) :
    r.pins = s.pins ∧ r.pending = s.pending := by
  unfold execBlockLoad at h
  extract_lets t' x s1 at h
  split at h
  · exact outer_of_next h ⟨rfl, rfl⟩
  · next o _ =>
    extract_lets w b q at h
    have h1 : s1.pins = s.pins ∧ s1.pending = s.pending := State.modTile_outer ..
    have h2 : q.2.pins = s.pins ∧ q.2.pending = s.pending := by
      refine outer_trans h1 ?_
      simp only [q, b]
      split
      · exact State.denseBlock_outer ..
      · exact State.transposed_outer ..
      · exact State.imageBlock_outer ..
    clear_value q
    obtain ⟨_ | b', s2⟩ := q
    all_goals
      dsimp only at h
      repeat' split at h
    all_goals cases h
    all_goals first
      | exact ⟨rfl, rfl⟩
      | exact State.endA_outer ..
      | exact outer_trans h2 (State.failLoad_outer ..)
      | exact outer_trans h2 (State.patchAndFinish_outer ..)

theorem execSlotCopyLoad_outer (t : Byte) (upsets : List Upset) (s : State) (r : State)
    (h : execSlotCopyLoad t upsets s = .next r) : r.pins = s.pins ∧ r.pending = s.pending := by
  (try simp only [execSlotCopyLoad] at h); (try (repeat' split at h)) <;> (injection h with h; rw [← h]; first
      | exact ⟨rfl, rfl⟩
      | exact State.modTile_outer ..
      | exact State.endA_outer ..
      | exact State.failLoad_outer ..
      | exact State.patchAndFinish_outer ..
      | simp [State.modTile_outer, State.endA_outer, State.failLoad_outer, State.patchAndFinish_outer]
      | grind [State.modTile_outer, State.endA_outer, State.failLoad_outer, State.patchAndFinish_outer])

theorem execPlaneBlockLoad_outer (t : Byte) (upsets : List Upset) (s r : State) (h : execPlaneBlockLoad t upsets s = .next r) :
    r.pins = s.pins ∧ r.pending = s.pending := by
  unfold execPlaneBlockLoad at h
  extract_lets t' x s1 at h
  split at h
  · exact outer_of_next h ⟨rfl, rfl⟩
  · next o _ =>
    extract_lets w b ns first blks ea er ex readBad poison p s2 at h
    have h1 : blks.2.pins = s.pins ∧ blks.2.pending = s.pending := outer_trans (b := s1) (State.modTile_outer ..)
      (foldl_proj_outer (fun r : List Blk × State => r.2) _ (fun r k => State.denseBlock_outer ..) _ ([], s1))
    have h2 : er.2.2.pins = s.pins ∧ er.2.2.pending = s.pending := by
      simp only [er]
      split
      · exact outer_trans h1 (State.spRead_outer ..)
      · exact h1
    repeat' split at h
    · exact outer_of_next h ⟨rfl, rfl⟩
    · cases h; exact State.endA_outer ..
    · exact outer_of_next h ⟨rfl, rfl⟩
    · cases h; exact outer_trans h2 (State.failLoad_outer ..)
    all_goals cases h; exact outer_trans (b := s2) (outer_trans h2 (State.modTile_outer ..)) (State.endA_outer ..)

end Sys2Proof.Machine
end

