-- ==== Sys2Proof/Laws/Frames/DmaRows.lean ====
section
/-! SUPPORT. Frames of transfer rows: the queue of commands and the pins are outside what they write. -/

set_option linter.unusedSimpArgs false
set_option linter.unusedVariables false
set_option linter.unusedTactic false
set_option linter.unreachableTactic false

namespace Sys2Proof.Machine

theorem execTransferBegin_outer (t : Byte) (queue : BitVec 2) (upsets : List Upset) (s r : State)
    (h : execTransferBegin t queue upsets s = .next r) : r.pins = s.pins ∧ r.pending = s.pending := by
  unfold execTransferBegin at h
  extract_lets t' at h
  split at h
  · exact outer_of_next h ⟨rfl, rfl⟩
  split at h
  · exact outer_of_next h ⟨rfl, rfl⟩
  extract_lets rd s1 q at h
  have h1 : s1.pins = s.pins ∧ s1.pending = s.pending := outer_trans (State.modTile_outer ..) (State.spRead_outer ..)
  clear_value rd s1 q
  split at h
  · exact outer_of_next h (outer_trans h1 (State.endX_outer ..))
  split at h
  · exact outer_of_next h (outer_trans h1 (State.endX_outer ..))
  · exact outer_of_next h (outer_trans h1 (State.modTile_outer ..))

theorem State.srcPiece_outer (s : State) (t : Nat) (va pa n key : Nat) (ext : Ext) :
    (State.srcPiece s t va pa n key ext).st.pins = s.pins ∧ (State.srcPiece s t va pa n key ext).st.pending =
    s.pending := by
  unfold State.srcPiece; (repeat' split) <;> simp [State.count_outer, State.spRead_outer, State.countTier_outer,
      State.cacheLine_outer, State.physRead_outer, State.host_outer, foldl_outer]

theorem State.srcRead_outer (s : State) (t : Nat) (ps : List (Nat × Nat × Nat × Nat)) (ext : Ext) :
    (s.srcRead t ps ext).st.pins = s.pins ∧ (s.srcRead t ps ext).st.pending = s.pending :=
  foldl_proj_outer MemRead.st _ (fun _ _ => outer_trans (State.srcPiece_outer ..)
    (outer_trans (State.countRoute_outer ..) (State.count_outer ..))) _ _

theorem State.endUnit_outer (s : State) (t : Nat) (q : Xfer) (f : Failing) (write : Bool) :
    (State.endUnit s t q f write).pins = s.pins ∧ (State.endUnit s t q f write).pending = s.pending := by
  simp [State.endUnit, State.endX_outer]

theorem State.issueUnit_outer (s : State) (t : Nat) (q : Xfer) (bs : Option (List Byte)) (poison : Bool) (r : State)
    (h : State.issueUnit s t q bs poison = some r) : r.pins = s.pins ∧ r.pending = s.pending := by
  grind [State.issueUnit, State.modTile_outer, State.take_outer, State.afterAck_outer, State.endUnit_outer]

theorem State.issueNext_outer (s : State) (t queue : Nat) (r : State) (h : s.issueNext t queue = some r) :
    r.pins = s.pins ∧ r.pending = s.pending := by
  unfold State.issueNext at h
  split at h
  · cases h
  · next q _ =>
    have hi : ∀ ps, (s.srcRead t ps default).st.issueUnit t q (some (s.srcRead t ps default).bytes) (s.srcRead t ps default).bad =
        some r → r.pins = s.pins ∧ r.pending = s.pending :=
      fun ps e => outer_trans (State.srcRead_outer ..) (State.issueUnit_outer _ _ _ _ _ _ e)
    dsimp only at h
    repeat' split at h
    · cases h
    · obtain ⟨f, -, rfl⟩ := Option.map_eq_some_iff.mp h
      exact State.endUnit_outer ..
    · exact hi _ h
    · cases h
    · exact hi _ h
    · obtain ⟨e, -, h⟩ := Option.bind_eq_some_iff.mp h
      exact State.issueUnit_outer _ _ _ _ _ _ h

theorem State.issueMany_outer (s : State) (t queue n : Nat) :
    (s.issueMany t queue n).pins = s.pins ∧ (s.issueMany t queue n).pending = s.pending := by
  induction n generalizing s with
  | zero => exact ⟨rfl, rfl⟩
  | succ n ih =>
    simp only [State.issueMany]
    split
    · next hi => exact outer_trans (State.issueNext_outer _ _ _ _ hi) (ih _)
    · exact ⟨rfl, rfl⟩

theorem execElementBatch_outer (t : Byte) (queue : BitVec 2) (n : BitVec 6) (checkFault : Bool) (upsets : List Upset)
    (s r : State) (h : execElementBatch t queue n checkFault upsets s = .next r) : r.pins = s.pins ∧ r.pending = s.pending := by
  unfold execElementBatch at h
  dsimp only at h
  split at h
  · exact outer_of_next h ⟨rfl, rfl⟩
  · split at h
    · exact outer_of_next h ⟨rfl, rfl⟩
    · split at h <;> cases h
      · exact outer_trans (State.modTile_outer ..) (State.datapath_outer ..)
      · exact outer_trans (State.modTile_outer ..) (State.issueMany_outer ..)

theorem State.stage_outer (s : State) (t : Nat) (q : Xfer) (u : Nat) (m : MemRead) (poison : Bool) :
    (s.stage t q u m poison).pins = m.st.pins ∧ (s.stage t q u m poison).pending = m.st.pending := State.modTile_outer ..

theorem execSourceReadReturn_outer (t : Byte) (queue : BitVec 2) (data : List Byte) (poison : Bool)
    (upsets : List Upset) (s : State) (r : State) (h : execSourceReadReturn t queue data poison upsets s = .next r) :
    r.pins = s.pins ∧ r.pending = s.pending := by
  (try simp only [execSourceReadReturn] at h); (try (repeat' split at h)) <;> (injection h with h; rw [← h]; first
      | exact ⟨rfl, rfl⟩
      | exact State.strikeHbm_outer ..
      | exact State.srcRead_outer ..
      | exact State.stage_outer ..
      | simp [State.strikeHbm_outer, State.srcRead_outer, State.stage_outer]
      | grind [State.strikeHbm_outer, State.srcRead_outer, State.stage_outer])

theorem State.readTimeout_outer (s : State) (t queue : Nat) (hit : Zone → Bool) (ev : Nat → State → Ev) :
    (State.readTimeout s t queue hit ev).pins = s.pins ∧ (State.readTimeout s t queue hit ev).pending = s.pending :=
    by
  unfold State.readTimeout; (repeat' split) <;> simp [State.used_outer, State.raise_outer, State.stage_outer]

theorem execFarReadTimeout_outer (t : Byte) (queue : BitVec 2) (s : State) (r : State)
    (h : execFarReadTimeout t queue s = .next r) : r.pins = s.pins ∧ r.pending = s.pending := by
  (try simp only [execFarReadTimeout] at h); (try (repeat' split at h)) <;> (injection h with h; rw [← h]; first
      | exact ⟨rfl, rfl⟩
      | exact State.readTimeout_outer ..
      | simp [State.readTimeout_outer]
      | grind [State.readTimeout_outer])

theorem execHostReadTimeout_outer (t : Byte) (queue : BitVec 2) (s : State) (r : State)
    (h : execHostReadTimeout t queue s = .next r) : r.pins = s.pins ∧ r.pending = s.pending := by
  (try simp only [execHostReadTimeout] at h); (try (repeat' split at h)) <;> (injection h with h; rw [← h]; first
      | exact ⟨rfl, rfl⟩
      | exact State.host_outer ..
      | exact State.readTimeout_outer ..
      | simp [State.host_outer, State.readTimeout_outer]
      | grind [State.host_outer, State.readTimeout_outer])

theorem State.strikeKvMap_outer (s : State) (va : Nat) : (State.strikeKvMap s va).pins = s.pins ∧
    (State.strikeKvMap s va).pending = s.pending := by
  unfold State.strikeKvMap; (repeat' split) <;> simp [State.modSeq_outer, State.used_outer, State.raise_outer]

theorem execTranslationWalk_outer (t : Byte) (queue : BitVec 2) (checkFault : Bool) (upsets : List Upset) (s r : State)
    (h : execTranslationWalk t queue checkFault upsets s = .next r) : r.pins = s.pins ∧ r.pending = s.pending := by
  unfold execTranslationWalk at h
  extract_lets t' at h
  split at h
  · exact outer_of_next h ⟨rfl, rfl⟩
  · next q _ =>
    split at h
    · exact outer_of_next h ⟨rfl, rfl⟩
    · next u va write _ =>
      extract_lets now fail fault s1 w2 at h
      have hf : ∀ (s : State) (st : Status), (fail s st).pins = s.pins ∧ (fail s st).pending = s.pending := by
        intro s st
        simp only [fail]
        split
        · exact State.endUnit_outer ..
        · exact ⟨rfl, rfl⟩
      have hg : ∀ (s : State) (n : Nat), (fault s n).pins = s.pins ∧ (fault s n).pending = s.pending := by
        intro s n
        simp only [fault]
        split
        · exact State.faultX_outer ..
        · exact ⟨rfl, rfl⟩
      have h2 : w2.2.pins = s.pins ∧ w2.2.pending = s.pending :=
        outer_trans (State.strikeHbm_outer ..) (State.walkTile_outer ..)
      clear_value fail fault
      split at h
      · cases h
        split
        · exact State.datapath_outer ..
        · exact ⟨rfl, rfl⟩
      split at h
      · have h1 : s1.pins = s.pins ∧ s1.pending = s.pending := by
          simp only [s1]
          split
          · exact State.strikeKvMap_outer ..
          · exact ⟨rfl, rfl⟩
        clear_value s1
        repeat' split at h
        all_goals cases h
        all_goals first
          | exact outer_trans h1 (State.modTile_outer ..)
          | exact outer_trans h1 (hf _ _)
          | exact outer_trans h1 (hg _ _)
      repeat' split at h
      all_goals cases h
      all_goals first
        | exact outer_trans h2 (State.tlbAdd_outer ..)
        | exact outer_trans h2 (hg _ _)
        | exact outer_trans h2 (hf _ _)

theorem State.resolveFaults_outer (s : State) (c reason lo n : Nat) : (State.resolveFaults s c reason lo n).pins =
    s.pins ∧ (State.resolveFaults s c reason lo n).pending = s.pending := by
  simp [State.resolveFaults, State.modCtx_outer, State.resumeCtx_outer]

theorem execPageSwapIn_outer (ctx : Byte) (va : W64) (tagsOk : Bool) (s : State) (r : State)
    (h : execPageSwapIn ctx va tagsOk s = .next r) : r.pins = s.pins ∧ r.pending = s.pending := by
  grind [execPageSwapIn, State.pageIn_outer, State.runIn_outer, State.resolveFaults_outer]

theorem State.markDirty_outer (s : State) (t pa : Nat) : (State.markDirty s t pa).pins = s.pins ∧
    (State.markDirty s t pa).pending = s.pending := by
  unfold State.markDirty; split <;> simp [State.modWork_outer, State.host_outer, foldl_outer]

theorem State.noteMarks_outer (s : State) (t pa n : Nat) : (State.noteMarks s t pa n).pins = s.pins ∧
    (State.noteMarks s t pa n).pending = s.pending := by
  grind [State.noteMarks, State.modCore_outer]

theorem State.applyAdd_outer (s : State) (pa : Nat) (data : List Byte) (key : Nat) (poison : Bool) :
    (State.applyAdd s pa data key poison).pins = s.pins ∧ (State.applyAdd s pa data key poison).pending = s.pending :=
    by
  simp [State.applyAdd, State.physRead_outer, State.physWrite_outer]

theorem State.dropOut_outer (s : State) (t ticket : Nat) (p : OutW → Bool) : (State.dropOut s t ticket p).pins =
    s.pins ∧ (State.dropOut s t ticket p).pending = s.pending := by
  simp [State.dropOut, State.modTile_outer]

theorem State.failOuts_outer (s : State) (t : Nat) (q : Xfer) (p : OutW → Bool) (st : Status) :
    (State.failOuts s t q p st).pins = s.pins ∧ (State.failOuts s t q p st).pending = s.pending := by
  unfold State.failOuts; split <;> simp [State.endX_outer, foldl_outer]

theorem State.failOut_outer (s : State) (t : Nat) (q : Xfer) (w : OutW) (st : Status) :
    (State.failOut s t q w st).pins = s.pins ∧ (State.failOut s t q w st).pending = s.pending := by
  simp [State.failOut, State.failOuts_outer]

theorem State.ackElem_outer (s : State) (t : Nat) (q : Xfer) (w : OutW) : (State.ackElem s t q w).pins = s.pins ∧
    (State.ackElem s t q w).pending = s.pending := by
  grind [State.ackElem, State.physWrite_outer, State.afterAck_outer, State.countWrite_outer, State.markDirty_outer,
      State.noteMarks_outer, State.applyAdd_outer, State.dropOut_outer, State.failOut_outer, foldl_outer]

theorem State.ackGroup_outer (s : State) (t : Nat) (q : Xfer) (w : OutW) : (State.ackGroup s t q w).pins = s.pins ∧
    (State.ackGroup s t q w).pending = s.pending := by
  grind [State.ackGroup, State.groupWrite_outer, State.afterAck_outer, State.countWriteAs_outer, State.dropOut_outer,
      State.failOuts_outer, State.failOut_outer]

theorem execWriteAcknowledged_outer (t : Byte) (queue : BitVec 2) (s : State) (r : State)
    (h : execWriteAcknowledged t queue s = .next r) : r.pins = s.pins ∧ r.pending = s.pending := by
  (try simp only [execWriteAcknowledged] at h); (try (repeat' split at h)) <;> (injection h with h; rw [← h]; first
      | exact ⟨rfl, rfl⟩
      | exact State.endX_outer ..
      | exact State.ackElem_outer ..
      | exact State.ackGroup_outer ..
      | simp [State.endX_outer, State.ackElem_outer, State.ackGroup_outer]
      | grind [State.endX_outer, State.ackElem_outer, State.ackGroup_outer])

theorem execIntAddOperand_outer (t : Byte) (queue : BitVec 2) (checkFault : Bool) (s : State) (r : State)
    (h : execIntAddOperand t queue checkFault s = .next r) : r.pins = s.pins ∧ r.pending = s.pending := by
  (try simp only [execIntAddOperand] at h); (try (repeat' split at h)) <;> (injection h with h; rw [← h]; first
      | exact ⟨rfl, rfl⟩
      | exact State.raise_outer ..
      | exact State.afterAck_outer ..
      | exact State.countWrite_outer ..
      | exact State.noteMarks_outer ..
      | exact State.applyAdd_outer ..
      | exact State.dropOut_outer ..
      | exact State.failOut_outer ..
      | simp [State.raise_outer, State.afterAck_outer, State.countWrite_outer, State.noteMarks_outer,
        State.applyAdd_outer, State.dropOut_outer, State.failOut_outer]
      | grind [State.raise_outer, State.afterAck_outer, State.countWrite_outer, State.noteMarks_outer,
        State.applyAdd_outer, State.dropOut_outer, State.failOut_outer])

theorem State.fp32Operand_outer (s : State) (c pa opx : Nat) (data : List Byte) (key : Nat) (poison : Bool)
    (r : State × Nat) (h : State.fp32Operand s c pa opx data key poison = .ok r) : r.1.pins = s.pins ∧ r.1.pending =
    s.pending := by
  grind [State.fp32Operand, State.modStack_outer, State.physRead_outer, State.physWrite_outer]

theorem State.fp32Row_outer (s : State) (t queue : Nat) (unordered checkFault : Bool) :
    (s.fp32Row t queue unordered checkFault).pins = s.pins ∧ (s.fp32Row t queue unordered checkFault).pending = s.pending := by
  unfold State.fp32Row
  split
  · exact ⟨rfl, rfl⟩
  · next q w _ =>
    split
    · exact ⟨rfl, rfl⟩
    · split
      · exact State.failOut_outer ..
      · extract_lets s1
        have h1 : s1.pins = s.pins ∧ s1.pending = s.pending := by
          simp only [s1]
          split
          · exact State.raise_outer ..
          · exact ⟨rfl, rfl⟩
        split
        · exact outer_trans h1 (State.failOut_outer ..)
        · next hr =>
          extract_lets s2 s3
          have h2 : s2.pins = s.pins ∧ s2.pending = s.pending :=
            outer_trans (outer_trans h1 (State.fp32Operand_outer _ _ _ _ _ _ _ _ hr))
              (outer_trans (State.modCore_outer ..) (State.countWrite_outer ..))
          have h3 : s3.pins = s.pins ∧ s3.pending = s.pending := by
            simp only [s3]
            split
            · exact h2
            · exact outer_trans h2 (State.noteMarks_outer ..)
          exact outer_trans h3 (outer_trans (State.dropOut_outer ..) (State.afterAck_outer ..))

theorem execFp32TreeOperand_outer (t : Byte) (queue : BitVec 2) (checkFault : Bool) (s : State) (r : State)
    (h : execFp32TreeOperand t queue checkFault s = .next r) : r.pins = s.pins ∧ r.pending = s.pending := by
  (try simp only [execFp32TreeOperand] at h); (try (repeat' split at h)) <;> (injection h with h; rw [← h]; first
      | exact ⟨rfl, rfl⟩
      | exact State.fp32Row_outer ..
      | simp [State.fp32Row_outer]
      | grind [State.fp32Row_outer])

theorem execUnorderedAdd_outer (t : Byte) (queue : BitVec 2) (checkFault : Bool) (s : State) (r : State)
    (h : execUnorderedAdd t queue checkFault s = .next r) : r.pins = s.pins ∧ r.pending = s.pending := by
  (try simp only [execUnorderedAdd] at h); (try (repeat' split at h)) <;> (injection h with h; rw [← h]; first
      | exact ⟨rfl, rfl⟩
      | exact State.fp32Row_outer ..
      | simp [State.fp32Row_outer]
      | grind [State.fp32Row_outer])

theorem State.failFarWrites_outer (s : State) (p : Nat) : (State.failFarWrites s p).pins = s.pins ∧
    (State.failFarWrites s p).pending = s.pending := by
  simp [State.failFarWrites, State.failOuts_outer, foldl_outer]

theorem State.failFar_outer (s : State) (p cause addr : Nat) : (State.failFar s p cause addr).pins = s.pins ∧
    (State.failFar s p cause addr).pending = s.pending := by
  simp [State.failFar, State.modFar_outer, State.raise_outer, State.failFarWrites_outer]

theorem execFarWriteFailure_outer (p : BitVec 1) (errorCompletion : Bool) (addr : W64) (s : State) (r : State)
    (h : execFarWriteFailure p errorCompletion addr s = .next r) : r.pins = s.pins ∧ r.pending = s.pending := by
  (try simp only [execFarWriteFailure] at h); (try (repeat' split at h)) <;> (injection h with h; rw [← h]; first
      | exact ⟨rfl, rfl⟩
      | exact State.failFar_outer ..
      | simp [State.failFar_outer]
      | grind [State.failFar_outer])

end Sys2Proof.Machine
end

