-- ==== Sys2Proof/Laws/Frames/Bundle.lean ====
section
/-! SUPPORT. Frames of bundles and run-ahead: the queue of commands and the pins are outside what they write. -/

set_option linter.unusedSimpArgs false
set_option linter.unusedVariables false
set_option linter.unusedTactic false
set_option linter.unreachableTactic false

namespace Sys2Proof.Machine

theorem scalarOp_outer (t : Nat) (late : Bool) (len w : Nat) (s : State) : SRes.Keeps s (scalarOp t late len w s) := by
  generalize hf : scalarOp t late len w = f
  unfold scalarOp at hf
  dsimp only at hf
  repeat' split at hf
  all_goals subst hf
  all_goals first
    | exact illegal_outer ..
    | with_reducible exact sAlu_outer ..
    | with_reducible exact sUnary_outer ..
    | with_reducible exact sShi_outer ..
    | with_reducible exact sLi_outer ..
    | with_reducible exact sLis_outer ..
    | with_reducible exact sLd_outer ..
    | with_reducible exact sSt_outer ..
    | with_reducible exact sLdf_outer ..
    | with_reducible exact sStf_outer ..
    | with_reducible exact sCmp_outer ..
    | with_reducible exact sCmpi_outer ..
    | with_reducible exact sPlog_outer ..
    | with_reducible exact sBranch_outer ..
    | with_reducible exact sJr_outer ..
    | with_reducible exact sFop_outer ..
    | with_reducible exact sFcmp_outer ..
    | with_reducible exact sFmv_outer ..
    | with_reducible exact sHash_outer ..
    | with_reducible exact sRdraw_outer ..
    | with_reducible exact sRctr_outer ..
    | with_reducible exact sRctw_outer ..
    | with_reducible exact sCsrr_outer ..
    | with_reducible exact sCsrw_outer ..
    | with_reducible exact sCntr_outer ..
    | with_reducible exact sSvc_outer ..
    | with_reducible exact sHalt_outer ..
    | with_reducible exact sDescw_outer ..
    | with_reducible exact sTkstat_outer ..

theorem State.bundleIssue_outer (s : State) (t v : Nat) (old : Core) (r : State)
    (h : State.bundleIssue s t v old = some r) : r.pins = s.pins ∧ r.pending = s.pending := by
  grind [State.bundleIssue, State.modTile_outer, State.act_outer]

theorem State.bundleRest_outer (s : State) (t v : Nat) (late : Bool) (pd : Nat) :
    (s.bundleRest t v late pd).pins = s.pins ∧ (s.bundleRest t v late pd).pending = s.pending := by
  unfold State.bundleRest
  extract_lets y x s0 s1 op
  have h0 : s0.pins = s.pins ∧ s0.pending = s.pending := State.modCore_outer ..
  have h1 : s1.pins = s.pins ∧ s1.pending = s.pending := by
    simp only [s1]
    split
    · exact outer_trans h0 (State.modCore_outer ..)
    · exact h0
  have hop : ∀ s, SRes.Keeps s (op s) := by
    intro s
    simp only [op]
    split
    · exact scalarOp_outer ..
    · exact ⟨rfl, rfl⟩
  clear_value s0 s1 op
  have hr := hop s1
  revert hr
  cases op s1 with
  | stall => exact fun _ => ⟨rfl, rfl⟩
  | exc cause detail => exact fun _ => outer_trans h0 (State.exceptAt_outer ..)
  | ahead _ =>
    intro _
    dsimp only
    split
    · exact ⟨rfl, rfl⟩
    · next s2 e =>
      have h2 := outer_trans h1 (State.bundleIssue_outer _ _ _ _ _ e)
      exact outer_trans h2 (State.finishScalar_outer _ _ _ _ (hop _))
  | done s2 taken =>
    intro hr
    dsimp only
    split
    · exact ⟨rfl, rfl⟩
    · next s3 e =>
      exact outer_trans (outer_trans (outer_trans h1 hr) (State.bundleIssue_outer _ _ _ _ _ e)) (State.commit_outer ..)

theorem State.bundleGo_outer (s : State) (t v : Nat) (late : Bool) :
    (s.bundleGo t v late).pins = s.pins ∧ (s.bundleGo t v late).pending = s.pending := by
  unfold State.bundleGo
  extract_lets y x id b held phase s1 wait
  have h1 : s1.pins = s.pins ∧ s1.pending = s.pending := by
    simp only [s1]
    split
    · exact State.act_outer ..
    · exact ⟨rfl, rfl⟩
  have h2 : ∀ d, (wait d).pins = s.pins ∧ (wait d).pending = s.pending :=
    fun d => outer_trans h1 (State.modCore_outer ..)
  clear_value s1 wait
  split
  · split
    · exact ⟨rfl, rfl⟩
    · exact outer_trans (State.modCore_outer ..) (State.bundleRest_outer ..)
  · repeat' split
    · exact State.bundleRest_outer ..
    · exact h1
    · exact h2 _
    · exact outer_trans (h2 _) (State.bundleRest_outer ..)

theorem State.bundleAt_outer (s : State) (t v : Nat) (late : Bool) : (State.bundleAt s t v late).pins = s.pins ∧
    (State.bundleAt s t v late).pending = s.pending := by
  grind [State.bundleAt, State.exceptAt_outer, scalarOp_outer, State.bundleGo_outer]

theorem execBundle_outer (t : Byte) (late : Bool) (value : BitVec 256) (upsets : List Upset) (s : State) (r : State)
    (h : execBundle t late value upsets s = .next r) : r.pins = s.pins ∧ r.pending = s.pending := by
  (try simp only [execBundle] at h); (try (repeat' split at h)) <;> (injection h with h; rw [← h]; first
      | exact ⟨rfl, rfl⟩
      | exact State.modTile_outer ..
      | exact State.fetch_outer ..
      | exact State.exceptAt_outer ..
      | exact State.bundleGo_outer ..
      | exact State.bundleAt_outer ..
      | simp [State.modTile_outer, State.fetch_outer, State.exceptAt_outer, State.bundleGo_outer,
        State.bundleAt_outer]
      | grind [State.modTile_outer, State.fetch_outer, State.exceptAt_outer, State.bundleGo_outer,
        State.bundleAt_outer])

theorem execSyncWaitExpiry_outer (t : Byte) (s : State) (r : State) (h : execSyncWaitExpiry t s = .next r) : r.pins =
    s.pins ∧ r.pending = s.pending := by
  (try simp only [execSyncWaitExpiry] at h); (try (repeat' split at h)) <;> (injection h with h; rw [← h]; first
      | exact ⟨rfl, rfl⟩
      | exact State.modCore_outer ..
      | exact State.bundleRest_outer ..
      | simp [State.modCore_outer, State.bundleRest_outer]
      | grind [State.modCore_outer, State.bundleRest_outer])

theorem State.release_outer (t : Nat) (r : State × Nat) (p : Prov) :
    (State.release t r p).1.pins = r.1.pins ∧ (State.release t r p).1.pending = r.1.pending := by
  cases p
  all_goals first
    | exact ⟨rfl, rfl⟩
    | exact State.storeNow_outer ..
    | exact State.countSp_outer ..
    | exact State.modTile_outer ..
    | exact State.modCore_outer ..
    | exact State.except_outer ..
    | exact State.traceCommit_outer ..

theorem State.resolveBranch_outer (s : State) (t : Nat) (k : Ckpt) (rest : List Ckpt) :
    (s.resolveBranch t k rest).pins = s.pins ∧ (s.resolveBranch t k rest).pending = s.pending := by
  unfold State.resolveBranch
  extract_lets taken c n items s1 s2 s3 s4
  split
  · have h : s2.pins = s.pins ∧ s2.pending = s.pending :=
      outer_trans (b := s1) (State.modCore_outer ..) (State.traceCommit_outer ..)
    have h3 : s3.pins = s2.pins ∧ s3.pending = s2.pending :=
      foldl_proj_outer (fun r : State × Nat => r.1) _ (fun _ _ => State.release_outer ..) _ (s2, 0)
    exact outer_trans (outer_trans h h3) (State.modCore_outer ..)
  · exact outer_trans (b := s4) (State.modCore_outer ..) (State.traceCommit_outer ..)

theorem execBranchResolve_outer (t : Byte) (s : State) (r : State) (h : execBranchResolve t s = .next r) : r.pins =
    s.pins ∧ r.pending = s.pending := by
  (try simp only [execBranchResolve] at h); (try (repeat' split at h)) <;> (injection h with h; rw [← h]; first
      | exact ⟨rfl, rfl⟩
      | exact State.pred_outer ..
      | exact State.resolveBranch_outer ..
      | simp [State.pred_outer, State.resolveBranch_outer]
      | grind [State.pred_outer, State.resolveBranch_outer])

theorem execCoreStop_outer (t : Byte) (resume : Bool) (s : State) (r : State) (h : execCoreStop t resume s = .next r)
    : r.pins = s.pins ∧ r.pending = s.pending := by
  (try simp only [execCoreStop] at h); (try (repeat' split at h)) <;> (injection h with h; rw [← h]; first
      | exact ⟨rfl, rfl⟩
      | exact State.suspendCtx_outer ..
      | exact State.resumeCtx_outer ..
      | simp [State.suspendCtx_outer, State.resumeCtx_outer]
      | grind [State.suspendCtx_outer, State.resumeCtx_outer])

end Sys2Proof.Machine
end

