-- ==== Sys2Proof/Laws/Frames/HostCmds.lean ====
section
/-! SUPPORT. Frames of host commands: the queue of commands and the pins are outside what they write. -/

set_option linter.unusedSimpArgs false
set_option linter.unusedVariables false
set_option linter.unusedTactic false
set_option linter.unreachableTactic false

namespace Sys2Proof.Machine

theorem execDeviceQuery_outer (h : Pkt) (s : State) (r : State) (h : execDeviceQuery h s = .next r) : r.pins = s.pins
    ∧ r.pending = s.pending := by
  cases h; refine State.host_outer _ _ _ _ _ _ (fun a b => ?_); ((try dsimp only); (try (repeat' split)) <;> first
      | exact ⟨rfl, rfl⟩
      | simp [State.reply_outer]
      | grind [State.reply_outer])

theorem execDeviceNop_outer (h : Pkt) (s : State) (r : State) (h : execDeviceNop h s = .next r) : r.pins = s.pins ∧
    r.pending = s.pending := by
  cases h; refine State.host_outer _ _ _ _ _ _ (fun a b => ?_); ((try dsimp only); (try (repeat' split)) <;> first
      | exact ⟨rfl, rfl⟩
      | simp [State.replyS_outer]
      | grind [State.replyS_outer])

theorem execCtxCreate_outer (h : Pkt) (seed : W64) (part : Byte) (refMode : Bool) (swapBase swapSize : W64)
    (s : State) (r : State) (h : execCtxCreate h seed part refMode swapBase swapSize s = .next r) : r.pins = s.pins ∧
    r.pending = s.pending := by
  cases h; refine State.host_outer _ _ _ _ _ _ (fun a b => ?_); ((try dsimp only); (try (repeat' split)) <;> first
      | exact ⟨rfl, rfl⟩
      | simp [State.reply_outer, State.replyS_outer]
      | grind [State.reply_outer, State.replyS_outer])

theorem State.stickyClear_outer (s : State) (c : Nat) : (State.stickyClear s c).pins = s.pins ∧
    (State.stickyClear s c).pending = s.pending := by
  simp [State.stickyClear, State.modCore_outer, State.modCtx_outer, foldl_outer]

theorem execCtxQuery_outer (h : Pkt) (clear : Bool) (s : State) (r : State) (h : execCtxQuery h clear s = .next r) :
    r.pins = s.pins ∧ r.pending = s.pending := by
  cases h; refine State.host_outer _ _ _ _ _ _ (fun a b => ?_); ((try dsimp only); (try (repeat' split)) <;> first
      | exact ⟨rfl, rfl⟩
      | simp [State.reply_outer, State.replyS_outer, State.stickyClear_outer]
      | grind [State.reply_outer, State.replyS_outer, State.stickyClear_outer])

theorem State.resumeFaults_outer (s : State) (c : Nat) : (State.resumeFaults s c).pins = s.pins ∧
    (State.resumeFaults s c).pending = s.pending := by
  simp [State.resumeFaults, State.modCtx_outer, State.resumeCtx_outer]

theorem execCtxResume_outer (h : Pkt) (s : State) (r : State) (h : execCtxResume h s = .next r) : r.pins = s.pins ∧
    r.pending = s.pending := by
  cases h; refine State.host_outer _ _ _ _ _ _ (fun a b => ?_); ((try dsimp only); (try (repeat' split)) <;> first
      | exact ⟨rfl, rfl⟩
      | simp [State.replyS_outer, State.resumeFaults_outer]
      | grind [State.replyS_outer, State.resumeFaults_outer])

theorem execCtxFaultAbort_outer (h : Pkt) (s : State) (r : State) (h : execCtxFaultAbort h s = .next r) : r.pins =
    s.pins ∧ r.pending = s.pending := by
  grind [execCtxFaultAbort, State.replyS_outer, State.host_outer, State.abortX_outer, State.resumeFaults_outer,
      foldl_outer]

theorem State.mapPages_outer (s : State) (c va pa size pte n : Nat) (r : State)
    (h : s.mapPages c va pa size pte n = some r) : r.pins = s.pins ∧ r.pending = s.pending :=
  foldlM_option_outer _ (fun _ _ _ h => State.mapEntry_outer _ _ _ _ _ _ h) _ _ _ h

theorem execMemMap_outer (h : Pkt) (va pa len : W64) (pageSize leaf : Byte) (s r : State)
    (e : execMemMap h va pa len pageSize leaf s = .next r) : r.pins = s.pins ∧ r.pending = s.pending := by
  cases e
  refine State.host_outer _ _ _ _ _ _ (fun c s => ?_)
  dsimp only
  repeat' split
  all_goals first
    | exact State.replyS_outer ..
    | (next hm =>
       exact outer_trans (outer_trans (State.mapPages_outer _ _ _ _ _ _ _ _ hm) (State.modCtx_outer ..)) (State.replyS_outer ..))

theorem State.rewriteLeaves_outer (s : State) (c : Nat) (ls : List (Nat × Nat × Nat)) (f : Nat → Nat) :
    (s.rewriteLeaves c ls f).pins = s.pins ∧ (s.rewriteLeaves c ls f).pending = s.pending :=
  foldl_outer _ (fun _ _ => getD_outer _ _ (fun _ h => State.mapEntry_outer _ _ _ _ _ _ h)) _ _

theorem execMemUnmap_outer (h : Pkt) (va len : W64) (s r : State) (e : execMemUnmap h va len s = .next r) :
    r.pins = s.pins ∧ r.pending = s.pending := by
  simp only [execMemUnmap] at e
  split at e <;> cases e
  · exact ⟨rfl, rfl⟩
  · refine State.host_outer _ _ _ _ _ _ (fun c s => ?_)
    repeat' split
    · exact State.replyS_outer ..
    · exact State.replyS_outer ..
    · exact outer_trans (outer_trans (outer_trans (outer_trans (State.rewriteLeaves_outer ..) (State.invalidate_outer ..))
        (foldl_outer _ (fun _ _ => getD_outer _ _ (fun _ h => State.mapEntry_outer _ _ _ _ _ _ h)) _ _))
        (State.modCtx_outer ..)) (State.replyS_outer ..)

theorem State.swapPage_outer (s : State) (c va backing : Nat) (e : Nat × Nat × Nat) :
    (s.swapPage c va backing e).pins = s.pins ∧ (s.swapPage c va backing e).pending = s.pending :=
  outer_trans (outer_trans (State.swapTo_outer ..) (getD_outer _ _ (fun _ h => State.mapEntry_outer _ _ _ _ _ _ h)))
    (State.modCtx_outer ..)

theorem execMemSwapOut_outer (h : Pkt) (va len backing : W64) (s : State) (r : State)
    (h : execMemSwapOut h va len backing s = .next r) : r.pins = s.pins ∧ r.pending = s.pending := by
  grind [execMemSwapOut, State.invalidate_outer, State.replyS_outer, State.host_outer, State.swapPage_outer,
      foldl_outer]

theorem execVariantLoad_outer (h : Pkt) (model variant : W16) (va len : W64) (ext : Ext) (s r : State)
    (e : execVariantLoad h model variant va len ext s = .next r) : r.pins = s.pins ∧ r.pending = s.pending := by
  cases e
  refine State.host_from _ _ _ _ _ _ (fun c t ht => ?_)
  repeat' split
  · exact outer_trans ht (State.replyS_outer ..)
  · exact outer_trans ht (State.replyS_outer ..)
  · exact ⟨rfl, rfl⟩
  · refine State.orStatus_from _ _ _ (outer_trans ht (State.stewardRead_outer ..)) (fun dir u hu => ?_)
    dsimp only
    split
    · exact outer_trans hu (State.replyS_outer ..)
    · exact outer_trans hu (outer_trans (State.modCtx_outer ..) (State.replyS_outer ..))

theorem execVariantRemove_outer (h : Pkt) (model variant : W16) (s : State) (r : State)
    (h : execVariantRemove h model variant s = .next r) : r.pins = s.pins ∧ r.pending = s.pending := by
  cases h; refine State.host_outer _ _ _ _ _ _ (fun a b => ?_); ((try dsimp only); (try (repeat' split)) <;> first
      | exact ⟨rfl, rfl⟩
      | simp [State.modCtx_outer, State.replyS_outer]
      | grind [State.modCtx_outer, State.replyS_outer])

theorem execAdapterLoad_outer (h : Pkt) (model adapter : W16) (va len outVa : W64) (ext : LayerExt) (s r : State)
    (e : execAdapterLoad h model adapter va len outVa ext s = .next r) : r.pins = s.pins ∧ r.pending = s.pending := by
  cases e
  refine State.host_from _ _ _ _ _ _ (fun c t ht => ?_)
  have hr := fun st => outer_trans ht (State.replyS_outer t h st)
  dsimp only
  split
  · exact hr _
  split
  · exact hr _
  split
  · exact ⟨rfl, rfl⟩
  · refine State.orStatus_from _ _ _ (outer_trans ht (State.stewardRead_outer ..)) (fun bs u hu => ?_)
    repeat' split
    all_goals first
      | exact outer_trans hu (State.replyS_outer ..)
      | exact ⟨rfl, rfl⟩
      | exact State.orStatus_from _ _ _ (outer_trans hu (State.stewardWrite_outer ..))
          (fun _ v hv => outer_trans hv (outer_trans (State.modCtx_outer ..) (State.reply_outer ..)))

theorem execAdapterRemove_outer (h : Pkt) (model adapter : W16) (s : State) (r : State)
    (h : execAdapterRemove h model adapter s = .next r) : r.pins = s.pins ∧ r.pending = s.pending := by
  cases h; refine State.host_outer _ _ _ _ _ _ (fun a b => ?_); ((try dsimp only); (try (repeat' split)) <;> first
      | exact ⟨rfl, rfl⟩
      | simp [State.modCtx_outer, State.replyS_outer]
      | grind [State.modCtx_outer, State.replyS_outer])

theorem execSyncCreate_outer (h : Pkt) (kind flags : Byte) (ident : W16) (count : W32) (initial : W64)
    (home model : W16) (s : State) (r : State)
    (h : execSyncCreate h kind flags ident count initial home model s = .next r) : r.pins = s.pins ∧ r.pending =
    s.pending := by
  cases h; refine State.host_outer _ _ _ _ _ _ (fun a b => ?_); ((try dsimp only); (try (repeat' split)) <;> first
      | exact ⟨rfl, rfl⟩
      | simp [State.count_outer, State.used_outer, State.replyS_outer]
      | grind [State.count_outer, State.used_outer, State.replyS_outer])

theorem execSyncDestroy_outer (h : Pkt) (kind : Byte) (ident : W16) (s : State) (r : State)
    (h : execSyncDestroy h kind ident s = .next r) : r.pins = s.pins ∧ r.pending = s.pending := by
  cases h; refine State.host_outer _ _ _ _ _ _ (fun a b => ?_); ((try dsimp only); (try (repeat' split)) <;> first
      | exact ⟨rfl, rfl⟩
      | simp [State.replyS_outer]
      | grind [State.replyS_outer])

theorem execSignalAdd_outer (h : Pkt) (ident : W16) (amount : W64) (s : State) (r : State)
    (h : execSignalAdd h ident amount s = .next r) : r.pins = s.pins ∧ r.pending = s.pending := by
  cases h; refine State.host_outer _ _ _ _ _ _ (fun a b => ?_); ((try dsimp only); (try (repeat' split)) <;> first
      | exact ⟨rfl, rfl⟩
      | simp [State.replyS_outer, State.signalAdd_outer]
      | grind [State.replyS_outer, State.signalAdd_outer])

theorem execSignalWait_outer (h : Pkt) (ident : W16) (target : W64) (limitUs : W32) (s : State) (r : State)
    (h : execSignalWait h ident target limitUs s = .next r) : r.pins = s.pins ∧ r.pending = s.pending := by
  cases h; refine State.host_outer _ _ _ _ _ _ (fun a b => ?_); ((try dsimp only); (try (repeat' split)) <;> first
      | exact ⟨rfl, rfl⟩
      | simp [State.count_outer, State.reply_outer, State.replyS_outer]
      | grind [State.count_outer, State.reply_outer, State.replyS_outer])

theorem execSignalWaitLimit_outer (qp : BitVec 12) (cmdId : W32) (s : State) (r : State)
    (h : execSignalWaitLimit qp cmdId s = .next r) : r.pins = s.pins ∧ r.pending = s.pending := by
  (try simp only [execSignalWaitLimit] at h); (try (repeat' split at h)) <;> (injection h with h; rw [← h]; first
      | exact ⟨rfl, rfl⟩
      | exact State.count_outer ..
      | exact State.reply_outer ..
      | simp [State.count_outer, State.reply_outer]
      | grind [State.count_outer, State.reply_outer])

end Sys2Proof.Machine
end

