-- ==== Sys2Proof/Laws/Frames/Models.lean ====
section
/-! SUPPORT. Frames of models: the queue of commands and the pins are outside what they write. -/

set_option linter.unusedSimpArgs false
set_option linter.unusedVariables false
set_option linter.unusedTactic false
set_option linter.unreachableTactic false

namespace Sys2Proof.Machine

theorem State.recordRead_outer (s : State) (pa n : Nat) (ext : Ext) : (State.recordRead s pa n ext).2.pins = s.pins ∧
    (State.recordRead s pa n ext).2.pending = s.pending := by
  unfold State.recordRead; split <;> simp [State.hbmRead_outer, State.physRead_outer, State.host_outer]

theorem State.placeModel_outer (s : State) (id part : Nat) (r : PRec) (as : List Nat) :
    (State.placeModel s id part r as).pins = s.pins ∧ (State.placeModel s id part r as).pending = s.pending := by
  simp [State.placeModel, State.modTile_outer, State.hbmWrite_outer, State.take_outer, foldl_outer]

theorem execModelPlace_outer (h : Pkt) (recPa recLen : W64) (part : Byte) (model : W16) (ext : Ext) (s r : State)
    (e : execModelPlace h recPa recLen part model ext s = .next r) : r.pins = s.pins ∧ r.pending = s.pending := by
  cases e
  refine State.host_from _ _ _ _ _ _ (fun c t ht => ?_)
  repeat' split
  · exact outer_trans ht (State.replyS_outer ..)
  · exact outer_trans ht (State.replyS_outer ..)
  · exact outer_trans ht (State.replyS_outer ..)
  · refine State.orStatus_from _ _ _ (outer_trans ht (State.recordRead_outer ..)) (fun bs u hu => ?_)
    repeat' split
    · exact outer_trans hu (State.replyS_outer ..)
    · exact outer_trans hu (State.replyS_outer ..)
    · exact ⟨rfl, rfl⟩
    · exact outer_trans hu (outer_trans (State.placeModel_outer ..) (State.replyS_outer ..))

theorem State.unmapStores_outer (s : State) (m : Model) : (State.unmapStores s m).pins = s.pins ∧
    (State.unmapStores s m).pending = s.pending := by
  simp [State.unmapStores, State.invalidate_outer, State.rewriteLeaves_outer, foldl_outer]

theorem execModelRemove_outer (h : Pkt) (model : W16) (s r : State)
    (e : execModelRemove h model s = .next r) : r.pins = s.pins ∧ r.pending = s.pending := by
  cases e
  refine State.host_from _ _ _ _ _ _ (fun c t ht => ?_)
  dsimp only
  repeat' split
  · exact outer_trans ht (State.replyS_outer ..)
  · exact outer_trans ht (State.replyS_outer ..)
  · exact ⟨rfl, rfl⟩
  · next x _ _ _ =>
    have h1 := outer_trans ht (outer_trans (State.unmapStores_outer t x)
      (foldl_outer (fun s (b : Nat × Nat × Nat) => s.modTile b.1 (fun t =>
        { t with resid := t.resid.erase b.2.1, reload := t.reload.erase b.2.1, lostGold := t.lostGold.erase b.2.1 }))
        (fun _ _ => State.modTile_outer ..) x.blocks _))
    exact outer_trans h1 (outer_trans (b := { x.blocks.foldl (fun s b => s.modTile b.1 (fun t =>
        { t with resid := t.resid.erase b.2.1, reload := t.reload.erase b.2.1, lostGold := t.lostGold.erase b.2.1 }))
        (t.unmapStores x) with
      models := _, prefixes := _ }) ⟨rfl, rfl⟩ (State.replyS_outer ..))

theorem State.mapStores_outer (s : State) (c m : Nat) (r : State) (h : s.mapStores c m = some r) :
    r.pins = s.pins ∧ r.pending = s.pending := by
  refine foldlM_option_outer _ (fun s x r h => ?_) _ _ _ h
  refine foldlM_option_outer _ (fun s i r h => ?_) _ _ _ h
  split at h
  · cases h; exact ⟨rfl, rfl⟩
  · exact State.mapEntry_outer _ _ _ _ _ _ h

theorem execKernelLoad_outer (h : Pkt) (va len : W64) (ext : Ext) (s r : State)
    (e : execKernelLoad h va len ext s = .next r) : r.pins = s.pins ∧ r.pending = s.pending := by
  cases e
  refine State.host_from _ _ _ _ _ _ (fun c t ht => ?_)
  dsimp only
  repeat' split
  · exact outer_trans ht (State.replyS_outer ..)
  · exact ⟨rfl, rfl⟩
  · exact State.orStatus_from _ _ _ (outer_trans ht (State.stewardRead_outer ..))
      (fun _ u hu => outer_trans hu (outer_trans (State.modCtx_outer ..) (State.replyS_outer ..)))

end Sys2Proof.Machine
end

