-- ==== Sys2Proof/Laws/Frames/Routing.lean ====
section
/-! SUPPORT. Frames of routing and KV library entries: the queue of commands and the pins are outside what they write. -/

set_option linter.unusedSimpArgs false
set_option linter.unusedVariables false
set_option linter.unusedTactic false
set_option linter.unreachableTactic false

namespace Sys2Proof.Machine

theorem State.genDraw_outer (s : State) (c : Nat) (r : Nat × State) (h : s.genDraw c = some r) :
    r.2.pins = s.pins ∧ r.2.pending = s.pending := by
  simp only [State.genDraw] at h
  split at h
  · cases h
  · obtain ⟨v, -, rfl⟩ := Option.map_eq_some_iff.mp h
    exact State.modCtx_outer ..

theorem State.closeWindows_outer (s : State) (p : Window → Bool) (st : Status) : (State.closeWindows s p st).pins =
    s.pins ∧ (State.closeWindows s p st).pending = s.pending := by
  simp [State.closeWindows]

theorem State.openWindow_outer (s : State) (w : Window) : (State.openWindow s w).pins = s.pins ∧
    (State.openWindow s w).pending = s.pending := by
  simp [State.openWindow]

theorem execWindowDeadline_outer (ctx : Byte) (tag : W16) (s : State) (r : State)
    (h : execWindowDeadline ctx tag s = .next r) : r.pins = s.pins ∧ r.pending = s.pending := by
  (try simp only [execWindowDeadline] at h); (try (repeat' split at h)) <;> (injection h with h; rw [← h]; first
      | exact ⟨rfl, rfl⟩
      | exact State.closeWindows_outer ..
      | simp [State.closeWindows_outer]
      | grind [State.closeWindows_outer])

theorem State.retireTag_outer (s : State) (c tag : Nat) : (State.retireTag s c tag).pins = s.pins ∧
    (State.retireTag s c tag).pending = s.pending := by
  simp [State.retireTag, State.modCtx_outer]

theorem State.writeStatus_outer (s : State) (w : Window) : (State.writeStatus s w).pins = s.pins ∧
    (State.writeStatus s w).pending = s.pending := by
  unfold State.writeStatus; (repeat' split) <;> simp [State.count_outer, State.spWrite_outer, State.countRoute_outer]

theorem execWindowCloseComplete_outer (ctx : Byte) (tag : W16) (s : State) (r : State)
    (h : execWindowCloseComplete ctx tag s = .next r) : r.pins = s.pins ∧ r.pending = s.pending := by
  (try simp only [execWindowCloseComplete] at h); (try (repeat' split at h)) <;> (injection h with h; rw [← h]; first
      | exact ⟨rfl, rfl⟩
      | exact State.signalAdd_outer ..
      | exact State.retireTag_outer ..
      | exact State.writeStatus_outer ..
      | simp [State.signalAdd_outer, State.retireTag_outer, State.writeStatus_outer]
      | grind [State.signalAdd_outer, State.retireTag_outer, State.writeStatus_outer])

theorem State.libReturn_outer (s : State) (t code flags : Nat) : (State.libReturn s t code flags).pins = s.pins ∧
    (State.libReturn s t code flags).pending = s.pending := by
  grind [State.libReturn, State.modTile_outer, State.modCore_outer, State.used_outer, State.traceCommit_outer,
      State.except_outer, foldl_outer]

theorem State.libStatus_outer (s : State) (t : Nat) (st : Status) : (State.libStatus s t st).pins = s.pins ∧
    (State.libStatus s t st).pending = s.pending := by
  simp [State.libStatus, State.libReturn_outer]

theorem State.writeResult_outer (s : State) (t g5 gen : Nat) (r : ExpRec) (a : RouteAcc) :
    (State.writeResult s t g5 gen r a).pins = s.pins ∧ (State.writeResult s t g5 gen r a).pending = s.pending := by
  simp [State.writeResult, State.spWrite_outer]

theorem State.allReturn_outer (s : State) (ts : List Nat) (st : Status) : (State.allReturn s ts st).pins = s.pins ∧
    (State.allReturn s ts st).pending = s.pending := by
  simp [State.allReturn, State.libStatus_outer, foldl_outer]

theorem State.putTokens_outer (s : State) (t g3 n : Nat) : (State.putTokens s t g3 n).pins = s.pins ∧
    (State.putTokens s t g3 n).pending = s.pending := by
  grind [State.putTokens, State.spWrite_outer]

theorem State.readTokens_outer (s : State) (ts : List Nat) (g3 n : Nat) :
    (s.readTokens ts g3 n).2.2.pins = s.pins ∧ (s.readTokens ts g3 n).2.2.pending = s.pending :=
  foldl_proj_outer (fun a : List Nat × Bool × State => a.2.2) _ (fun _ _ => State.spRead_outer ..) _ ([], false, s)

theorem State.readRecord_outer (s : State) (ts : List Nat) (u g2 : Nat) :
    (s.readRecord ts u g2).2.2.pins = s.pins ∧ (s.readRecord ts u g2).2.2.pending = s.pending := by
  refine outer_trans (State.spRead_outer s u g2 64) ?_
  exact foldl_proj_outer (fun a : List Byte × List Nat × State => a.2.2)
    (fun (m : List Byte × List Nat × State) t => (m.1, m.2.1,
        (m.2.2.pull t u g2 64).2.2)) (fun _ _ => State.pull_outer ..) _ _

theorem State.routeBarrier_outer (s : State) (c ident : Nat) (ts : List Nat) : (State.routeBarrier s c ident ts).pins
    = s.pins ∧ (State.routeBarrier s c ident ts).pending = s.pending := by
  unfold State.routeBarrier; (repeat' split) <;> simp [State.arriveN_outer]

theorem State.routeWindow_outer (s : State) (t c g5 : Nat) (x : ExpRec) (a : RouteAcc) (r : Nat × State)
    (h : s.routeWindow t c g5 x a = some r) : r.2.pins = s.pins ∧ r.2.pending = s.pending := by
  simp only [State.routeWindow] at h
  split at h
  · cases h
  · obtain ⟨p, hp, rfl⟩ := Option.map_eq_some_iff.mp h
    exact outer_trans (State.genDraw_outer _ _ _ hp) (State.openWindow_outer ..)

theorem State.routeCall_outer (s : State) (ts : List Nat) :
    (s.routeCall ts).pins = s.pins ∧ (s.routeCall ts).pending = s.pending := by
  unfold State.routeCall
  extract_lets t x c g n m k s1
  have h1 : m.2.2.pins = s.pins ∧ m.2.2.pending = s.pending := State.readRecord_outer ..
  have h2 : k.2.2.pins = s.pins ∧ k.2.2.pending = s.pending :=
    outer_trans h1 (outer_trans (foldl_outer (fun (s : State) u => s.putTokens u (g 3) n) (fun _ _ => State.putTokens_outer ..) ts _)
      (State.readTokens_outer ..))
  have h3 : s1.pins = s.pins ∧ s1.pending = s.pending := outer_trans h2 (State.routeBarrier_outer ..)
  clear_value m k s1
  split
  · exact State.allReturn_outer ..
  split
  · exact outer_trans h1 (State.allReturn_outer ..)
  split
  · exact outer_trans h1 (State.allReturn_outer ..)
  split
  · exact outer_trans h1 (State.allReturn_outer ..)
  split
  · exact outer_trans h2 (State.allReturn_outer ..)
  dsimp only
  split
  · exact outer_trans h3 (outer_trans (State.writeResult_outer ..) (State.allReturn_outer ..))
  split
  · exact outer_trans h3 (outer_trans (State.writeResult_outer ..) (State.allReturn_outer ..))
  · next hw =>
    exact outer_trans (outer_trans h3 (State.routeWindow_outer _ _ _ _ _ _ _ hw))
      (outer_trans (State.writeResult_outer ..) (State.allReturn_outer ..))

theorem execRoute_outer (callers : List Byte) (s : State) (r : State) (h : execRoute callers s = .next r) : r.pins =
    s.pins ∧ r.pending = s.pending := by
  (try simp only [execRoute] at h); (try (repeat' split at h)) <;> (injection h with h; rw [← h]; first
      | exact ⟨rfl, rfl⟩
      | exact State.libStatus_outer ..
      | exact State.routeCall_outer ..
      | simp [State.libStatus_outer, State.routeCall_outer, foldl_outer]
      | grind [State.libStatus_outer, State.routeCall_outer, foldl_outer])

theorem State.combineToken_outer (s : State) (t u g3 b winSt : Nat) (r : ExpRec) :
    (s.combineToken t u g3 b winSt r).2.2.2.2.pins = s.pins ∧ (s.combineToken t u g3 b winSt r).2.2.2.2.pending = s.pending := by
  unfold State.combineToken
  extract_lets es kept zero rows w ys
  have h : rows.2.2.pins = s.pins ∧ rows.2.2.pending = s.pending :=
    foldl_proj_outer (fun r : List (List Byte) × Bool × State => r.2.2) _ (fun r g => State.pull_outer ..) _ ([],
        false, s)
  repeat' split
  all_goals first
    | exact ⟨rfl, rfl⟩
    | exact h

theorem State.tokenStatuses_outer (s : State) (t : Nat) (sts : List Nat) :
    (s.tokenStatuses t sts).pins = s.pins ∧ (s.tokenStatuses t sts).pending = s.pending := by
  have hk : ∀ (s : State) (n : Nat) (o : Option Nat), (match o with
      | some c => s.modWork n (fun w => { w with tokSt := some (w.tokSt.getD ((Status.ofCode c).getD .cancelled)) })
      | none => s).pins = s.pins ∧ (match o with
      | some c => s.modWork n (fun w => { w with tokSt := some (w.tokSt.getD ((Status.ofCode c).getD .cancelled)) })
      | none => s).pending = s.pending := by
    intro s n o
    cases o
    · exact ⟨rfl, rfl⟩
    · exact State.modWork_outer ..
  unfold State.tokenStatuses
  dsimp only
  split
  · exact hk _ _ _
  · split
    · exact foldl_proj_outer (fun a : List Nat × State => a.2) _ (fun _ _ => hk _ _ _) _ (sts, s)
    · exact ⟨rfl, rfl⟩

theorem State.combineCall_outer (s : State) (t : Nat) :
    (s.combineCall t).pins = s.pins ∧ (s.combineCall t).pending = s.pending := by
  unfold State.combineCall
  extract_lets g u n m x y k win
  have h1 : m.2.2.pins = s.pins ∧ m.2.2.pending = s.pending := State.pull_outer ..
  have h2 : k.2.2.pins = s.pins ∧ k.2.2.pending = s.pending := outer_trans h1 (State.pull_outer ..)
  clear_value m k
  split
  · exact State.libStatus_outer ..
  split
  · exact outer_trans h1 (State.libStatus_outer ..)
  split
  · exact outer_trans h1 (State.libStatus_outer ..)
  split
  · exact outer_trans h1 (State.libStatus_outer ..)
  split
  · exact outer_trans h2 (State.libStatus_outer ..)
  · refine outer_trans (outer_trans h2 ?_) (outer_trans (State.tokenStatuses_outer ..) (State.libReturn_outer ..))
    exact foldl_proj_outer (fun r : List Nat × Nat × State => r.2.2) _ (fun a b => outer_trans (State.combineToken_outer ..)
      (outer_trans (State.spWrite_outer ..) (State.spWrite_outer ..))) _ ([], 0, k.2.2)

theorem execCombine_outer (t : Byte) (s : State) (r : State) (h : execCombine t s = .next r) : r.pins = s.pins ∧
    r.pending = s.pending := by
  (try simp only [execCombine] at h); (try (repeat' split at h)) <;> (injection h with h; rw [← h]; first
      | exact ⟨rfl, rfl⟩
      | exact State.libStatus_outer ..
      | exact State.combineCall_outer ..
      | simp [State.libStatus_outer, State.combineCall_outer]
      | grind [State.libStatus_outer, State.combineCall_outer])

theorem execAbandon_outer (t : Byte) (s : State) (r : State) (h : execAbandon t s = .next r) : r.pins = s.pins ∧
    r.pending = s.pending := by
  (try simp only [execAbandon] at h); (try (repeat' split at h)) <;> (injection h with h; rw [← h]; first
      | exact ⟨rfl, rfl⟩
      | exact State.libStatus_outer ..
      | simp [State.libStatus_outer]
      | grind [State.libStatus_outer])

theorem State.writeKvBit_outer (s : State) (pa key : Nat) (poison : Bool) (e : Nat × Nat × Bool) :
    (State.writeKvBit s pa key poison e).pins = s.pins ∧ (State.writeKvBit s pa key poison e).pending = s.pending :=
    by
  simp [State.writeKvBit, State.hbmRead_outer, State.hbmWrite_outer]

theorem State.writeKvHead_outer (s : State) (t pa key p h q : Nat) (a : Attn) (kOff vOff : Nat) :
    (State.writeKvHead s t pa key p h q a kOff vOff).1.pins = s.pins ∧
    (State.writeKvHead s t pa key p h q a kOff vOff).1.pending = s.pending := by
  simp [State.writeKvHead, State.spRead_outer, State.hbmWrite_outer, State.countWrite_outer, State.writeKvBit_outer,
      foldl_outer]

theorem State.appendF_outer (n : Nat) (s : State) (t : Nat) (g : Nat → Nat) (a : Attn) (done flags : Nat) (bad : Bool) :
    (s.appendF t g a done flags bad n).2.2.pins = s.pins ∧ (s.appendF t g a done flags bad n).2.2.pending = s.pending := by
  induction n generalizing s done flags bad with
  | zero => exact ⟨rfl, rfl⟩
  | succ n ih =>
    unfold State.appendF
    extract_lets pos c slot va s1 key
    have h1 : s1.pins = s.pins ∧ s1.pending = s.pending := by
      simp only [s1]
      split
      · exact getD_outer _ _ (fun _ h => State.runIn_outer _ _ _ _ _ h)
      · exact ⟨rfl, rfl⟩
    split
    · exact h1
    · exact h1
    · split
      · exact h1
      · extract_lets r
        have h2 : r.1.pins = s1.pins ∧ r.1.pending = s1.pending :=
          foldl_proj_outer (fun r : State × Nat × Bool => r.1) _ (fun r h => by exact State.writeKvHead_outer ..) _ (s1, flags, bad)
        exact outer_trans (outer_trans h1 h2) (ih ..)

theorem State.appendCall_outer (s : State) (t : Nat) :
    (s.appendCall t).pins = s.pins ∧ (s.appendCall t).pending = s.pending := by
  simp only [State.appendCall]
  repeat' split
  all_goals first
    | with_reducible exact State.libStatus_outer ..
    | exact outer_trans (State.appendF_outer ..) (State.libReturn_outer ..)

theorem execKvAppend_outer (t : Byte) (s : State) (r : State) (h : execKvAppend t s = .next r) : r.pins = s.pins ∧
    r.pending = s.pending := by
  (try simp only [execKvAppend] at h); (try (repeat' split at h)) <;> (injection h with h; rw [← h]; first
      | exact ⟨rfl, rfl⟩
      | exact State.appendCall_outer ..
      | simp [State.appendCall_outer]
      | grind [State.appendCall_outer])

theorem State.recvOpen_outer (s : State) (t : Nat) : (State.recvOpen s t).pins = s.pins ∧ (State.recvOpen s t).pending
    = s.pending := by
  grind [State.recvOpen, State.count_outer, State.openWindow_outer, State.libStatus_outer]

theorem execKvRecvOpen_outer (t : Byte) (s : State) (r : State) (h : execKvRecvOpen t s = .next r) : r.pins = s.pins ∧
    r.pending = s.pending := by
  (try simp only [execKvRecvOpen] at h); (try (repeat' split at h)) <;> (injection h with h; rw [← h]; first
      | exact ⟨rfl, rfl⟩
      | exact State.recvOpen_outer ..
      | simp [State.recvOpen_outer]
      | grind [State.recvOpen_outer])

end Sys2Proof.Machine
end

