-- ==== Sys2Proof/Laws/Frames/Slots.lean ====
section
/-! SUPPORT. Frames of sequence slots: the queue of commands and the pins are outside what they write. -/

set_option linter.unusedSimpArgs false
set_option linter.unusedVariables false
set_option linter.unusedTactic false
set_option linter.unreachableTactic false

namespace Sys2Proof.Machine

theorem State.addWork_outer (s : State) (w : Work) : (State.addWork s w).pins = s.pins ∧ (State.addWork s w).pending =
    s.pending := by
  simp [State.addWork]

theorem State.answerWork_outer (s : State) (n : Nat) (st : Status) (r0 r1 : Nat) :
    (State.answerWork s n st r0 r1).pins = s.pins ∧ (State.answerWork s n st r0 r1).pending = s.pending := by
  unfold State.answerWork; split <;> simp [State.replyLate_outer]

theorem State.cancelWork_outer (s : State) (n : Nat) : (State.cancelWork s n).pins = s.pins ∧
    (State.cancelWork s n).pending = s.pending := by
  unfold State.cancelWork; split <;> simp [State.modWork_outer, State.cancelTile_outer, foldl_outer]

theorem State.onToken_outer (s : State) (c epoch : Nat) (commit : Bool) : (State.onToken s c epoch commit).pins =
    s.pins ∧ (State.onToken s c epoch commit).pending = s.pending := by
  unfold State.onToken; split <;> simp [State.commit_outer, State.closeWindows_outer, State.cancelWork_outer,
      foldl_outer]

theorem State.decideEpoch_outer (s : State) (slot : Nat) (commit : Bool) (j : Nat) :
    (State.decideEpoch s slot commit j).pins = s.pins ∧ (State.decideEpoch s slot commit j).pending = s.pending := by
  grind [State.decideEpoch, State.modSeq_outer, State.send_outer, State.commit_outer, State.onToken_outer,
      foldl_outer]

theorem State.releaseHeld_outer (s : State) (slot : Nat) (perform : Bool) : (State.releaseHeld s slot perform).pins =
    s.pins ∧ (State.releaseHeld s slot perform).pending = s.pending := by
  grind [State.releaseHeld, State.signalAdd_outer, State.arriveN_outer, foldl_outer]

theorem State.applyEpoch_outer (s : State) (slot : Nat) : (State.applyEpoch s slot).pins = s.pins ∧
    (State.applyEpoch s slot).pending = s.pending := by
  grind [State.applyEpoch, State.modSeq_outer, State.modWork_outer, State.send_outer, State.trimRuns_outer,
      State.commit_outer, State.closeWindows_outer, State.releaseHeld_outer]

theorem execEpochResolve_outer (slot : BitVec 10) (s : State) (r : State) (h : execEpochResolve slot s = .next r) :
    r.pins = s.pins ∧ r.pending = s.pending := by
  (try simp only [execEpochResolve] at h); (try (repeat' split at h)) <;> (injection h with h; rw [← h]; first
      | exact ⟨rfl, rfl⟩
      | exact State.modWork_outer ..
      | exact State.answer_outer ..
      | exact State.decideEpoch_outer ..
      | simp [State.modWork_outer, State.answer_outer, State.decideEpoch_outer]
      | grind [State.modWork_outer, State.answer_outer, State.decideEpoch_outer])

theorem execEpochToken_outer (m : MgmtHdr) (ctx : Byte) (epoch : W16) (commit : Bool) (count : BitVec 7) (s : State)
    (r : State) (h : execEpochToken m ctx epoch commit count s = .next r) : r.pins = s.pins ∧ r.pending = s.pending :=
    by
  (try simp only [execEpochToken] at h); (try (repeat' split at h)) <;> (injection h with h; rw [← h]; first
      | exact ⟨rfl, rfl⟩
      | exact State.modSeq_outer ..
      | exact State.count_outer ..
      | exact State.send_outer ..
      | exact State.mgmtDrop_outer ..
      | exact State.commit_outer ..
      | exact State.closeWindows_outer ..
      | exact State.onToken_outer ..
      | simp [State.modSeq_outer, State.count_outer, State.send_outer, State.mgmtDrop_outer, State.commit_outer,
        State.closeWindows_outer, State.onToken_outer]
      | grind [State.modSeq_outer, State.count_outer, State.send_outer, State.mgmtDrop_outer, State.commit_outer,
        State.closeWindows_outer, State.onToken_outer])

theorem execEpochTokenApply_outer (slot : BitVec 10) (s : State) (r : State)
    (h : execEpochTokenApply slot s = .next r) : r.pins = s.pins ∧ r.pending = s.pending := by
  (try simp only [execEpochTokenApply] at h); (try (repeat' split at h)) <;> (injection h with h; rw [← h]; first
      | exact ⟨rfl, rfl⟩
      | exact State.applyEpoch_outer ..
      | simp [State.applyEpoch_outer]
      | grind [State.applyEpoch_outer])

theorem execEpochTokenAcknowledgement_outer (m : MgmtHdr) (slot : BitVec 10) (s : State) (r : State)
    (h : execEpochTokenAcknowledgement m slot s = .next r) : r.pins = s.pins ∧ r.pending = s.pending := by
  (try simp only [execEpochTokenAcknowledgement] at h); (try (repeat' split at h)) <;> (injection h with h; rw [← h]; first
      | exact ⟨rfl, rfl⟩
      | exact State.modSeq_outer ..
      | exact State.mgmtDrop_outer ..
      | simp [State.modSeq_outer, State.mgmtDrop_outer]
      | grind [State.modSeq_outer, State.mgmtDrop_outer])

theorem execEpochAckTimeout_outer (slot : BitVec 10) (s : State) (r : State)
    (h : execEpochAckTimeout slot s = .next r) : r.pins = s.pins ∧ r.pending = s.pending := by
  (try simp only [execEpochAckTimeout] at h); (try (repeat' split at h)) <;> (injection h with h; rw [← h]; first
      | exact ⟨rfl, rfl⟩
      | exact State.modSeq_outer ..
      | exact State.modWork_outer ..
      | exact State.answer_outer ..
      | simp [State.modSeq_outer, State.modWork_outer, State.answer_outer]
      | grind [State.modSeq_outer, State.modWork_outer, State.answer_outer])

theorem State.saveLayer_outer (s : State) (slot len : Nat) (rs : NMap Run) (a : Attn) (r : NMap Run × State)
    (h : s.saveLayer slot len rs a = some r) : r.2.pins = s.pins ∧ r.2.pending = s.pending := by
  unfold State.saveLayer at h
  extract_lets q whole share s1 rs1 k at h
  have h1 : s1.pins = s.pins ∧ s1.pending = s.pending := State.modSeq_outer ..
  split at h
  · cases h; exact h1
  · split at h
    · obtain ⟨b, -, rfl⟩ := Option.map_eq_some_iff.mp h
      exact outer_trans h1 (outer_trans (State.hbmWrite_outer ..) (State.copyRun_outer ..))
    · cases h; exact h1

theorem State.savePrefix_outer (s : State) (slot len handle : Nat) (r : State)
    (h : s.savePrefix slot len handle = .ok r) : r.pins = s.pins ∧ r.pending = s.pending := by
  unfold State.savePrefix at h
  extract_lets q part ls need s1 at h
  have h1 : s1.pins = s.pins ∧ s1.pending = s.pending := State.evictFor_outer ..
  split at h
  · cases h
  · split at h
    · cases h
    · split at h
      · cases h
      · split at h
        · cases h
        · next hm =>
          cases h
          have h2 := foldlM_option_proj_outer (fun r : NMap Run × State => r.2) _
            (fun _ _ _ h => State.saveLayer_outer _ _ _ _ _ _ h) _ _ _ hm
          exact outer_trans (outer_trans h1 h2) (State.invalidateKv_outer _ q.ctx slot)

theorem State.beginStep_outer (s : State) (n : Nat) (w : Work) :
    (s.beginStep n w).pins = s.pins ∧ (s.beginStep n w).pending = s.pending := by
  unfold State.beginStep
  extract_lets q new
  split
  · exact State.answerWork_outer ..
  · split
    · exact State.answerWork_outer ..
    · next s1 h1 =>
      have k1 : s1.pins = s.pins ∧ s1.pending = s.pending := by
        split at h1
        · exact State.copyPartial_outer _ _ _ h1
        · cases h1; exact ⟨rfl, rfl⟩
      split
      · exact State.answerWork_outer ..
      · next e s2 h2 =>
        have k2 : s2.pins = s.pins ∧ s2.pending = s.pending := by
          split at h2
          · cases h2; exact k1
          · exact outer_trans k1 (State.genDraw_outer _ _ _ h2)
        split
        · exact State.answerWork_outer ..
        · next s3 h3 =>
          exact outer_trans (outer_trans (outer_trans k2 (State.modSeq_outer ..)) (State.growTo_outer _ _ _ _ h3))
            (outer_trans (State.modSeq_outer ..) (State.modWork_outer ..))

theorem State.advanceSlot_outer (slot k : Nat) (s : State) :
    (State.advanceSlot slot k s).pins = s.pins ∧ (State.advanceSlot slot k s).pending = s.pending := by
  induction k generalizing s with
  | zero => exact ⟨rfl, rfl⟩
  | succ k ih =>
    have done : ∀ n st, (State.advanceSlot slot k (s.answerWork n st 0 0)).pins = s.pins ∧
        (State.advanceSlot slot k (s.answerWork n st 0 0)).pending = s.pending :=
      fun n st => outer_trans (State.answerWork_outer s n st 0 0) (ih _)
    unfold State.advanceSlot
    extract_lets q
    split
    · exact ⟨rfl, rfl⟩
    · split
      · exact ⟨rfl, rfl⟩
      · next n w _ =>
        split
        · exact done _ _
        · split
          · exact outer_trans (outer_trans (State.freeSlot_outer s slot) (State.answerWork_outer _ n .ok 0 0)) (ih _)
          · split
            · exact done _ _
            · split
              · exact ⟨rfl, rfl⟩
              · split
                · next s1 hs =>
                  exact outer_trans (outer_trans (State.savePrefix_outer _ _ _ _ _ hs) (State.answerWork_outer s1 n .ok 0 0)) (ih _)
                · exact done _ _
          · split
            · exact done _ _
            · split
              · exact done _ _
              · split
                · exact ⟨rfl, rfl⟩
                · exact outer_trans (State.beginStep_outer s n w) (ih _)

theorem State.advanceAll_outer (s : State) : s.advanceAll.pins = s.pins ∧ s.advanceAll.pending = s.pending :=
  foldl_outer _ (fun _ _ => State.advanceSlot_outer ..) _ _

theorem State.preemptFor_outer (s : State) (part cls need n : Nat) (r : State)
    (h : s.preemptFor part cls need n = some r) : r.pins = s.pins ∧ r.pending = s.pending := by
  induction n generalizing s with
  | zero =>
    simp only [State.preemptFor] at h
    split at h
    · cases h; exact ⟨rfl, rfl⟩
    · cases h
  | succ n ih =>
    simp only [State.preemptFor] at h
    repeat' split at h
    · cases h; exact ⟨rfl, rfl⟩
    · cases h
    · exact outer_trans (State.modSeq_outer ..) (ih _ h)

theorem execSeqOpen_outer (h : Pkt) (model variant : W16) (maxLen : W32) (cls nAds : Byte) (ads : List W16) (target : W32)
    (pfx : W64) (adm : Admission) (s r : State)
    (e : execSeqOpen h model variant maxLen cls nAds ads target pfx adm s = .next r) :
    r.pins = s.pins ∧ r.pending = s.pending := by
  cases e
  refine State.host_outer _ _ _ _ _ _ (fun c s => ?_)
  extract_lets part p p' as touch
  split
  · exact State.replyS_outer ..
  · split
    · exact State.replyS_outer ..
    · next n _ =>
      split
      · exact State.replyS_outer ..
      · extract_lets q need s0 s1 s2
        split
        · exact State.replyS_outer ..
        · have h2 : s2.pins = s.pins ∧ s2.pending = s.pending :=
            outer_trans (b := s1) (State.modSeq_outer s n (fun _ => { q with maxLen := 40 * q.inh })) (State.evictFor_outer ..)
          split
          · exact State.reply_outer ..
          · next s3 h3 =>
            have k3 : s3.pins = s.pins ∧ s3.pending = s.pending := by
              split at h3
              · exact outer_trans h2 (State.preemptFor_outer _ _ _ _ _ _ h3)
              · cases h3
            split
            · exact State.replyS_outer ..
            · next s4 h4 =>
              have k4 : s4.pins = s.pins ∧ s4.pending = s.pending :=
                outer_trans (outer_trans k3 (State.modSeq_outer ..)) (State.mapStores_outer _ _ _ _ h4)
              refine outer_trans (outer_trans k4 ?_) (State.reply_outer ..)
              split
              · exact ⟨rfl, rfl⟩
              · refine getD_outer _ _ (fun r hr => ?_)
                obtain ⟨x, hx, rfl⟩ := Option.map_eq_some_iff.mp hr
                exact outer_trans (State.copyPartial_outer _ _ _ hx) (State.modSeq_outer ..)

theorem execSeqStep_outer (h : Pkt) (handle : W32) (posM1 drafts : BitVec 6) (tokVa outVa argVa : W64) (plan : List Byte)
    (ext : Ext) (s r : State) (e : execSeqStep h handle posM1 drafts tokVa outVa argVa plan ext s = .next r) :
    r.pins = s.pins ∧ r.pending = s.pending := by
  cases e
  refine State.host_from _ _ _ _ _ _ (fun c t ht => ?_)
  have hr := fun st => outer_trans ht (State.replyS_outer t h st)
  dsimp only
  repeat' split
  all_goals first
    | exact hr _
    | exact ⟨rfl, rfl⟩
    | exact State.orStatus_from _ _ _ (outer_trans ht (State.stewardRead_outer ..))
        (fun _ u hu => outer_trans hu (outer_trans (State.addWork_outer ..) (State.advanceAll_outer ..)))

theorem execSeqQuery_outer (h : Pkt) (handle : W32) (s : State) (r : State) (h : execSeqQuery h handle s = .next r) :
    r.pins = s.pins ∧ r.pending = s.pending := by
  cases h; refine State.host_outer _ _ _ _ _ _ (fun a b => ?_); ((try dsimp only); (try (repeat' split)) <;> first
      | exact ⟨rfl, rfl⟩
      | simp [State.reply_outer, State.replyS_outer]
      | grind [State.reply_outer, State.replyS_outer])

theorem execSeqCancelEpoch_outer (h : Pkt) (handle : W32) (s : State) (r : State)
    (h : execSeqCancelEpoch h handle s = .next r) : r.pins = s.pins ∧ r.pending = s.pending := by
  cases h; refine State.host_outer _ _ _ _ _ _ (fun a b => ?_); ((try dsimp only); (try (repeat' split)) <;> first
      | exact ⟨rfl, rfl⟩
      | simp [State.replyS_outer, State.addWork_outer, State.decideEpoch_outer]
      | grind [State.replyS_outer, State.addWork_outer, State.decideEpoch_outer])

theorem State.cancelQueued_outer (s : State) (slot : Nat) : (State.cancelQueued s slot).pins = s.pins ∧
    (State.cancelQueued s slot).pending = s.pending := by
  simp [State.cancelQueued, State.answerWork_outer, foldl_outer]

theorem execSeqCancelSequence_outer (h : Pkt) (handle : W32) (s : State) (r : State)
    (h : execSeqCancelSequence h handle s = .next r) : r.pins = s.pins ∧ r.pending = s.pending := by
  cases h; refine State.host_outer _ _ _ _ _ _ (fun a b => ?_); ((try dsimp only); (try (repeat' split)) <;> first
      | exact ⟨rfl, rfl⟩
      | simp [State.replyS_outer, State.freeSlot_outer, State.addWork_outer, State.cancelWork_outer,
        State.decideEpoch_outer, State.advanceAll_outer, State.cancelQueued_outer]
      | grind [State.replyS_outer, State.freeSlot_outer, State.addWork_outer, State.cancelWork_outer,
        State.decideEpoch_outer, State.advanceAll_outer, State.cancelQueued_outer])

theorem execSeqClose_outer (h : Pkt) (handle : W32) (s : State) (r : State) (h : execSeqClose h handle s = .next r) :
    r.pins = s.pins ∧ r.pending = s.pending := by
  cases h; refine State.host_outer _ _ _ _ _ _ (fun a b => ?_); ((try dsimp only); (try (repeat' split)) <;> first
      | exact ⟨rfl, rfl⟩
      | simp [State.replyS_outer, State.addWork_outer, State.advanceAll_outer]
      | grind [State.replyS_outer, State.addWork_outer, State.advanceAll_outer])

theorem execPrefixSave_outer (h : Pkt) (handle len : W32) (pfx : W64) (s : State) (r : State)
    (h : execPrefixSave h handle len pfx s = .next r) : r.pins = s.pins ∧ r.pending = s.pending := by
  cases h; refine State.host_outer _ _ _ _ _ _ (fun a b => ?_); ((try dsimp only); (try (repeat' split)) <;> first
      | exact ⟨rfl, rfl⟩
      | simp [State.replyS_outer, State.addWork_outer, State.advanceAll_outer]
      | grind [State.replyS_outer, State.addWork_outer, State.advanceAll_outer])

theorem execPrefixRemove_outer (h : Pkt) (pfx : W64) (s : State) (r : State) (h : execPrefixRemove h pfx s = .next r)
    : r.pins = s.pins ∧ r.pending = s.pending := by
  cases h; refine State.host_outer _ _ _ _ _ _ (fun a b => ?_); ((try dsimp only); (try (repeat' split)) <;> first
      | exact ⟨rfl, rfl⟩
      | simp [State.replyS_outer]
      | grind [State.replyS_outer])

theorem State.swapRuns_outer (s : State) (slot dst : Nat) :
    (s.swapRuns slot dst).pins = s.pins ∧ (s.swapRuns slot dst).pending = s.pending := by
  refine foldl_proj_outer (fun r : Nat × State => r.2) _ (fun r e => ?_) _ (dst, s)
  dsimp only
  split
  · exact ⟨rfl, rfl⟩
  · exact outer_trans (State.swapTo_outer ..) (State.modSeq_outer ..)

theorem execSlotPreempt_outer (slot : BitVec 10) (s : State) (r : State) (h : execSlotPreempt slot s = .next r) :
    r.pins = s.pins ∧ r.pending = s.pending := by
  (try simp only [execSlotPreempt] at h); (try (repeat' split at h)) <;> (injection h with h; rw [← h]; first
      | exact ⟨rfl, rfl⟩
      | exact State.modSeq_outer ..
      | exact State.invalidateKv_outer ..
      | exact State.advanceAll_outer ..
      | exact State.swapRuns_outer ..
      | simp [State.modSeq_outer, State.invalidateKv_outer, State.advanceAll_outer, State.swapRuns_outer]
      | grind [State.modSeq_outer, State.invalidateKv_outer, State.advanceAll_outer, State.swapRuns_outer])

theorem execSlotResume_outer (slot : BitVec 10) (tagsOk : Bool) (s r : State)
    (h : execSlotResume slot tagsOk s = .next r) : r.pins = s.pins ∧ r.pending = s.pending := by
  simp only [execSlotResume] at h
  repeat' split at h
  all_goals cases h
  all_goals first
    | exact ⟨rfl, rfl⟩
    | (next hm =>
       exact outer_trans (foldlM_option_outer _ (fun _ _ _ h => State.runIn_outer _ _ _ _ _ h) _ _ _ hm)
         (outer_trans (State.modSeq_outer ..) (State.advanceAll_outer ..)))

end Sys2Proof.Machine
end

