-- ==== Sys2Proof/Laws/Frames/Serving.lean ====
section
/-! SUPPORT. Frames of work commands: the queue of commands and the pins are outside what they write. -/

set_option linter.unusedSimpArgs false
set_option linter.unusedVariables false
set_option linter.unusedTactic false
set_option linter.unreachableTactic false

namespace Sys2Proof.Machine

theorem execFrameSubmit_outer (h : Pkt) (model : W16) (cls : Byte) (runLate : Bool) (frame : W32)
    (deadline inVa outVa argVa predicted : W64) (plan : List Byte) (s r : State)
    (e : execFrameSubmit h model cls runLate frame deadline inVa outVa argVa predicted plan s = .next r) :
    r.pins = s.pins ∧ r.pending = s.pending := by
  cases e
  refine State.host_outer _ _ _ _ _ _ (fun c s => ?_)
  dsimp only
  repeat' split
  all_goals first
    | exact State.replyS_outer ..
    | (next hm => exact outer_trans (State.mapStores_outer _ _ _ _ hm) (State.addWork_outer ..))

theorem execFrameStart_outer (work : Nat) (s : State) (r : State) (h : execFrameStart work s = .next r) : r.pins =
    s.pins ∧ r.pending = s.pending := by
  (try simp only [execFrameStart] at h); (try (repeat' split at h)) <;> (injection h with h; rw [← h]; first
      | exact ⟨rfl, rfl⟩
      | exact State.modWork_outer ..
      | simp [State.modWork_outer]
      | grind [State.modWork_outer])

theorem execFrameDeadline_outer (work : Nat) (s : State) (r : State) (h : execFrameDeadline work s = .next r) : r.pins
    = s.pins ∧ r.pending = s.pending := by
  (try simp only [execFrameDeadline] at h); (try (repeat' split at h)) <;> (injection h with h; rw [← h]; first
      | exact ⟨rfl, rfl⟩
      | exact State.modWork_outer ..
      | exact State.answer_outer ..
      | exact State.cancelWork_outer ..
      | simp [State.modWork_outer, State.answer_outer, State.cancelWork_outer]
      | grind [State.modWork_outer, State.answer_outer, State.cancelWork_outer])

theorem execFrameCancel_outer (h : Pkt) (frame : W32) (s : State) (r : State)
    (h : execFrameCancel h frame s = .next r) : r.pins = s.pins ∧ r.pending = s.pending := by
  cases h; refine State.host_outer _ _ _ _ _ _ (fun a b => ?_); ((try dsimp only); (try (repeat' split)) <;> first
      | exact ⟨rfl, rfl⟩
      | simp [State.modWork_outer, State.replyS_outer, State.answer_outer, State.answerWork_outer,
        State.cancelWork_outer]
      | grind [State.modWork_outer, State.replyS_outer, State.answer_outer, State.answerWork_outer,
        State.cancelWork_outer])

theorem execKernelLaunch_outer (h : Pkt) (glens tiles : W16) (entry : W32) (argsVa resVa : W64) (ext : Ext) (s r : State)
    (e : execKernelLaunch h glens tiles entry argsVa resVa ext s = .next r) : r.pins = s.pins ∧ r.pending = s.pending := by
  cases e
  refine State.host_from _ _ _ _ _ _ (fun c t ht => ?_)
  have hr := fun st => outer_trans ht (State.replyS_outer t h st)
  dsimp only
  split
  · exact hr _
  split
  · exact hr _
  split
  · exact hr _
  split
  · exact hr _
  split
  · exact ⟨rfl, rfl⟩
  · refine State.orStatus_from _ _ _ (outer_trans ht (State.stewardRead_outer ..)) (fun bs u hu => ?_)
    split
    · exact outer_trans hu (State.replyS_outer ..)
    · exact outer_trans hu (State.addWork_outer ..)

theorem State.bindTile_outer (s : State) (t c : Nat) : (State.bindTile s t c).pins = s.pins ∧
    (State.bindTile s t c).pending = s.pending := by
  grind [State.bindTile, State.modTile_outer, State.modCtx_outer]

theorem execWorkItemStart_outer (work : Nat) (tile : Byte) (s : State) (r : State)
    (h : execWorkItemStart work tile s = .next r) : r.pins = s.pins ∧ r.pending = s.pending := by
  (try simp only [execWorkItemStart] at h); (try (repeat' split at h)) <;> (injection h with h; rw [← h]; first
      | exact ⟨rfl, rfl⟩
      | exact State.modCore_outer ..
      | exact State.modWork_outer ..
      | exact State.traceSync_outer ..
      | exact State.bindTile_outer ..
      | simp [State.modCore_outer, State.modWork_outer, State.traceSync_outer, State.bindTile_outer]
      | grind [State.modCore_outer, State.modWork_outer, State.traceSync_outer, State.bindTile_outer])

theorem State.endStep_outer (s : State) (w : Work) (st : Status) : (State.endStep s w st).pins = s.pins ∧
    (State.endStep s w st).pending = s.pending := by
  simp [State.endStep, State.modSeq_outer]

theorem State.endCancels_outer (s : State) (slot : Nat) : (State.endCancels s slot).pins = s.pins ∧
    (State.endCancels s slot).pending = s.pending := by
  grind [State.endCancels, State.freeSlot_outer, State.answerWork_outer, foldl_outer]

theorem State.writeResults_outer (s : State) (w : Work) : (State.writeResults s w).2.pins = s.pins ∧
    (State.writeResults s w).2.pending = s.pending := by
  simp [State.writeResults, State.stewardWrite_outer]

theorem execWorkCommandComplete_outer (work : Nat) (s : State) (r : State)
    (h : execWorkCommandComplete work s = .next r) : r.pins = s.pins ∧ r.pending = s.pending := by
  grind [execWorkCommandComplete, State.answerWork_outer, State.advanceAll_outer, State.endStep_outer,
      State.endCancels_outer, State.writeResults_outer]

theorem State.restoreRng_outer (s : State) (sv : NMap Nat) : (State.restoreRng s sv).pins = s.pins ∧
    (State.restoreRng s sv).pending = s.pending := by
  simp [State.restoreRng, foldl_outer]

theorem execRequestRerun_outer (work : Nat) (s : State) (r : State) (h : execRequestRerun work s = .next r) : r.pins =
    s.pins ∧ r.pending = s.pending := by
  (try simp only [execRequestRerun] at h); (try (repeat' split at h)) <;> (injection h with h; rw [← h]; first
      | exact ⟨rfl, rfl⟩
      | exact State.modWork_outer ..
      | exact State.raise_outer ..
      | exact State.answer_outer ..
      | exact State.advanceAll_outer ..
      | exact State.endStep_outer ..
      | exact State.restoreRng_outer ..
      | simp [State.modWork_outer, State.raise_outer, State.answer_outer, State.advanceAll_outer, State.endStep_outer,
        State.restoreRng_outer]
      | grind [State.modWork_outer, State.raise_outer, State.answer_outer, State.advanceAll_outer,
        State.endStep_outer, State.restoreRng_outer])

end Sys2Proof.Machine
end

