-- ==== Sys2Proof/Laws/Frames/Scrub.lean ====
section
/-! SUPPORT. Frames of scrub rows: the queue of commands and the pins are outside what they write. -/

set_option linter.unusedSimpArgs false
set_option linter.unusedVariables false
set_option linter.unusedTactic false
set_option linter.unreachableTactic false

namespace Sys2Proof.Machine

theorem execRemotePortRequest_outer (t : Byte) (write : Bool) (off : BitVec 25) (data : List Byte) (gen : Byte)
    (upsets : List Upset) (s r : State) (h : execRemotePortRequest t write off data gen upsets s = .next r) :
    r.pins = s.pins ∧ r.pending = s.pending := by
  unfold execRemotePortRequest at h
  extract_lets t' a s1 w q at h
  have h1 : s1.pins = s.pins ∧ s1.pending = s.pending := outer_trans (State.modTile_outer ..) (State.count_outer ..)
  have h2 : q.2.2.pins = s.pins ∧ q.2.2.pending = s.pending := outer_trans h1 (State.spRead_outer ..)
  split at h
  · exact outer_of_next h ⟨rfl, rfl⟩
  · split at h
    · exact outer_of_next h ⟨rfl, rfl⟩
    · split at h
      · injection h with h; rw [← h]; exact outer_trans h1 (State.spWrite_outer _ _ _ _ false)
      · injection h with h; rw [← h]; exact h2

theorem State.scrubWord_outer (s : State) (t k : Nat) : (State.scrubWord s t k).pins = s.pins ∧
    (State.scrubWord s t k).pending = s.pending := by
  unfold State.scrubWord; (repeat' split) <;> simp [State.modCore_outer, State.raise_outer]

theorem State.scrubCells_outer (s : State) (t : Nat) (cs : List Nat) : (State.scrubCells s t cs).pins = s.pins ∧
    (State.scrubCells s t cs).pending = s.pending := by
  simp [State.scrubCells, State.afterRead_outer, foldl_outer]

theorem execScrubAccess_outer (t : Byte) (istore : Bool) (row : W16) (upsets : List Upset) (s r : State)
    (h : execScrubAccess t istore row upsets s = .next r) : r.pins = s.pins ∧ r.pending = s.pending := by
  unfold execScrubAccess at h
  extract_lets t' n s1 s2 at h
  have h1 : s1.pins = s.pins ∧ s1.pending = s.pending := State.modCore_outer ..
  have h2 : s2.pins = s.pins ∧ s2.pending = s.pending := State.modTile_outer ..
  split at h
  · exact outer_of_next h ⟨rfl, rfl⟩
  · split at h
    · injection h with h; rw [← h]
      split
      · exact outer_trans h1 (State.scrubWord_outer s1 t' n)
      · exact h1
    · injection h with h; rw [← h]
      split
      · exact outer_trans h2 (State.scrubCells_outer s2 t' _)
      · exact h2

theorem State.passCells_outer (s : State) (t : Nat) (p : Nat → Bool) : (State.passCells s t p).pins = s.pins ∧
    (State.passCells s t p).pending = s.pending := by
  simp [State.passCells, State.scrubCells_outer]

theorem State.strikeAll_outer (s : State) (us : List (Nat × Upset)) : (State.strikeAll s us).pins = s.pins ∧
    (State.strikeAll s us).pending = s.pending := by
  simp [State.strikeAll, State.modTile_outer, foldl_outer]

theorem execQuadReturnScrubPass_outer (q : BitVec 6) (upsets : List (Nat × Upset)) (s r : State)
    (h : execQuadReturnScrubPass q upsets s = .next r) : r.pins = s.pins ∧ r.pending = s.pending := by
  unfold execQuadReturnScrubPass at h
  extract_lets q' s1 s2 v at h
  have h1 : s1.pins = s.pins ∧ s1.pending = s.pending := State.strikeAll_outer ..
  have h2 : s2.pins = s1.pins ∧ s2.pending = s1.pending := foldl_outer _ (fun _ _ => outer_trans (State.passCells_outer ..)
    (foldl_outer _ (fun _ _ => State.scrubWord_outer ..) _ _)) _ _
  clear_value v s2
  split at h
  · exact outer_of_next h ⟨rfl, rfl⟩
  · injection h with h; rw [← h]; exact outer_trans (outer_trans h1 h2) (State.modQuad_outer ..)

theorem State.reloaded_outer (s : State) (t b m : Nat) (st : Status) : (State.reloaded s t b m st).pins = s.pins ∧
    (State.reloaded s t b m st).pending = s.pending := by
  simp [State.reloaded, State.raise_outer]

theorem execWeightReload_outer (t : Byte) (block : BitVec 10) (s r : State)
    (h : execWeightReload t block s = .next r) : r.pins = s.pins ∧ r.pending = s.pending := by
  unfold execWeightReload at h
  extract_lets t' b x at h
  split at h
  · exact outer_of_next h ⟨rfl, rfl⟩
  · split at h
    · exact outer_of_next h ⟨rfl, rfl⟩
    · next m pa key _ =>
      generalize hm : s.hbmRead pa 32768 key = y at h
      have h1 : y.st.pins = s.pins ∧ y.st.pending = s.pending := hm ▸ State.hbmRead_outer s pa _ key
      dsimp only at h
      split at h
      · injection h with h; rw [← h]
        exact outer_trans h1 (outer_trans (State.modTile_outer ..) (outer_trans (State.modTile_outer ..) (State.reloaded_outer ..)))
      · injection h with h; rw [← h]
        exact outer_trans h1 (outer_trans (State.modTile_outer ..) (outer_trans (State.spWrite_outer ..) (State.reloaded_outer ..)))

theorem execHbmPatrol_outer (k : BitVec 4) (channel : BitVec 5) (unit : BitVec 24) (upsets : List Upset) (s : State) (r : State)
    (h : execHbmPatrol k channel unit upsets s = .next r) : r.pins = s.pins ∧ r.pending = s.pending := by
  (try simp only [execHbmPatrol] at h); (try (repeat' split at h)) <;> (injection h with h; rw [← h]; first
      | exact ⟨rfl, rfl⟩
      | exact State.modStack_outer ..
      | exact State.strikeHbm_outer ..
      | exact State.hbmUnit_outer ..
      | simp [State.modStack_outer, State.strikeHbm_outer, State.hbmUnit_outer]
      | grind [State.modStack_outer, State.strikeHbm_outer, State.hbmUnit_outer])

theorem State.stackDown_outer (s : State) (k : Nat) : (State.stackDown s k).pins = s.pins ∧
    (State.stackDown s k).pending = s.pending := by
  unfold State.stackDown; split <;> simp [State.modStack_outer, State.raise_outer]

theorem execHbmStackUnavailable_outer (k : BitVec 4) (s : State) (r : State)
    (h : execHbmStackUnavailable k s = .next r) : r.pins = s.pins ∧ r.pending = s.pending := by
  (try simp only [execHbmStackUnavailable] at h); (try (repeat' split at h)) <;> (injection h with h; rw [← h]; first
      | exact ⟨rfl, rfl⟩
      | exact State.stackDown_outer ..
      | simp [State.stackDown_outer]
      | grind [State.stackDown_outer])

theorem execHbmDoubledRefresh_outer (k : BitVec 4) (temp : Byte) (s : State) (r : State)
    (h : execHbmDoubledRefresh k temp s = .next r) : r.pins = s.pins ∧ r.pending = s.pending := by
  (try simp only [execHbmDoubledRefresh] at h); (try (repeat' split at h)) <;> (injection h with h; rw [← h]; first
      | exact ⟨rfl, rfl⟩
      | exact State.modStack_outer ..
      | simp [State.modStack_outer]
      | grind [State.modStack_outer])

end Sys2Proof.Machine
end

