-- ==== Sys2Proof/Laws/Frames/Resets.lean ====
section
/-! SUPPORT. Frames of resets: the queue of commands and the pins are outside what they write. -/

set_option linter.unusedSimpArgs false
set_option linter.unusedVariables false
set_option linter.unusedTactic false
set_option linter.unreachableTactic false

namespace Sys2Proof.Machine

theorem State.askReset_outer (s : State) (n : Reset) : (State.askReset s n).pins = s.pins ∧
    (State.askReset s n).pending = s.pending := by
  unfold State.askReset; split <;> simp [foldl_outer]

theorem State.advanceTiles_outer (s : State) (ts : List Nat) : (State.advanceTiles s ts).pins = s.pins ∧
    (State.advanceTiles s ts).pending = s.pending := by
  simp [State.advanceTiles, State.modTile_outer, foldl_outer]

theorem State.failWrites_outer (s : State) (p : Nat → OutW → Bool) (st : Status) : (State.failWrites s p st).pins =
    s.pins ∧ (State.failWrites s p st).pending = s.pending := by
  simp [State.failWrites, State.failOuts_outer, foldl_outer]

theorem State.endNow_outer (s : State) (t : Nat) (st : Status) : (State.endNow s t st).pins = s.pins ∧
    (State.endNow s t st).pending = s.pending := by
  unfold State.endNow; split <;> simp [State.endItem_outer]

theorem State.beginEngines_outer (s : State) (ts : List Nat) : (State.beginEngines s ts).pins = s.pins ∧
    (State.beginEngines s ts).pending = s.pending := by
  simp [State.beginEngines, State.modTile_outer, State.cancelOthers_outer, State.closeWindows_outer,
      State.advanceTiles_outer, State.failWrites_outer, State.endNow_outer, foldl_outer]

theorem State.dropTrees_outer (s : State) (c : Nat) : (State.dropTrees s c).pins = s.pins ∧
    (State.dropTrees s c).pending = s.pending := by
  simp [State.dropTrees]

theorem State.cancelWaits_outer (s : State) (c : Nat) : (State.cancelWaits s c).pins = s.pins ∧
    (State.cancelWaits s c).pending = s.pending := by
  simp [State.cancelWaits, State.replyS_outer, foldl_outer]

theorem State.cancelCtx_outer (s : State) (c : Nat) : (State.cancelCtx s c).pins = s.pins ∧
    (State.cancelCtx s c).pending = s.pending := by
  simp [State.cancelCtx, State.modCore_outer, State.modCtx_outer, State.cancelTile_outer, State.cancelWork_outer,
      State.decideEpoch_outer, foldl_outer]

theorem State.beginCtx_outer (s : State) (c : Nat) : (State.beginCtx s c).pins = s.pins ∧ (State.beginCtx s c).pending
    = s.pending := by
  simp [State.beginCtx, State.closeWindows_outer, State.dropTrees_outer, State.cancelWaits_outer,
      State.cancelCtx_outer]

theorem State.holdQuads_outer (s : State) (p : Nat) : (State.holdQuads s p).pins = s.pins ∧
    (State.holdQuads s p).pending = s.pending := by
  simp [State.holdQuads, State.modQuad_outer, foldl_outer]

theorem State.beginPartition_outer (s : State) (p : Nat) :
    (s.beginPartition p).pins = s.pins ∧ (s.beginPartition p).pending = s.pending := by
  unfold State.beginPartition
  extract_lets ts cs s1 s2 s3 w s4 s5 s6 s7 js s8 s9
  have h1 : s1.pins = s.pins ∧ s1.pending = s.pending :=
    outer_trans (b := { s with windows := _ }) ⟨rfl, rfl⟩ (foldl_outer _ (fun _ _ => State.retireTag_outer ..) _ _)
  have h2 : s2.pins = s.pins ∧ s2.pending = s.pending := outer_trans h1 (State.beginEngines_outer s1 ts)
  have h3 : s3.pins = s.pins ∧ s3.pending = s.pending := outer_trans h2 (State.failWrites_outer ..)
  have h5 : s5.pins = s.pins ∧ s5.pending = s.pending := outer_trans (b := s4) h3
    (foldl_outer _ (fun _ _ => outer_trans (outer_trans (State.cancelCtx_outer ..) (State.cancelWaits_outer ..))
      (State.dropTrees_outer ..)) _ _)
  have h6 : s6.pins = s.pins ∧ s6.pending = s.pending := outer_trans h5
    (foldl_outer _ (fun _ _ => State.breakBarrier_outer ..) _ _)
  have h8 : s8.pins = s.pins ∧ s8.pending = s.pending := outer_trans (b := s7) h6
    (foldl_outer _ (fun _ _ => State.send_outer ..) _ _)
  have h9 : s9.pins = s.pins ∧ s9.pending = s.pending := by
    refine outer_trans h8 (foldl_outer _ (fun _ _ => ?_) _ _)
    split
    · exact State.modTile_outer ..
    · exact ⟨rfl, rfl⟩
  exact outer_trans h9 (State.holdQuads_outer ..)

theorem State.beginReset_outer (s : State) (r : Reset) : (State.beginReset s r).pins = s.pins ∧
    (State.beginReset s r).pending = s.pending := by
  grind [State.beginReset, State.beginEngines_outer, State.beginCtx_outer, State.beginPartition_outer, foldl_outer]

theorem State.endSteps_outer (s : State) (c : Nat) : (State.endSteps s c).pins = s.pins ∧ (State.endSteps s c).pending
    = s.pending := by
  grind [State.endSteps, State.modSeq_outer, State.trimRuns_outer, State.answerWork_outer, State.releaseHeld_outer,
      State.endCancels_outer, foldl_outer]

theorem State.killCtx_outer (s : State) (c : Nat) : (State.killCtx s c).pins = s.pins ∧ (State.killCtx s c).pending =
    s.pending := by
  simp [State.killCtx, State.freeSlot_outer, State.answerWork_outer, State.dropTrees_outer, State.cancelWaits_outer,
      foldl_outer]

theorem State.resetOver_outer (s : State) (r : Reset) (gen : Nat) : (State.resetOver s r gen).pins = s.pins ∧
    (State.resetOver s r gen).pending = s.pending := by
  simp [State.resetOver, State.modTile_outer, State.raise_outer, State.replyS_outer, State.advanceAll_outer,
      State.endSteps_outer, State.killCtx_outer, foldl_outer]

theorem State.completeReset_outer (s : State) (r : Reset) : (State.completeReset s r).pins = s.pins ∧
    (State.completeReset s r).pending = s.pending := by
  grind [State.completeReset, State.modTile_outer, State.resetOver_outer, foldl_outer]

theorem State.pumpResets_outer (s : State) : (State.pumpResets s).pins = s.pins ∧ (State.pumpResets s).pending =
    s.pending := by
  simp [State.pumpResets, State.beginReset_outer, State.completeReset_outer, foldl_outer]

theorem execCtxReset_outer (h : Pkt) (s : State) (r : State) (h : execCtxReset h s = .next r) : r.pins = s.pins ∧
    r.pending = s.pending := by
  cases h; refine State.host_outer _ _ _ _ _ _ (fun a b => ?_); ((try dsimp only); (try (repeat' split)) <;> first
      | exact ⟨rfl, rfl⟩
      | simp [State.replyS_outer, State.askReset_outer, State.pumpResets_outer]
      | grind [State.replyS_outer, State.askReset_outer, State.pumpResets_outer])

theorem execCtxDestroy_outer (h : Pkt) (s : State) (r : State) (h : execCtxDestroy h s = .next r) : r.pins = s.pins ∧
    r.pending = s.pending := by
  cases h; refine State.host_outer _ _ _ _ _ _ (fun a b => ?_); ((try dsimp only); (try (repeat' split)) <;> first
      | exact ⟨rfl, rfl⟩
      | simp [State.replyS_outer, State.askReset_outer, State.pumpResets_outer]
      | grind [State.replyS_outer, State.askReset_outer, State.pumpResets_outer])

theorem execEngineReset_outer (h : Pkt) (tile : Byte) (s : State) (r : State) (h : execEngineReset h tile s = .next r)
    : r.pins = s.pins ∧ r.pending = s.pending := by
  cases h; refine State.host_outer _ _ _ _ _ _ (fun a b => ?_); ((try dsimp only); (try (repeat' split)) <;> first
      | exact ⟨rfl, rfl⟩
      | simp [State.replyS_outer, State.askReset_outer, State.pumpResets_outer]
      | grind [State.replyS_outer, State.askReset_outer, State.pumpResets_outer])

theorem execPartitionReset_outer (h : Pkt) (part : Byte) (s : State) (r : State)
    (h : execPartitionReset h part s = .next r) : r.pins = s.pins ∧ r.pending = s.pending := by
  cases h; refine State.host_outer _ _ _ _ _ _ (fun a b => ?_); ((try dsimp only); (try (repeat' split)) <;> first
      | exact ⟨rfl, rfl⟩
      | simp [State.replyS_outer, State.askReset_outer, State.pumpResets_outer]
      | grind [State.replyS_outer, State.askReset_outer, State.pumpResets_outer])

theorem execVerifyingPass_outer (part : BitVec 4) (upsets : List (Nat × Upset)) (s : State) (r : State)
    (h : execVerifyingPass part upsets s = .next r) : r.pins = s.pins ∧ r.pending = s.pending := by
  (try simp only [execVerifyingPass] at h); (try (repeat' split at h)) <;> (injection h with h; rw [← h]; first
      | exact ⟨rfl, rfl⟩
      | exact State.modTile_outer ..
      | exact State.modQuad_outer ..
      | exact State.passCells_outer ..
      | exact State.strikeAll_outer ..
      | exact State.resetOver_outer ..
      | simp [State.modTile_outer, State.modQuad_outer, State.passCells_outer, State.strikeAll_outer,
        State.resetOver_outer, foldl_outer]
      | grind [State.modTile_outer, State.modQuad_outer, State.passCells_outer, State.strikeAll_outer,
        State.resetOver_outer, foldl_outer])

theorem State.chipReset_outer (s : State) (asked : RLevel) : (State.chipReset s asked).pins = s.pins ∧
    (State.chipReset s asked).pending = s.pending := by
  simp [State.chipReset]

theorem State.assertFault_steady (s : State) : Steady s s.assertFault :=
  ⟨rfl, rfl, rfl, fun h => by simp [State.assertFault] at h, fun h => h⟩

theorem State.hardReset_steady (s : State) : Steady s s.hardReset := by
  unfold State.hardReset
  extract_lets again r b r2
  have h : Steady s r2 := steady_of_outer (State.chipReset_outer s .chip)
  split
  · exact steady_trans h (State.assertFault_steady _)
  · exact h

theorem execChipResetWrite_outer (key : W32) (s : State) (r : State) (h : execChipResetWrite key s = .next r) : r.pins
    = s.pins ∧ r.pending = s.pending := by
  (try simp only [execChipResetWrite] at h); (try (repeat' split at h)) <;> (injection h with h; rw [← h]; first
      | exact ⟨rfl, rfl⟩
      | exact State.chipReset_outer ..
      | simp [State.chipReset_outer]
      | grind [State.chipReset_outer])

theorem State.escalate_steady (s : State) (r : Reset) : Steady s (s.escalate r) := by
  unfold State.escalate
  split
  · extract_lets ts r' q
    exact steady_of_outer (State.pumpResets_outer _)
  · split
    · dsimp only
      refine steady_of_outer (outer_trans ?_ (State.pumpResets_outer _))
      exact State.askReset_outer { s with resets := s.resets.filter (fun x => x ≠ r) } _
    · exact steady_of_outer ⟨rfl, rfl⟩
  · exact steady_of_outer (State.chipReset_outer ..)
  · split
    · exact State.assertFault_steady _
    · exact steady_of_outer ⟨rfl, rfl⟩

theorem execResetEscalation_steady (s r : State) (h : execResetEscalation s = .next r) : Steady s r := by
  unfold execResetEscalation at h
  extract_lets s1 at h
  injection h with h
  rw [← h]
  refine steady_trans (b := s1) (steady_of_outer (State.pumpResets_outer _)) (foldl_steady _ (fun s r => ?_) _ _)
  split
  · exact State.escalate_steady _ _
  · exact steady_of_outer ⟨rfl, rfl⟩

theorem State.resetTile_outer (s : State) (t : Nat) : (State.resetTile s t).pins = s.pins ∧
    (State.resetTile s t).pending = s.pending := by
  simp [State.resetTile, State.askReset_outer, State.pumpResets_outer]

theorem execLockstepMismatch_steady (steward : Bool) (t : Byte) (s r : State)
    (h : execLockstepMismatch steward t s = .next r) : Steady s r := by
  simp only [execLockstepMismatch] at h
  repeat' split at h
  all_goals injection h with h; rw [← h]
  · exact steady_of_outer ⟨rfl, rfl⟩
  · exact steady_trans (steady_of_outer (State.raise_outer ..)) (State.hardReset_steady _)
  · exact steady_of_outer ⟨rfl, rfl⟩
  · exact steady_of_outer (outer_trans (State.raise_outer ..) (State.resetTile_outer ..))

theorem State.saddleDown_outer (s : State) (k : Nat) : (State.saddleDown s k).pins = s.pins ∧
    (State.saddleDown s k).pending = s.pending := by
  unfold State.saddleDown; (repeat' split) <;> simp [State.raise_outer, State.chipReset_outer]

theorem execSaddleFailed_outer (k : BitVec 3) (s : State) (r : State) (h : execSaddleFailed k s = .next r) : r.pins =
    s.pins ∧ r.pending = s.pending := by
  (try simp only [execSaddleFailed] at h); (try (repeat' split at h)) <;> (injection h with h; rw [← h]; first
      | exact ⟨rfl, rfl⟩
      | exact State.saddleDown_outer ..
      | simp [State.saddleDown_outer]
      | grind [State.saddleDown_outer])

end Sys2Proof.Machine
end

