-- ==== Sys2Proof/Laws/Frames/Ports.lean ====
section
/-! SUPPORT. Frames of Ohmist ports: the queue of commands and the pins are outside what they write. -/

set_option linter.unusedSimpArgs false
set_option linter.unusedVariables false
set_option linter.unusedTactic false
set_option linter.unreachableTactic false

namespace Sys2Proof.Machine

theorem State.countPort_outer (s : State) (port k n : Nat) : (State.countPort s port k n).pins = s.pins ∧
    (State.countPort s port k n).pending = s.pending := by
  unfold State.countPort; split <;> simp [State.count_outer]

theorem State.deliverOut_outer (s : State) (port : Option Nat) (p : Packet) : (State.deliverOut s port p).pins =
    s.pins ∧ (State.deliverOut s port p).pending = s.pending := by
  unfold State.deliverOut; split <;> simp []

theorem State.launch_outer (s : State) (q : Nat) (p : Packet) (own : Bool) : (State.launch s q p own).pins = s.pins ∧
    (State.launch s q p own).pending = s.pending := by
  simp [State.launch, State.modOhm_outer, State.countPort_outer, State.deliverOut_outer]

theorem State.emit_outer (s : State) (port : Option Nat) (p : Packet) (own : Bool) : (State.emit s port p own).pins =
    s.pins ∧ (State.emit s port p own).pending = s.pending := by
  unfold State.emit; (repeat' split) <;> simp [State.modOhm_outer, State.deliverOut_outer, State.launch_outer]

theorem State.pumpPort_outer (s : State) (q : Nat) : (State.pumpPort s q).pins = s.pins ∧ (State.pumpPort s q).pending
    = s.pending := by
  simp [State.pumpPort, State.modOhm_outer, State.emit_outer, foldl_outer]

theorem State.badFlit_outer (s : State) (port : Nat) (fecOk : Bool) (bs : List Byte) :
    (State.badFlit s port fecOk bs).pins = s.pins ∧ (State.badFlit s port fecOk bs).pending = s.pending := by
  grind [State.badFlit, State.modOhm_outer, State.countPort_outer]

theorem State.flitTaken_outer (s : State) (port : Nat) (h : FlitHdr) : (State.flitTaken s port h).pins = s.pins ∧
    (State.flitTaken s port h).pending = s.pending := by
  grind [State.flitTaken, State.modOhm_outer, State.pumpPort_outer]

theorem State.flitAt_outer (s : State) (port : Nat) (fec : Option Nat) (bs : List Byte) (kind : Nat)
    (f : FlitHdr → State → State) (hf : ∀ h s, (f h s).pins = s.pins ∧ (f h s).pending = s.pending) :
    (s.flitAt port fec bs kind f).pins = s.pins ∧ (s.flitAt port fec bs kind f).pending = s.pending := by
  simp only [State.flitAt]
  repeat' split
  · exact ⟨rfl, rfl⟩
  · exact outer_trans (State.countPort_outer ..) (State.badFlit_outer ..)
  · exact State.countPort_outer ..
  · exact outer_trans (State.countPort_outer ..) (outer_trans (State.modOhm_outer ..) (hf _ _))

theorem execDataFlit_outer (port : BitVec 4) (fec : Option Nat) (bytes : List Byte) (s : State) (r : State)
    (h : execDataFlit port fec bytes s = .next r) : r.pins = s.pins ∧ r.pending = s.pending := by
  cases h; refine State.flitAt_outer _ _ _ _ _ _ (fun a b => ?_); ((try dsimp only); (try (repeat' split)) <;> first
      | exact ⟨rfl, rfl⟩
      | simp [State.modOhm_outer, State.countPort_outer, State.flitTaken_outer]
      | grind [State.modOhm_outer, State.countPort_outer, State.flitTaken_outer])

theorem execRetryRequest_outer (port : BitVec 4) (fec : Option Nat) (bytes : List Byte) (s : State) (r : State)
    (h : execRetryRequest port fec bytes s = .next r) : r.pins = s.pins ∧ r.pending = s.pending := by
  cases h; refine State.flitAt_outer _ _ _ _ _ _ (fun a b => ?_); ((try dsimp only); (try (repeat' split)) <;> first
      | exact ⟨rfl, rfl⟩
      | simp [State.modOhm_outer, State.flitTaken_outer]
      | grind [State.modOhm_outer, State.flitTaken_outer])

theorem execIdleFlit_outer (port : BitVec 4) (fec : Option Nat) (bytes : List Byte) (s : State) (r : State)
    (h : execIdleFlit port fec bytes s = .next r) : r.pins = s.pins ∧ r.pending = s.pending := by
  cases h; refine State.flitAt_outer _ _ _ _ _ _ (fun a b => ?_); ((try dsimp only); (try (repeat' split)) <;> first
      | exact ⟨rfl, rfl⟩
      | simp [State.flitTaken_outer]
      | grind [State.flitTaken_outer])

theorem execTrainingControl_outer (port : BitVec 4) (fec : Option Nat) (bytes : List Byte) (s : State) (r : State)
    (h : execTrainingControl port fec bytes s = .next r) : r.pins = s.pins ∧ r.pending = s.pending := by
  cases h; refine State.flitAt_outer _ _ _ _ _ _ (fun a b => ?_); ((try dsimp only); (try (repeat' split)) <;> first
      | exact ⟨rfl, rfl⟩
      | simp [State.flitTaken_outer]
      | grind [State.flitTaken_outer])

theorem execLinkTraining_outer (port : BitVec 4) (low high : Bool) (s : State) (r : State)
    (h : execLinkTraining port low high s = .next r) : r.pins = s.pins ∧ r.pending = s.pending := by
  (try simp only [execLinkTraining] at h); (try (repeat' split at h)) <;> (injection h with h; rw [← h]; first
      | exact ⟨rfl, rfl⟩
      | exact State.modOhm_outer ..
      | exact State.raise_outer ..
      | exact State.send_outer ..
      | simp [State.modOhm_outer, State.raise_outer, State.send_outer]
      | grind [State.modOhm_outer, State.raise_outer, State.send_outer])

theorem State.portDown_outer (s : State) (p cause : Nat) : (State.portDown s p cause).pins = s.pins ∧
    (State.portDown s p cause).pending = s.pending := by
  unfold State.portDown; split <;> simp [State.modOhm_outer, State.raise_outer, State.send_outer]

theorem execLinkDown_outer (port : BitVec 4) (s : State) (r : State) (h : execLinkDown port s = .next r) : r.pins =
    s.pins ∧ r.pending = s.pending := by
  (try simp only [execLinkDown] at h); (try (repeat' split at h)) <;> (injection h with h; rw [← h]; first
      | exact ⟨rfl, rfl⟩
      | exact State.portDown_outer ..
      | simp [State.portDown_outer]
      | grind [State.portDown_outer])

theorem execLinkStateNotice_outer (m : MgmtHdr) (port : BitVec 4) (up : Bool) (s : State) (r : State)
    (h : execLinkStateNotice m port up s = .next r) : r.pins = s.pins ∧ r.pending = s.pending := by
  (try simp only [execLinkStateNotice] at h); (try (repeat' split at h)) <;> (injection h with h; rw [← h]; first
      | exact ⟨rfl, rfl⟩
      | exact State.mgmtDrop_outer ..
      | simp [State.mgmtDrop_outer]
      | grind [State.mgmtDrop_outer])

end Sys2Proof.Machine
end

