-- ==== Sys2Proof/Laws/Frames/Flows.lean ====
section
/-! SUPPORT. Frames of packets and flows: the queue of commands and the pins are outside what they write. -/

set_option linter.unusedSimpArgs false
set_option linter.unusedVariables false
set_option linter.unusedTactic false
set_option linter.unreachableTactic false

namespace Sys2Proof.Machine

theorem State.putFlow_outer (s : State) (f : SFlow) : (State.putFlow s f).pins = s.pins ∧ (State.putFlow s f).pending
    = s.pending := by
  simp [State.putFlow]

theorem State.frame_outer (s : State) (job keyId tile : Nat) : (State.frame s job keyId tile).pins = s.pins ∧
    (State.frame s job keyId tile).pending = s.pending := by
  simp [State.frame]

theorem State.sendPacket_outer (s : State) (t : Nat) (q : Xfer) (ws : List OutW) (f : SFlow) (pk : Packet)
    (port : Option Nat) : (State.sendPacket s t q ws f pk port).pins = s.pins ∧
    (State.sendPacket s t q ws f pk port).pending = s.pending := by
  unfold State.sendPacket; (repeat' split) <;> simp [State.modTile_outer, State.count_outer, State.countRoute_outer,
      State.emit_outer, State.putFlow_outer, State.frame_outer]

theorem execPacketInject_outer (t : Byte) (queue : BitVec 2) (n : W16) (s : State) (r : State)
    (h : execPacketInject t queue n s = .next r) : r.pins = s.pins ∧ r.pending = s.pending := by
  (try simp only [execPacketInject] at h); (try (repeat' split at h)) <;> (injection h with h; rw [← h]; first
      | exact ⟨rfl, rfl⟩
      | exact State.failOuts_outer ..
      | exact State.sendPacket_outer ..
      | simp [State.failOuts_outer, State.sendPacket_outer]
      | grind [State.failOuts_outer, State.sendPacket_outer])

theorem State.answerTo_outer (s : State) (pk : Packet) (ptype : Nat) (st : Status) :
    (State.answerTo s pk ptype st).pins = s.pins ∧ (State.answerTo s pk ptype st).pending = s.pending := by
  grind [State.answerTo, State.emit_outer, State.putFlow_outer, State.frame_outer]

theorem State.answerSt_outer (s : State) (pk : Packet) (st : Status) : (State.answerSt s pk st).pins = s.pins ∧
    (State.answerSt s pk st).pending = s.pending := by
  simp [State.answerSt, State.answerTo_outer]

theorem State.rxXlate_outer (s : State) (c va : Nat) :
    (s.rxXlate c va).2.pins = s.pins ∧ (s.rxXlate c va).2.pending = s.pending := by
  unfold State.rxXlate
  split
  · exact ⟨rfl, rfl⟩
  split
  · extract_lets at_
    have ha : ∀ s : State, (at_ s).2.pins = s.pins ∧ (at_ s).2.pending = s.pending := by
      intro s
      simp only [at_]
      repeat' split
      all_goals exact ⟨rfl, rfl⟩
    clear_value at_
    split
    · split
      · next hr => exact outer_trans (State.runIn_outer _ _ _ _ _ hr) (ha _)
      · exact ⟨rfl, rfl⟩
    · exact ha _
  · exact outer_trans (State.stewardXlate_outer ..) (Answer.ifOk_outer _ _ (fun _ _ => ⟨rfl, rfl⟩))

theorem State.rxPlaces_outer (s : State) (c : Nat) (ps : List (Nat × List Byte × Bool)) :
    (s.rxPlaces c ps).2.pins = s.pins ∧ (s.rxPlaces c ps).2.pending = s.pending :=
  foldl_proj_outer (fun a : Answer (List Piece) => a.2) _ (fun a p => Answer.ifOk_outer _ _ (fun l t =>
    outer_trans (State.rxXlate_outer ..) (Answer.ifOk_outer _ _ (fun _ _ => ⟨rfl, rfl⟩)))) ps (.ok [], s)

theorem State.rxGroups_outer (s : State) (ps : List Piece) (r : State)
    (h : s.rxGroups ps = some r) : r.pins = s.pins ∧ r.pending = s.pending := by
  simp only [State.rxGroups] at h
  repeat' split at h
  · cases h; exact ⟨rfl, rfl⟩
  · cases h
  · cases h
  · refine foldlM_option_outer _ (fun s i r h => ?_) _ _ _ h
    split at h
    · cases h; exact State.groupWrite_outer ..
    · cases h

theorem State.rxApply_outer (s : State) (c : Nat) (pk : Packet) (ps : List Piece) (r : State)
    (h : s.rxApply c pk ps = .ok r) : r.pins = s.pins ∧ r.pending = s.pending := by
  unfold State.rxApply at h
  extract_lets ptype s1 at h
  have h1 : s1.pins = s.pins ∧ s1.pending = s.pending := by
    refine foldl_outer _ (fun s p => ?_) _ _
    dsimp only
    split
    · exact outer_trans (State.countRoute_outer ..) (State.count_outer ..)
    · exact outer_trans (State.countRoute_outer ..) (State.countTier_outer ..)
  clear_value s1
  split at h
  · split at h
    · next hr => cases h; exact outer_trans h1 (State.rxGroups_outer _ _ _ hr)
    · cases h
  · refine outer_trans h1 (foldlM_except_outer id _ (fun s p r h => ?_) _ _ _ h)
    split at h
    · cases h; exact State.physWrite_outer ..
    · split at h
      · cases hx : s.fp32Operand c p.pa (leAt pk.payload 0 8) p.data p.key p.bad with
        | error e => rw [hx] at h; cases h
        | ok x => rw [hx] at h; cases h; exact State.fp32Operand_outer _ _ _ _ _ _ _ _ hx
      · cases h; exact State.applyAdd_outer ..

theorem State.putRx_outer (s : State) (f : Flow) : (State.putRx s f).pins = s.pins ∧ (State.putRx s f).pending =
    s.pending := by
  simp [State.putRx]

/-- The state that a check of a packet leaves has the queue and the pins of the one it began in. -/
def Rx.Keeps (s : State) : Rx → Prop
  | .wait => True
  | .stale r => r.pins = s.pins ∧ r.pending = s.pending
  | .refuse _ r => r.pins = s.pins ∧ r.pending = s.pending
  | .done _ r => r.pins = s.pins ∧ r.pending = s.pending

theorem State.rxCheck_outer (s : State) (c : Nat) (pk : Packet) : Rx.Keeps s (s.rxCheck c pk) := by
  unfold State.rxCheck
  dsimp only
  split
  · trivial
  have h := State.rxPlaces_outer s c (packetPieces pk)
  generalize s.rxPlaces c (packetPieces pk) = x at h
  obtain ⟨e, t⟩ := x
  cases e with
  | error st => dsimp only; split <;> exact h
  | ok ps =>
    dsimp only
    split
    · exact h
    split
    · exact h
    cases e : t.rxApply c pk ps with
    | error st => exact h
    | ok u =>
      have hu := outer_trans h (State.rxApply_outer _ _ _ _ _ e)
      dsimp only [Rx.Keeps]
      split <;> exact hu

theorem State.rxFlow_outer (s : State) (port c : Nat) (pk : Packet) (f : Flow) (r : State)
    (h : s.rxFlow port c pk f = some r) : r.pins = s.pins ∧ r.pending = s.pending := by
  unfold State.rxFlow at h
  extract_lets f' d at h
  split at h
  · split at h <;> cases h
    · exact outer_trans (State.putRx_outer ..) (State.answerSt_outer ..)
    · exact State.putRx_outer ..
  split at h
  · cases h; exact State.putRx_outer ..
  have k := State.rxCheck_outer s c pk
  generalize s.rxCheck c pk = x at h k
  cases x with
  | wait => cases h
  | stale t =>
    cases h
    exact outer_trans (outer_trans (outer_trans (outer_trans k (State.putRx_outer ..)) (State.countPort_outer ..))
      (State.count_outer ..)) (State.answerSt_outer ..)
  | refuse st t => cases h; exact outer_trans (outer_trans k (State.putRx_outer ..)) (State.answerSt_outer ..)
  | done st t => cases h; exact outer_trans (outer_trans k (State.putRx_outer ..)) (State.answerSt_outer ..)

theorem State.freeFlits_outer (s : State) (port vc : Nat) (pk : Packet) : (State.freeFlits s port vc pk).pins = s.pins
    ∧ (State.freeFlits s port vc pk).pending = s.pending := by
  unfold State.freeFlits; split <;> simp []

theorem State.receive_outer (s : State) (port : Nat) (pk : Packet) (ptype : Nat) :
    (s.receive port pk ptype).pins = s.pins ∧ (s.receive port pk ptype).pending = s.pending := by
  unfold State.receive
  extract_lets far s1 old seen
  have h1 : s1.pins = s.pins ∧ s1.pending = s.pending :=
    outer_trans (State.countPort_outer ..) (State.freeFlits_outer ..)
  clear_value s1
  have hf : ∀ c f, ((s1.rxFlow port c pk f).getD s).pins = s.pins ∧ ((s1.rxFlow port c pk f).getD s).pending = s.pending :=
    fun c f => getD_outer _ _ (fun _ e => outer_trans h1 (State.rxFlow_outer _ _ _ _ _ _ e))
  split
  · exact ⟨rfl, rfl⟩
  split
  · exact outer_trans (State.countPort_outer ..) (State.freeFlits_outer ..)
  split
  · exact ⟨rfl, rfl⟩
  split
  · exact outer_trans h1 (State.countPort_outer ..)
  split
  · exact outer_trans h1 (outer_trans (State.countPort_outer ..) (State.raise_outer ..))
  split
  · exact outer_trans h1 (State.answerTo_outer ..)
  split
  · exact outer_trans h1 (State.answerTo_outer ..)
  clear_value old seen
  split
  · split
    · exact outer_trans h1 (State.answerTo_outer ..)
    · exact hf _ _
  · split
    · exact h1
    · exact hf _ _

theorem execWrite_outer (port : BitVec 4) (pk : Packet) (s : State) (r : State) (h : execWrite port pk s = .next r) :
    r.pins = s.pins ∧ r.pending = s.pending := by
  (try simp only [execWrite] at h); (try (repeat' split at h)) <;> (injection h with h; rw [← h]; first
      | exact ⟨rfl, rfl⟩
      | exact State.receive_outer ..
      | simp [State.receive_outer]
      | grind [State.receive_outer])

theorem execInt32Add_outer (port : BitVec 4) (pk : Packet) (s : State) (r : State)
    (h : execInt32Add port pk s = .next r) : r.pins = s.pins ∧ r.pending = s.pending := by
  (try simp only [execInt32Add] at h); (try (repeat' split at h)) <;> (injection h with h; rw [← h]; first
      | exact ⟨rfl, rfl⟩
      | exact State.receive_outer ..
      | simp [State.receive_outer]
      | grind [State.receive_outer])

theorem execInt64Add_outer (port : BitVec 4) (pk : Packet) (s : State) (r : State)
    (h : execInt64Add port pk s = .next r) : r.pins = s.pins ∧ r.pending = s.pending := by
  (try simp only [execInt64Add] at h); (try (repeat' split at h)) <;> (injection h with h; rw [← h]; first
      | exact ⟨rfl, rfl⟩
      | exact State.receive_outer ..
      | simp [State.receive_outer]
      | grind [State.receive_outer])

theorem execFp32Add_outer (port : BitVec 4) (pk : Packet) (s : State) (r : State)
    (h : execFp32Add port pk s = .next r) : r.pins = s.pins ∧ r.pending = s.pending := by
  (try simp only [execFp32Add] at h); (try (repeat' split at h)) <;> (injection h with h; rw [← h]; first
      | exact ⟨rfl, rfl⟩
      | exact State.receive_outer ..
      | simp [State.receive_outer]
      | grind [State.receive_outer])

theorem State.settlePacket_outer (s : State) (t node serial : Nat) (st : Status) :
    (State.settlePacket s t node serial st).pins = s.pins ∧ (State.settlePacket s t node serial st).pending =
    s.pending := by
  unfold State.settlePacket; (repeat' split) <;> simp [State.modTile_outer, State.afterAck_outer, State.dropOut_outer,
      State.failOuts_outer]

theorem State.settleFlow_outer (s : State) (f : SFlow) (serial : Nat) (st : Status) :
    (State.settleFlow s f serial st).pins = s.pins ∧ (State.settleFlow s f serial st).pending = s.pending := by
  simp [State.settleFlow, State.putFlow_outer, State.settlePacket_outer]

theorem State.answered_outer (s : State) (pk : Packet) (ptype : Nat) (f : SFlow → State → State)
    (hf : ∀ x s, (f x s).pins = s.pins ∧ (f x s).pending = s.pending) :
    (s.answered pk ptype f).pins = s.pins ∧ (s.answered pk ptype f).pending = s.pending := by
  unfold State.answered
  extract_lets fl port s1
  have h1 : s1.pins = s.pins ∧ s1.pending = s.pending := by
    simp only [s1]
    split
    · exact State.freeFlits_outer ..
    · exact ⟨rfl, rfl⟩
  clear_value s1
  repeat' split
  · exact h1
  · exact outer_trans h1 (State.countPort_outer ..)
  · exact outer_trans h1 (outer_trans (State.countPort_outer ..) (State.raise_outer ..))
  · exact outer_trans h1 (State.countPort_outer ..)
  · exact outer_trans h1 (hf _ _)
  · exact h1

theorem execAcknowledgement_outer (pk : Packet) (s : State) (r : State) (h : execAcknowledgement pk s = .next r) :
    r.pins = s.pins ∧ r.pending = s.pending := by
  cases h; refine State.answered_outer _ _ _ _ (fun a b => ?_); ((try dsimp only); (try (repeat' split)) <;> first
      | exact ⟨rfl, rfl⟩
      | simp [State.settleFlow_outer]
      | grind [State.settleFlow_outer])

theorem execRefusal_outer (pk : Packet) (s : State) (r : State) (h : execRefusal pk s = .next r) : r.pins = s.pins ∧
    r.pending = s.pending := by
  cases h; refine State.answered_outer _ _ _ _ (fun a b => ?_); ((try dsimp only); (try (repeat' split)) <;> first
      | exact ⟨rfl, rfl⟩
      | simp [State.settleFlow_outer]
      | grind [State.settleFlow_outer])

theorem execRetryLater_outer (pk : Packet) (s : State) (r : State) (h : execRetryLater pk s = .next r) : r.pins =
    s.pins ∧ r.pending = s.pending := by
  cases h; refine State.answered_outer _ _ _ _ (fun a b => ?_); ((try dsimp only); (try (repeat' split)) <;> first
      | exact ⟨rfl, rfl⟩
      | simp [State.putFlow_outer]
      | grind [State.putFlow_outer])

theorem State.resend_outer (s : State) (f : SFlow) (port : Option Nat) (d : Bool × Bool) (mark : Bool) :
    (State.resend s f port d mark).pins = s.pins ∧ (State.resend s f port d mark).pending = s.pending := by
  unfold State.resend; split <;> simp [State.countPort_outer, State.emit_outer, State.putFlow_outer,
      State.frame_outer, foldl_outer]

theorem execRetryLaterTimer_outer (t : Byte) (node : BitVec 14) (s : State) (r : State)
    (h : execRetryLaterTimer t node s = .next r) : r.pins = s.pins ∧ r.pending = s.pending := by
  (try simp only [execRetryLaterTimer] at h); (try (repeat' split at h)) <;> (injection h with h; rw [← h]; first
      | exact ⟨rfl, rfl⟩
      | exact State.resend_outer ..
      | simp [State.resend_outer]
      | grind [State.resend_outer])

theorem State.moveFlow_outer (s : State) (f : SFlow) : (State.moveFlow s f).pins = s.pins ∧
    (State.moveFlow s f).pending = s.pending := by
  grind [State.moveFlow, State.putFlow_outer, State.settleFlow_outer, State.resend_outer, foldl_outer]

theorem execResendTimeout_outer (t : Byte) (node : BitVec 14) (s : State) (r : State)
    (h : execResendTimeout t node s = .next r) : r.pins = s.pins ∧ r.pending = s.pending := by
  (try simp only [execResendTimeout] at h); (try (repeat' split at h)) <;> (injection h with h; rw [← h]; first
      | exact ⟨rfl, rfl⟩
      | exact State.resend_outer ..
      | exact State.moveFlow_outer ..
      | simp [State.resend_outer, State.moveFlow_outer]
      | grind [State.resend_outer, State.moveFlow_outer])

theorem execFlowForget_outer (sender : Bool) (t : Byte) (node : BitVec 14) (cls : BitVec 1) (s : State) (r : State)
    (h : execFlowForget sender t node cls s = .next r) : r.pins = s.pins ∧ r.pending = s.pending := by
  (try simp only [execFlowForget] at h); (try (repeat' split at h)) <;> (injection h with h; rw [← h]; first
      | exact ⟨rfl, rfl⟩
      | simp []
      | grind [])

theorem execTransitForward_outer (port : BitVec 4) (pk : Packet) (s : State) (r : State)
    (h : execTransitForward port pk s = .next r) : r.pins = s.pins ∧ r.pending = s.pending := by
  (try simp only [execTransitForward] at h); (try (repeat' split at h)) <;> (injection h with h; rw [← h]; first
      | exact ⟨rfl, rfl⟩
      | exact State.countPort_outer ..
      | exact State.emit_outer ..
      | exact State.answerTo_outer ..
      | exact State.freeFlits_outer ..
      | simp [State.countPort_outer, State.emit_outer, State.answerTo_outer, State.freeFlits_outer]
      | grind [State.countPort_outer, State.emit_outer, State.answerTo_outer, State.freeFlits_outer])

theorem execGenerationNotice_outer (m : MgmtHdr) (job : W16) (_part : BitVec 4) (gen : Byte) (s : State) (r : State)
    (h : execGenerationNotice m job _part gen s = .next r) : r.pins = s.pins ∧ r.pending = s.pending := by
  (try simp only [execGenerationNotice] at h); (try (repeat' split at h)) <;> (injection h with h; rw [← h]; first
      | exact ⟨rfl, rfl⟩
      | exact State.mgmtDrop_outer ..
      | simp [State.mgmtDrop_outer]
      | grind [State.mgmtDrop_outer])

end Sys2Proof.Machine
end

