-- ==== Sys2Proof/Laws/Frames/TimeRows.lean ====
section
/-! SUPPORT. Frames of time exchange: the queue of commands and the pins are outside what they write. -/

set_option linter.unusedSimpArgs false
set_option linter.unusedVariables false
set_option linter.unusedTactic false
set_option linter.unreachableTactic false

namespace Sys2Proof.Machine

theorem execBarrierArrivalForward_outer (m : MgmtHdr) (job ident : W16) (tgen : Byte) (s : State) (r : State)
    (h : execBarrierArrivalForward m job ident tgen s = .next r) : r.pins = s.pins ∧ r.pending = s.pending := by
  (try simp only [execBarrierArrivalForward] at h); (try (repeat' split at h)) <;> (injection h with h; rw [← h]; first
      | exact ⟨rfl, rfl⟩
      | exact State.mgmtDrop_outer ..
      | exact State.countArrival_outer ..
      | exact State.breakBarrier_outer ..
      | simp [State.mgmtDrop_outer, State.countArrival_outer, State.breakBarrier_outer]
      | grind [State.mgmtDrop_outer, State.countArrival_outer, State.breakBarrier_outer])

theorem execBarrierCompletion_outer (m : MgmtHdr) (job ident : W16) (broken : Bool) (s : State) (r : State)
    (h : execBarrierCompletion m job ident broken s = .next r) : r.pins = s.pins ∧ r.pending = s.pending := by
  (try simp only [execBarrierCompletion] at h); (try (repeat' split at h)) <;> (injection h with h; rw [← h]; first
      | exact ⟨rfl, rfl⟩
      | exact State.decideWaits_outer ..
      | exact State.mgmtDrop_outer ..
      | exact State.breakBarrier_outer ..
      | simp [State.decideWaits_outer, State.mgmtDrop_outer, State.breakBarrier_outer]
      | grind [State.decideWaits_outer, State.mgmtDrop_outer, State.breakBarrier_outer])

theorem execBarrierTimeout_outer (ctx : Byte) (ident : W16) (s : State) (r : State)
    (h : execBarrierTimeout ctx ident s = .next r) : r.pins = s.pins ∧ r.pending = s.pending := by
  (try simp only [execBarrierTimeout] at h); (try (repeat' split at h)) <;> (injection h with h; rw [← h]; first
      | exact ⟨rfl, rfl⟩
      | exact State.breakBarrier_outer ..
      | simp [State.breakBarrier_outer]
      | grind [State.breakBarrier_outer])

theorem State.loseSync_outer (s : State) : (State.loseSync s).pins = s.pins ∧ (State.loseSync s).pending = s.pending
    := by
  unfold State.loseSync; split <;> simp [State.raise_outer]

theorem execTimeExchange_outer (s : State) (r : State) (h : execTimeExchange s = .next r) : r.pins = s.pins ∧
    r.pending = s.pending := by
  (try simp only [execTimeExchange] at h); (try (repeat' split at h)) <;> (injection h with h; rw [← h]; first
      | exact ⟨rfl, rfl⟩
      | exact State.send_outer ..
      | exact State.loseSync_outer ..
      | simp [State.send_outer, State.loseSync_outer]
      | grind [State.send_outer, State.loseSync_outer])

theorem execTimeExchangeReply_outer (m : MgmtHdr) (t2 t3 t4 : W64) (s : State) (r : State)
    (h : execTimeExchangeReply m t2 t3 t4 s = .next r) : r.pins = s.pins ∧ r.pending = s.pending := by
  (try simp only [execTimeExchangeReply] at h); (try (repeat' split at h)) <;> (injection h with h; rw [← h]; first
      | exact ⟨rfl, rfl⟩
      | exact State.send_outer ..
      | exact State.mgmtDrop_outer ..
      | exact State.loseSync_outer ..
      | simp [State.send_outer, State.mgmtDrop_outer, State.loseSync_outer]
      | grind [State.send_outer, State.mgmtDrop_outer, State.loseSync_outer])

theorem execTimeExchangeAtParent_outer (m : MgmtHdr) (t1 t2 : W64) (s : State) (r : State)
    (h : execTimeExchangeAtParent m t1 t2 s = .next r) : r.pins = s.pins ∧ r.pending = s.pending := by
  (try simp only [execTimeExchangeAtParent] at h); (try (repeat' split at h)) <;> (injection h with h; rw [← h]; first
      | exact ⟨rfl, rfl⟩
      | exact State.send_outer ..
      | exact State.mgmtDrop_outer ..
      | simp [State.send_outer, State.mgmtDrop_outer]
      | grind [State.send_outer, State.mgmtDrop_outer])

theorem execTimeAheadNotice_outer (m : MgmtHdr) (count : W64) (s : State) (r : State)
    (h : execTimeAheadNotice m count s = .next r) : r.pins = s.pins ∧ r.pending = s.pending := by
  (try simp only [execTimeAheadNotice] at h); (try (repeat' split at h)) <;> (injection h with h; rw [← h]; first
      | exact ⟨rfl, rfl⟩
      | exact State.count_outer ..
      | exact State.mgmtDrop_outer ..
      | simp [State.count_outer, State.mgmtDrop_outer]
      | grind [State.count_outer, State.mgmtDrop_outer])

theorem execCheckPeerExchange_outer (offset : Int) (s : State) (r : State)
    (h : execCheckPeerExchange offset s = .next r) : r.pins = s.pins ∧ r.pending = s.pending := by
  (try simp only [execCheckPeerExchange] at h); (try (repeat' split at h)) <;> (injection h with h; rw [← h]; first
      | exact ⟨rfl, rfl⟩
      | exact State.raise_outer ..
      | simp [State.raise_outer]
      | grind [State.raise_outer])

end Sys2Proof.Machine
end

