-- ==== Sys2Proof/Laws/Frames/Functions.lean ====
section
/-! SUPPORT. Frames of functions: the queue of commands and the pins are outside what they write. -/

set_option linter.unusedSimpArgs false
set_option linter.unusedVariables false
set_option linter.unusedTactic false
set_option linter.unreachableTactic false

namespace Sys2Proof.Machine

theorem State.endXs_outer (s : State) (xs : List (Nat × Nat)) (st : Status) : (State.endXs s xs st).pins = s.pins ∧
    (State.endXs s xs st).pending = s.pending := by
  grind [State.endXs, State.abortX_outer, foldl_outer]

theorem State.abortGlen_outer (s : State) (g : Nat) :
    (s.abortGlen g).pins = s.pins ∧ (s.abortGlen g).pending = s.pending := by
  unfold State.abortGlen
  refine outer_trans (outer_trans (outer_trans (foldl_outer _ (fun s n => ?_) _ _) (foldl_outer _ (fun _ _ =>
    State.cancelTile_outer ..) _ _)) (foldl_outer _ (fun _ _ => State.decideEpoch_outer ..) _ _)) (State.closeWindows_outer ..)
  repeat' split
  all_goals first
    | exact ⟨rfl, rfl⟩
    | exact State.cancelWork_outer ..
    | exact State.answerWork_outer ..

theorem State.abortFunction_outer (s : State) (kind index : Nat) :
    (s.abortFunction kind index).pins = s.pins ∧ (s.abortFunction kind index).pending = s.pending := by
  unfold State.abortFunction
  split
  · exact outer_trans (State.abortGlen_outer ..) (State.endXs_outer ..)
  · exact foldl_outer _ (fun _ _ => State.moveFlow_outer ..) _ _
  · exact State.endXs_outer ..
  · extract_lets mine s1
    have h1 : s1.pins = s.pins ∧ s1.pending = s.pending := by
      refine foldl_outer _ (fun s n => ?_) _ _
      repeat' split
      all_goals first
        | exact ⟨rfl, rfl⟩
        | exact State.cancelWork_outer ..
        | exact State.answerWork_outer ..
    exact outer_trans h1 (foldl_outer _ (fun _ _ => State.replyS_outer ..) _ { s1 with waits := _ })

theorem State.functionOff_outer (s : State) (kind index : Nat) : (State.functionOff s kind index).pins = s.pins ∧
    (State.functionOff s kind index).pending = s.pending := by
  unfold State.functionOff; (repeat' split) <;> grind [State.modQuad_outer, State.modFar_outer, State.modOhm_outer,
      State.modQp_outer, State.send_outer, foldl_outer]

theorem State.functionOn_outer (s : State) (kind index : Nat) (dev : FarDev) :
    (State.functionOn s kind index dev).pins = s.pins ∧ (State.functionOn s kind index dev).pending = s.pending := by
  unfold State.functionOn; split <;> simp [State.modQuad_outer, State.modFar_outer, State.modOhm_outer,
      State.modQp_outer, foldl_outer]

theorem State.completeDisable_outer (s : State) (d : Disable) : (State.completeDisable s d).pins = s.pins ∧
    (State.completeDisable s d).pending = s.pending := by
  unfold State.completeDisable; split <;> simp [State.replyS_outer, State.functionOff_outer, State.functionOn_outer,
      foldl_outer]

theorem State.pumpDisables_outer (s : State) : (State.pumpDisables s).pins = s.pins ∧ (State.pumpDisables s).pending =
    s.pending := by
  simp [State.pumpDisables, State.completeDisable_outer, foldl_outer]

theorem execFunctionDisable_outer (h : Pkt) (kind mode : Byte) (index : W16) (s : State) (r : State)
    (h : execFunctionDisable h kind mode index s = .next r) : r.pins = s.pins ∧ r.pending = s.pending := by
  cases h; refine State.host_outer _ _ _ _ _ _ (fun a b => ?_); ((try dsimp only); (try (repeat' split)) <;> first
      | exact ⟨rfl, rfl⟩
      | simp [State.replyS_outer, State.abortFunction_outer, State.pumpDisables_outer]
      | grind [State.replyS_outer, State.abortFunction_outer, State.pumpDisables_outer])

theorem execFunctionEnable_outer (h : Pkt) (kind : Byte) (index : W16) (device : Byte) (mem : FarMem) (s : State) (r : State)
    (h : execFunctionEnable h kind index device mem s = .next r) : r.pins = s.pins ∧ r.pending = s.pending := by
  cases h; refine State.host_outer _ _ _ _ _ _ (fun a b => ?_); ((try dsimp only); (try (repeat' split)) <;> first
      | exact ⟨rfl, rfl⟩
      | simp [State.replyS_outer, State.functionOn_outer]
      | grind [State.replyS_outer, State.functionOn_outer])

end Sys2Proof.Machine
end

