-- ==== Sys2Proof/Laws/Frames/Power.lean ====
section
/-! SUPPORT. Frames of power: the queue of commands and the pins are outside what they write. -/

set_option linter.unusedSimpArgs false
set_option linter.unusedVariables false
set_option linter.unusedTactic false
set_option linter.unreachableTactic false

namespace Sys2Proof.Machine

theorem execRateMonitorWindow_outer (q : BitVec 6) (rate : BitVec 28) (junction voltage : Byte) (s : State)
    (r : State) (h : execRateMonitorWindow q rate junction voltage s = .next r) : r.pins = s.pins ∧ r.pending =
    s.pending := by
  (try simp only [execRateMonitorWindow] at h); (try (repeat' split at h)) <;> (injection h with h; rw [← h]; first
      | exact ⟨rfl, rfl⟩
      | exact State.modQuad_outer ..
      | simp [State.modQuad_outer]
      | grind [State.modQuad_outer])

theorem execGovernorEvaluation_outer (part : BitVec 4) (predicted : Option (BitVec 7)) (s : State) (r : State)
    (h : execGovernorEvaluation part predicted s = .next r) : r.pins = s.pins ∧ r.pending = s.pending := by
  (try simp only [execGovernorEvaluation] at h); (try (repeat' split at h)) <;> (injection h with h; rw [← h]; first
      | exact ⟨rfl, rfl⟩
      | exact State.modQuad_outer ..
      | exact State.used_outer ..
      | simp [State.modQuad_outer, State.used_outer, foldl_outer]
      | grind [State.modQuad_outer, State.used_outer, foldl_outer])

theorem execEfficiencyMeasurement_outer (q : BitVec 6) (best : BitVec 7) (s : State) (r : State)
    (h : execEfficiencyMeasurement q best s = .next r) : r.pins = s.pins ∧ r.pending = s.pending := by
  (try simp only [execEfficiencyMeasurement] at h); (try (repeat' split at h)) <;> (injection h with h; rw [← h]; first
      | exact ⟨rfl, rfl⟩
      | exact State.modQuad_outer ..
      | simp [State.modQuad_outer]
      | grind [State.modQuad_outer])

theorem execPowerMeasurement_outer (w100us w1ms : W16) (quads : List (Nat × Nat)) (s : State) (r : State)
    (h : execPowerMeasurement w100us w1ms quads s = .next r) : r.pins = s.pins ∧ r.pending = s.pending := by
  (try simp only [execPowerMeasurement] at h); (try (repeat' split at h)) <;> (injection h with h; rw [← h]; first
      | exact ⟨rfl, rfl⟩
      | exact State.modQuad_outer ..
      | simp [State.modQuad_outer, foldl_outer]
      | grind [State.modQuad_outer, foldl_outer])

theorem State.lowerStep_outer (s : State) : (State.lowerStep s).pins = s.pins ∧ (State.lowerStep s).pending =
    s.pending := by
  grind [State.lowerStep, State.modQuad_outer, foldl_outer]

theorem State.raiseStep_outer (s : State) : (State.raiseStep s).pins = s.pins ∧ (State.raiseStep s).pending =
    s.pending := by
  unfold State.raiseStep; split <;> simp [State.modQuad_outer, foldl_outer]

theorem execPowerLimiterStep_outer (s : State) (r : State) (h : execPowerLimiterStep s = .next r) : r.pins = s.pins ∧
    r.pending = s.pending := by
  (try simp only [execPowerLimiterStep] at h); (try (repeat' split at h)) <;> (injection h with h; rw [← h]; first
      | exact ⟨rfl, rfl⟩
      | exact State.lowerStep_outer ..
      | exact State.raiseStep_outer ..
      | simp [State.lowerStep_outer, State.raiseStep_outer]
      | grind [State.lowerStep_outer, State.raiseStep_outer])

theorem State.leaveConditions_outer (s : State) : (State.leaveConditions s).pins = s.pins ∧
    (State.leaveConditions s).pending = s.pending := by
  simp [State.leaveConditions]

theorem execThermalLimiterStep_outer (q : BitVec 6) (temp : Byte) (s : State) (r : State)
    (h : execThermalLimiterStep q temp s = .next r) : r.pins = s.pins ∧ r.pending = s.pending := by
  (try simp only [execThermalLimiterStep] at h); (try (repeat' split at h)) <;> (injection h with h; rw [← h]; first
      | exact ⟨rfl, rfl⟩
      | exact State.modQuad_outer ..
      | exact State.leaveConditions_outer ..
      | simp [State.modQuad_outer, State.leaveConditions_outer]
      | grind [State.modQuad_outer, State.leaveConditions_outer])

theorem State.allQuadsOff_outer (s : State) : (State.allQuadsOff s).pins = s.pins ∧ (State.allQuadsOff s).pending =
    s.pending := by
  simp [State.allQuadsOff, State.modQuad_outer, foldl_outer]

theorem execThermtrip_steady (sensor : Byte) (s r : State) (h : execThermtrip sensor s = .next r) : Steady s r := by
  unfold execThermtrip at h
  generalize hq : s.allQuadsOff = q at h
  have hp : q.pending = s.pending := hq ▸ (State.allQuadsOff_outer s).2
  split at h
  · obtain rfl := Host.Outcome.next.inj h
    exact ⟨hp, rfl, rfl, fun x => x, fun x => by cases x⟩
  · obtain rfl := Host.Outcome.next.inj h
    exact steady_of_outer ⟨rfl, rfl⟩

theorem State.quadFails_outer (s : State) (q : Nat) (retention : Bool) : (State.quadFails s q retention).pins = s.pins
    ∧ (State.quadFails s q retention).pending = s.pending := by
  simp [State.quadFails, State.modTile_outer, State.modQuad_outer, State.cancelOthers_outer, State.failWrites_outer,
      State.endNow_outer, foldl_outer]

theorem execRegulatorWindow_outer (q : BitVec 6) (retention : Bool) (code : Byte) (forNs : Nat) (s r : State)
    (h : execRegulatorWindow q retention code forNs s = .next r) : r.pins = s.pins ∧ r.pending = s.pending := by
  unfold execRegulatorWindow at h
  extract_lets n x at h
  generalize hg : State.quadFails _ _ _ = y at h
  have hy : y.pins = s.pins ∧ y.pending = s.pending :=
    hg ▸ outer_trans (State.raise_outer s _) (State.quadFails_outer _ n retention)
  split at h
  · exact outer_of_next h ⟨rfl, rfl⟩
  · injection h with h; rw [← h]; exact hy

theorem execOutOfConditions_outer (_rail : Byte) (s : State) (r : State) (h : execOutOfConditions _rail s = .next r) :
    r.pins = s.pins ∧ r.pending = s.pending := by
  (try simp only [execOutOfConditions] at h); (try (repeat' split at h)) <;> (injection h with h; rw [← h]; first
      | exact ⟨rfl, rfl⟩
      | exact State.leaveConditions_outer ..
      | simp [State.leaveConditions_outer]
      | grind [State.leaveConditions_outer])

theorem State.smbAnswer_outer (s : State) (v : Nat) : (State.smbAnswer s v).pins = s.pins ∧
    (State.smbAnswer s v).pending = s.pending := by
  unfold State.smbAnswer; split <;> simp []

theorem execPwrNow_outer (s : State) (r : State) (h : execPwrNow s = .next r) : r.pins = s.pins ∧ r.pending =
    s.pending := by
  (try simp only [execPwrNow] at h); (try (repeat' split at h)) <;> (injection h with h; rw [← h]; first
      | exact ⟨rfl, rfl⟩
      | exact State.smbAnswer_outer ..
      | simp [State.smbAnswer_outer]
      | grind [State.smbAnswer_outer])

theorem execTjMax_outer (col : Byte) (s : State) (r : State) (h : execTjMax col s = .next r) : r.pins = s.pins ∧
    r.pending = s.pending := by
  (try simp only [execTjMax] at h); (try (repeat' split at h)) <;> (injection h with h; rw [← h]; first
      | exact ⟨rfl, rfl⟩
      | exact State.smbAnswer_outer ..
      | simp [State.smbAnswer_outer, foldl_outer]
      | grind [State.smbAnswer_outer, foldl_outer])

theorem execHbmTmax_outer (s : State) (r : State) (h : execHbmTmax s = .next r) : r.pins = s.pins ∧ r.pending =
    s.pending := by
  (try simp only [execHbmTmax] at h); (try (repeat' split at h)) <;> (injection h with h; rw [← h]; first
      | exact ⟨rfl, rfl⟩
      | exact State.smbAnswer_outer ..
      | simp [State.smbAnswer_outer, foldl_outer]
      | grind [State.smbAnswer_outer, foldl_outer])

theorem execTrayLimitWRead_outer (s : State) (r : State) (h : execTrayLimitWRead s = .next r) : r.pins = s.pins ∧
    r.pending = s.pending := by
  (try simp only [execTrayLimitWRead] at h); (try (repeat' split at h)) <;> (injection h with h; rw [← h]; first
      | exact ⟨rfl, rfl⟩
      | exact State.smbAnswer_outer ..
      | simp [State.smbAnswer_outer]
      | grind [State.smbAnswer_outer])

theorem execTrayLimitWWrite_outer (watts : W16) (s : State) (r : State) (h : execTrayLimitWWrite watts s = .next r) :
    r.pins = s.pins ∧ r.pending = s.pending := by
  (try simp only [execTrayLimitWWrite] at h); (try (repeat' split at h)) <;> (injection h with h; rw [← h]; first
      | exact ⟨rfl, rfl⟩
      | simp []
      | grind [])

theorem execPwrStatus_outer (s : State) (r : State) (h : execPwrStatus s = .next r) : r.pins = s.pins ∧ r.pending =
    s.pending := by
  (try simp only [execPwrStatus] at h); (try (repeat' split at h)) <;> (injection h with h; rw [← h]; first
      | exact ⟨rfl, rfl⟩
      | exact State.smbAnswer_outer ..
      | simp [State.smbAnswer_outer]
      | grind [State.smbAnswer_outer])

theorem execAlertMaskRead_outer (s : State) (r : State) (h : execAlertMaskRead s = .next r) : r.pins = s.pins ∧
    r.pending = s.pending := by
  (try simp only [execAlertMaskRead] at h); (try (repeat' split at h)) <;> (injection h with h; rw [← h]; first
      | exact ⟨rfl, rfl⟩
      | exact State.smbAnswer_outer ..
      | simp [State.smbAnswer_outer]
      | grind [State.smbAnswer_outer])

theorem execAlertMaskWrite_outer (mask : Byte) (s : State) (r : State) (h : execAlertMaskWrite mask s = .next r) :
    r.pins = s.pins ∧ r.pending = s.pending := by
  (try simp only [execAlertMaskWrite] at h); (try (repeat' split at h)) <;> (injection h with h; rw [← h]; first
      | exact ⟨rfl, rfl⟩
      | simp []
      | grind [])

end Sys2Proof.Machine
end

