-- ==== Sys2Proof/Laws/Frames/Registers.lean ====
section
/-! SUPPORT. Frames of registers: the queue of commands and the pins are outside what they write. -/

set_option linter.unusedSimpArgs false
set_option linter.unusedVariables false
set_option linter.unusedTactic false
set_option linter.unreachableTactic false

namespace Sys2Proof.Machine

theorem State.qpOn_outer (s : State) (n v : Nat) : (State.qpOn s n v).pins = s.pins ∧ (State.qpOn s n v).pending =
    s.pending := by
  simp [State.qpOn, State.modQp_outer]

theorem State.qpOff_outer (s : State) (n v : Nat) : (State.qpOff s n v).pins = s.pins ∧ (State.qpOff s n v).pending =
    s.pending := by
  simp [State.qpOff, State.modQp_outer]

theorem execQpEnable_outer (qp : BitVec 12) (value : W64) (s : State) (r : State)
    (h : execQpEnable qp value s = .next r) : r.pins = s.pins ∧ r.pending = s.pending := by
  (try simp only [execQpEnable] at h); (try (repeat' split at h)) <;> (injection h with h; rw [← h]; first
      | exact ⟨rfl, rfl⟩
      | exact State.qpOn_outer ..
      | simp [State.qpOn_outer]
      | grind [State.qpOn_outer])

theorem execQpDisable_outer (qp : BitVec 12) (value : W64) (s : State) (r : State)
    (h : execQpDisable qp value s = .next r) : r.pins = s.pins ∧ r.pending = s.pending := by
  (try simp only [execQpDisable] at h); (try (repeat' split at h)) <;> (injection h with h; rw [← h]; first
      | exact ⟨rfl, rfl⟩
      | exact State.qpOff_outer ..
      | simp [State.qpOff_outer]
      | grind [State.qpOff_outer])

theorem execSqTail_outer (qp : BitVec 12) (index : W16) (readOk : Bool) (s : State) (r : State)
    (h : execSqTail qp index readOk s = .next r) : r.pins = s.pins ∧ r.pending = s.pending := by
  (try simp only [execSqTail] at h); (try (repeat' split at h)) <;> (injection h with h; rw [← h]; first
      | exact ⟨rfl, rfl⟩
      | exact State.modQp_outer ..
      | simp [State.modQp_outer]
      | grind [State.modQp_outer])

theorem execCqHead_outer (qp : BitVec 12) (index : W16) (s : State) (r : State) (h : execCqHead qp index s = .next r)
    : r.pins = s.pins ∧ r.pending = s.pending := by
  (try simp only [execCqHead] at h); (try (repeat' split at h)) <;> (injection h with h; rw [← h]; first
      | exact ⟨rfl, rfl⟩
      | exact State.modQp_outer ..
      | simp [State.modQp_outer]
      | grind [State.modQp_outer])

theorem execMsixCoalesceTimer_outer (qp : BitVec 12) (s : State) (r : State)
    (h : execMsixCoalesceTimer qp s = .next r) : r.pins = s.pins ∧ r.pending = s.pending := by
  (try simp only [execMsixCoalesceTimer] at h); (try (repeat' split at h)) <;> (injection h with h; rw [← h]; first
      | exact ⟨rfl, rfl⟩
      | exact State.raiseQp_outer ..
      | simp [State.raiseQp_outer]
      | grind [State.raiseQp_outer])

theorem State.sendPending_outer (s : State) : (State.sendPending s).pins = s.pins ∧ (State.sendPending s).pending =
    s.pending := by
  simp [State.sendPending, State.raiseMsix_outer, foldl_outer]

theorem State.msixWrite_outer (s : State) (k v : Nat) : (State.msixWrite s k v).pins = s.pins ∧
    (State.msixWrite s k v).pending = s.pending := by
  simp [State.msixWrite, State.sendPending_outer]

theorem State.evtHead_outer (s : State) (h : Nat) : (State.evtHead s h).pins = s.pins ∧ (State.evtHead s h).pending =
    s.pending := by
  grind [State.evtHead]

theorem State.traceHead_outer (s : State) (h : Nat) : (State.traceHead s h).pins = s.pins ∧
    (State.traceHead s h).pending = s.pending := by
  grind [State.traceHead]

theorem execEvtHeadWrite_outer (head : BitVec 12) (s : State) (r : State) (h : execEvtHeadWrite head s = .next r) :
    r.pins = s.pins ∧ r.pending = s.pending := by
  (try simp only [execEvtHeadWrite] at h); (try (repeat' split at h)) <;> (injection h with h; rw [← h]; first
      | exact ⟨rfl, rfl⟩
      | exact State.evtHead_outer ..
      | simp [State.evtHead_outer]
      | grind [State.evtHead_outer])

theorem execTraceHeadWrite_outer (head : W32) (s : State) (r : State) (h : execTraceHeadWrite head s = .next r) :
    r.pins = s.pins ∧ r.pending = s.pending := by
  (try simp only [execTraceHeadWrite] at h); (try (repeat' split at h)) <;> (injection h with h; rw [← h]; first
      | exact ⟨rfl, rfl⟩
      | exact State.traceHead_outer ..
      | simp [State.traceHead_outer]
      | grind [State.traceHead_outer])

theorem execCommonCountLowRead_outer (s : State) (r : State) (h : execCommonCountLowRead s = .next r) : r.pins =
    s.pins ∧ r.pending = s.pending := by
  (try simp only [execCommonCountLowRead] at h); (try (repeat' split at h)) <;> (injection h with h; rw [← h]; first
      | exact ⟨rfl, rfl⟩
      | exact State.answer_outer ..
      | simp [State.answer_outer]
      | grind [State.answer_outer])

theorem State.readHigh_outer (s : State) : (State.readHigh s).2.pins = s.pins ∧ (State.readHigh s).2.pending =
    s.pending := by
  simp [State.readHigh]

theorem State.qpWrite_outer (s : State) (n reg off : Nat) (wide : Bool) (v : Nat) :
    (State.qpWrite s n reg off wide v).pins = s.pins ∧ (State.qpWrite s n reg off wide v).pending = s.pending := by
  unfold State.qpWrite; (repeat' split) <;> grind [State.modQp_outer, State.qpOn_outer, State.qpOff_outer]

theorem State.bar0Write_outer (s : State) (off : Nat) (wide : Bool) (v : Nat) :
    (s.bar0Write off wide v).pins = s.pins ∧ (s.bar0Write off wide v).pending = s.pending := by
  simp only [State.bar0Write]
  repeat' first
    | exact ⟨rfl, rfl⟩
    | exact State.chipReset_outer ..
    | exact State.evtHead_outer ..
    | exact State.traceHead_outer ..
    | exact State.qpWrite_outer ..
    | exact State.msixWrite_outer s _ _
    | exact outer_trans (State.msixWrite_outer s _ _) (State.msixWrite_outer _ _ _)
    | refine ite_holds (fun x : State => x.pins = s.pins ∧ x.pending = s.pending) ?_ ?_

theorem execRegisterWrite_outer (off : BitVec 26) (wide : Bool) (value : W64) (s : State) (r : State)
    (h : execRegisterWrite off wide value s = .next r) : r.pins = s.pins ∧ r.pending = s.pending := by
  (try simp only [execRegisterWrite] at h); (try (repeat' split at h)) <;> (injection h with h; rw [← h]; first
      | exact ⟨rfl, rfl⟩
      | exact State.bar0Write_outer ..
      | simp [State.bar0Write_outer]
      | grind [State.bar0Write_outer])

end Sys2Proof.Machine
end

