-- ==== Sys2Proof/Laws/Frames/HostPort.lean ====
section
/-! SUPPORT. Frames of the host port: the queue of commands and the pins are outside what they write. -/

set_option linter.unusedSimpArgs false
set_option linter.unusedVariables false
set_option linter.unusedTactic false
set_option linter.unreachableTactic false

namespace Sys2Proof.Machine

theorem State.portReset_outer (s : State) : (State.portReset s).pins = s.pins ∧ (State.portReset s).pending =
    s.pending := by
  simp [State.portReset, State.answer_outer]

theorem execHotReset_outer (s : State) (r : State) (h : execHotReset s = .next r) : r.pins = s.pins ∧ r.pending =
    s.pending := by
  (try simp only [execHotReset] at h); (try (repeat' split at h)) <;> (injection h with h; rw [← h]; first
      | exact ⟨rfl, rfl⟩
      | exact State.portReset_outer ..
      | simp [State.portReset_outer]
      | grind [State.portReset_outer])

theorem State.cfgWrite_outer (s : State) (r v : Nat) : (State.cfgWrite s r v).pins = s.pins ∧
    (State.cfgWrite s r v).pending = s.pending := by
  unfold State.cfgWrite; (repeat' split) <;> simp [State.sendPending_outer]

theorem execConfigRequest_outer (write : Bool) (reg : BitVec 12) (value : W32) (s : State) (r : State)
    (h : execConfigRequest write reg value s = .next r) : r.pins = s.pins ∧ r.pending = s.pending := by
  (try simp only [execConfigRequest] at h); (try (repeat' split at h)) <;> (injection h with h; rw [← h]; first
      | exact ⟨rfl, rfl⟩
      | exact State.answer_outer ..
      | exact State.cfgWrite_outer ..
      | simp [State.answer_outer, State.cfgWrite_outer]
      | grind [State.answer_outer, State.cfgWrite_outer])

theorem execHdmDecoderCommit_outer (base : W64) (ways : Byte) (s : State) (r : State)
    (h : execHdmDecoderCommit base ways s = .next r) : r.pins = s.pins ∧ r.pending = s.pending := by
  (try simp only [execHdmDecoderCommit] at h); (try (repeat' split at h)) <;> (injection h with h; rw [← h]; first
      | exact ⟨rfl, rfl⟩
      | simp []
      | grind [])

theorem State.hostRefused_outer (s : State) (addr : Nat) : (State.hostRefused s addr).pins = s.pins ∧
    (State.hostRefused s addr).pending = s.pending := by
  grind [State.hostRefused, State.count_outer, State.raise_outer]

theorem State.memAnswer_outer (s : State) (bs : List Byte) (poison : Bool) : (State.memAnswer s bs poison).pins =
    s.pins ∧ (State.memAnswer s bs poison).pending = s.pending := by
  simp [State.memAnswer, State.count_outer, State.answer_outer]

theorem execCxlMemRead_outer (addr : W64) (len : BitVec 7) (late : Bool) (upsets : List Upset) (s : State) (r : State)
    (h : execCxlMemRead addr len late upsets s = .next r) : r.pins = s.pins ∧ r.pending = s.pending := by
  (try simp only [execCxlMemRead] at h); (try (repeat' split at h)) <;> (injection h with h; rw [← h]; first
      | exact ⟨rfl, rfl⟩
      | exact State.used_outer ..
      | exact State.countTier_outer ..
      | exact State.strikeHbm_outer ..
      | exact State.hbmRead_outer ..
      | exact State.countRoute_outer ..
      | exact State.hostRefused_outer ..
      | exact State.memAnswer_outer ..
      | simp [State.used_outer, State.countTier_outer, State.strikeHbm_outer, State.hbmRead_outer,
        State.countRoute_outer, State.hostRefused_outer, State.memAnswer_outer]
      | grind [State.used_outer, State.countTier_outer, State.strikeHbm_outer, State.hbmRead_outer,
        State.countRoute_outer, State.hostRefused_outer, State.memAnswer_outer])

theorem execCxlMemWrite_outer (addr : W64) (data : List Byte) (poison : Bool) (upsets : List Upset) (s : State)
    (r : State) (h : execCxlMemWrite addr data poison upsets s = .next r) : r.pins = s.pins ∧ r.pending = s.pending :=
    by
  (try simp only [execCxlMemWrite] at h); (try (repeat' split at h)) <;> (injection h with h; rw [← h]; first
      | exact ⟨rfl, rfl⟩
      | exact State.count_outer ..
      | exact State.countTier_outer ..
      | exact State.strikeHbm_outer ..
      | exact State.hbmWrite_outer ..
      | exact State.hbmDiscard_outer ..
      | exact State.countRoute_outer ..
      | exact State.hostRefused_outer ..
      | simp [State.count_outer, State.countTier_outer, State.strikeHbm_outer, State.hbmWrite_outer,
        State.hbmDiscard_outer, State.countRoute_outer, State.hostRefused_outer]
      | grind [State.count_outer, State.countTier_outer, State.strikeHbm_outer, State.hbmWrite_outer,
        State.hbmDiscard_outer, State.countRoute_outer, State.hostRefused_outer])

theorem execHostSnoop_outer (line : W64) (s : State) (r : State) (h : execHostSnoop line s = .next r) : r.pins =
    s.pins ∧ r.pending = s.pending := by
  (try simp only [execHostSnoop] at h); (try (repeat' split at h)) <;> (injection h with h; rw [← h]; first
      | exact ⟨rfl, rfl⟩
      | simp []
      | grind [])

theorem State.spdm_outer (s : State) (r : Spdm) : (State.spdm s r).pins = s.pins ∧ (State.spdm s r).pending =
    s.pending := by
  unfold State.spdm; split <;> simp []

theorem execDoeAbort_outer (s : State) (r : State) (h : execDoeAbort s = .next r) : r.pins = s.pins ∧ r.pending =
    s.pending := by
  (try simp only [execDoeAbort] at h); (try (repeat' split at h)) <;> (injection h with h; rw [← h]; first
      | exact ⟨rfl, rfl⟩
      | simp []
      | grind [])

theorem execGetVersion_outer (s : State) (r : State) (h : execGetVersion s = .next r) : r.pins = s.pins ∧ r.pending =
    s.pending := by
  (try simp only [execGetVersion] at h); (try (repeat' split at h)) <;> (injection h with h; rw [← h]; first
      | exact ⟨rfl, rfl⟩
      | exact State.spdm_outer ..
      | simp [State.spdm_outer]
      | grind [State.spdm_outer])

theorem execGetCapabilities_outer (s : State) (r : State) (h : execGetCapabilities s = .next r) : r.pins = s.pins ∧
    r.pending = s.pending := by
  (try simp only [execGetCapabilities] at h); (try (repeat' split at h)) <;> (injection h with h; rw [← h]; first
      | exact ⟨rfl, rfl⟩
      | exact State.spdm_outer ..
      | simp [State.spdm_outer]
      | grind [State.spdm_outer])

theorem execNegotiateAlgorithms_outer (s : State) (r : State) (h : execNegotiateAlgorithms s = .next r) : r.pins =
    s.pins ∧ r.pending = s.pending := by
  (try simp only [execNegotiateAlgorithms] at h); (try (repeat' split at h)) <;> (injection h with h; rw [← h]; first
      | exact ⟨rfl, rfl⟩
      | exact State.spdm_outer ..
      | simp [State.spdm_outer]
      | grind [State.spdm_outer])

theorem execGetDigests_outer (s : State) (r : State) (h : execGetDigests s = .next r) : r.pins = s.pins ∧ r.pending =
    s.pending := by
  (try simp only [execGetDigests] at h); (try (repeat' split at h)) <;> (injection h with h; rw [← h]; first
      | exact ⟨rfl, rfl⟩
      | exact State.spdm_outer ..
      | simp [State.spdm_outer]
      | grind [State.spdm_outer])

theorem execGetCertificate_outer (slot : BitVec 3) (s : State) (r : State) (h : execGetCertificate slot s = .next r) :
    r.pins = s.pins ∧ r.pending = s.pending := by
  (try simp only [execGetCertificate] at h); (try (repeat' split at h)) <;> (injection h with h; rw [← h]; first
      | exact ⟨rfl, rfl⟩
      | exact State.spdm_outer ..
      | simp [State.spdm_outer]
      | grind [State.spdm_outer])

theorem execChallenge_outer (slot : BitVec 3) (nonce : List Byte) (s : State) (r : State)
    (h : execChallenge slot nonce s = .next r) : r.pins = s.pins ∧ r.pending = s.pending := by
  (try simp only [execChallenge] at h); (try (repeat' split at h)) <;> (injection h with h; rw [← h]; first
      | exact ⟨rfl, rfl⟩
      | exact State.spdm_outer ..
      | simp [State.spdm_outer]
      | grind [State.spdm_outer])

theorem execGetMeasurements_outer (index : Byte) (nonce : List Byte) (s : State) (r : State)
    (h : execGetMeasurements index nonce s = .next r) : r.pins = s.pins ∧ r.pending = s.pending := by
  (try simp only [execGetMeasurements] at h); (try (repeat' split at h)) <;> (injection h with h; rw [← h]; first
      | exact ⟨rfl, rfl⟩
      | exact State.spdm_outer ..
      | simp [State.spdm_outer]
      | grind [State.spdm_outer])

theorem execSpdmUnsupportedRequest_outer (_code : Byte) (s : State) (r : State)
    (h : execSpdmUnsupportedRequest _code s = .next r) : r.pins = s.pins ∧ r.pending = s.pending := by
  (try simp only [execSpdmUnsupportedRequest] at h); (try (repeat' split at h)) <;> (injection h with h; rw [← h]; first
      | exact ⟨rfl, rfl⟩
      | exact State.spdm_outer ..
      | simp [State.spdm_outer]
      | grind [State.spdm_outer])

end Sys2Proof.Machine
end

