-- ==== Sys2Proof/Laws/Frames/Configs.lean ====
section
/-! SUPPORT. Frames of configuration and firmware: the queue of commands and the pins are outside what they write. -/

set_option linter.unusedSimpArgs false
set_option linter.unusedVariables false
set_option linter.unusedTactic false
set_option linter.unreachableTactic false

namespace Sys2Proof.Machine

theorem State.cfgReply_outer (s : State) (h : Pkt) (st : Status) : (State.cfgReply s h st).pins = s.pins ∧
    (State.cfgReply s h st).pending = s.pending := by
  grind [State.cfgReply, State.replyS_outer]

theorem State.stageDone_outer (s : State) (h : Pkt) (x : Except Status CfgSet) :
    (s.stageDone h x).pins = s.pins ∧ (s.stageDone h x).pending = s.pending := by
  cases x with
  | ok c => exact State.cfgReply_outer { s with cfg := { s.cfg with shadow := some c } } h .ok
  | error st => exact State.cfgReply_outer { s with cfg := { s.cfg with shadow := none } } h st

theorem execConfigStage_outer (h : Pkt) (source : Byte) (addr : W64) (len : W32) (s : State) (r : State)
    (h : execConfigStage h source addr len s = .next r) : r.pins = s.pins ∧ r.pending = s.pending := by
  grind [execConfigStage, State.hbmRead_outer, State.host_outer, State.stageDone_outer]

theorem State.darken_outer (s : State) : (State.darken s).pins = s.pins ∧ (State.darken s).pending = s.pending := by
  simp [State.darken]

theorem State.flip_outer (s : State) (new : CfgSet) : (State.flip s new).pins = s.pins ∧ (State.flip s new).pending =
    s.pending := by
  simp [State.flip, State.modQuad_outer, State.darken_outer, foldl_outer]

theorem execConfigSwap_outer (h : Pkt) (fenceOk : Bool) (s r : State) (e : execConfigSwap h fenceOk s = .next r) :
    r.pins = s.pins ∧ r.pending = s.pending := by
  unfold execConfigSwap at e
  split at e
  · injection e with e; rw [← e]; exact ⟨rfl, rfl⟩
  · injection e with e; rw [← e]
    refine State.host_outer _ _ _ _ _ _ (fun c s => ?_)
    split
    · exact State.cfgReply_outer ..
    · next c _ =>
      refine ite_holds (fun x : State => x.pins = s.pins ∧ x.pending = s.pending) (State.cfgReply_outer s h .rejected)
        (ite_holds (fun x : State => x.pins = s.pins ∧ x.pending = s.pending) ?_ ⟨rfl, rfl⟩)
      exact outer_trans (State.flip_outer s c) (State.cfgReply_outer _ h .ok)

theorem execConfigFenceTimeout_outer (s : State) (r : State) (h : execConfigFenceTimeout s = .next r) : r.pins =
    s.pins ∧ r.pending = s.pending := by
  (try simp only [execConfigFenceTimeout] at h); (try (repeat' split at h)) <;> (injection h with h; rw [← h]; first
      | exact ⟨rfl, rfl⟩
      | exact State.cfgReply_outer ..
      | simp [State.cfgReply_outer]
      | grind [State.cfgReply_outer])

theorem execFwStage_outer (h : Pkt) (pa : W64) (len : W32) (s : State) (r : State)
    (h : execFwStage h pa len s = .next r) : r.pins = s.pins ∧ r.pending = s.pending := by
  grind [execFwStage, State.hbmRead_outer, State.replyS_outer, State.host_outer]

theorem execFwActivate_outer (h : Pkt) (s : State) (r : State) (h : execFwActivate h s = .next r) : r.pins = s.pins ∧
    r.pending = s.pending := by
  grind [execFwActivate, State.replyS_outer, State.host_outer]

theorem execCommandInterpretationResumes_outer (s : State) (r : State)
    (h : execCommandInterpretationResumes s = .next r) : r.pins = s.pins ∧ r.pending = s.pending := by
  (try simp only [execCommandInterpretationResumes] at h); (try (repeat' split at h)) <;> (injection h with h; rw [← h]; first
      | exact ⟨rfl, rfl⟩
      | exact State.reply_outer ..
      | simp [State.reply_outer]
      | grind [State.reply_outer])

end Sys2Proof.Machine
end

