-- ==== Sys2Proof/Laws/Frames/Observe.lean ====
section
/-! SUPPORT. Frames of observability: the queue of commands and the pins are outside what they write. -/

set_option linter.unusedSimpArgs false
set_option linter.unusedVariables false
set_option linter.unusedTactic false
set_option linter.unreachableTactic false

namespace Sys2Proof.Machine

theorem execCounterSnapshot_outer (h : Pkt) (instant : W64) (s : State) (r : State)
    (h : execCounterSnapshot h instant s = .next r) : r.pins = s.pins ∧ r.pending = s.pending := by
  cases h; refine State.host_outer _ _ _ _ _ _ (fun a b => ?_); ((try dsimp only); (try (repeat' split)) <;> first
      | exact ⟨rfl, rfl⟩
      | simp [State.replyS_outer]
      | grind [State.replyS_outer])

theorem execCounterSnapshotLatch_outer (s : State) (r : State) (h : execCounterSnapshotLatch s = .next r) : r.pins =
    s.pins ∧ r.pending = s.pending := by
  (try simp only [execCounterSnapshotLatch] at h); (try (repeat' split at h)) <;> (injection h with h; rw [← h]; first
      | exact ⟨rfl, rfl⟩
      | exact State.reply_outer ..
      | simp [State.reply_outer]
      | grind [State.reply_outer])

theorem execTraceStart_outer (h : Pkt) (source ctx : Byte) (base : W64) (size : W32) (s : State) (r : State)
    (h : execTraceStart h source ctx base size s = .next r) : r.pins = s.pins ∧ r.pending = s.pending := by
  cases h; refine State.host_outer _ _ _ _ _ _ (fun a b => ?_); ((try dsimp only); (try (repeat' split)) <;> first
      | exact ⟨rfl, rfl⟩
      | simp [State.modCore_outer, State.traceSync_outer, State.replyS_outer, foldl_outer]
      | grind [State.modCore_outer, State.traceSync_outer, State.replyS_outer, foldl_outer])

theorem execTraceStop_outer (h : Pkt) (s : State) (r : State) (h : execTraceStop h s = .next r) : r.pins = s.pins ∧
    r.pending = s.pending := by
  cases h; refine State.host_outer _ _ _ _ _ _ (fun a b => ?_); ((try dsimp only); (try (repeat' split)) <;> first
      | exact ⟨rfl, rfl⟩
      | simp [State.replyS_outer]
      | grind [State.replyS_outer])

theorem State.takeDump_outer (s : State) (c t unit dom : Nat) : (State.takeDump s c t unit dom).pins = s.pins ∧
    (State.takeDump s c t unit dom).pending = s.pending := by
  simp [State.takeDump, State.used_outer]

theorem execDumpRead_outer (h : Pkt) (handle dst : W64) (len : W32) (s : State) (r : State)
    (h : execDumpRead h handle dst len s = .next r) : r.pins = s.pins ∧ r.pending = s.pending := by
  cases h; refine State.host_outer _ _ _ _ _ _ (fun a b => ?_); ((try dsimp only); (try (repeat' split)) <;> first
      | exact ⟨rfl, rfl⟩
      | simp [State.hbmWrite_outer, State.reply_outer, State.replyS_outer]
      | grind [State.hbmWrite_outer, State.reply_outer, State.replyS_outer])

theorem State.hangTile_outer (s : State) (t unit dom : Nat) (ev : State → Nat → State)
    (he : ∀ s n, (ev s n).pins = s.pins ∧ (ev s n).pending = s.pending) :
    (s.hangTile t unit dom ev).pins = s.pins ∧ (s.hangTile t unit dom ev).pending = s.pending := by
  unfold State.hangTile
  extract_lets c s1 h s2 s3
  have h1 : s1.pins = s.pins ∧ s1.pending = s.pending := foldl_outer _ (fun _ _ => State.modCore_outer ..) _ _
  have h3 : s3.pins = s.pins ∧ s3.pending = s.pending :=
    outer_trans (outer_trans (outer_trans h1 (State.takeDump_outer s1 c t unit dom)) (he _ h)) (State.endNow_outer s2 t .timeout)
  exact outer_trans (outer_trans h3 (foldl_outer _ (fun _ _ => State.cancelOthers_outer ..) _ _)) (State.resetTile_outer _ t)

theorem execHang_steady (d : Domain) (unit : Byte) (timedNs : Nat) (s r : State) (h : execHang d unit timedNs s = .next r) :
    Steady s r := by
  unfold execHang at h
  extract_lets us ev at h
  have he : ∀ s c n, (ev s c n).pins = s.pins ∧ (ev s c n).pending = s.pending := fun s c n => State.raise_outer ..
  clear_value ev
  by_cases hc : (!s.running || decide (timedNs < us * 1000) || !s.mayStall d unit.toNat) = true
  · rw [if_pos hc] at h; injection h with h; rw [← h]; exact steady_of_outer ⟨rfl, rfl⟩
  · rw [if_neg hc] at h
    cases d <;> injection h with h <;> rw [← h]
    · exact steady_of_outer (State.hangTile_outer _ _ _ _ _ (fun _ _ => he _ _ _))
    · exact steady_of_outer (State.hangTile_outer _ _ _ _ _ (fun _ _ => he _ _ _))
    · exact steady_of_outer (outer_trans (he s none 0) (State.stackDown_outer _ _))
    · exact steady_of_outer (outer_trans (he s none 0) (State.portReset_outer _))
    · exact steady_of_outer (outer_trans (outer_trans (he s none 0) (State.modFar_outer _ _ _)) (State.failFarWrites_outer _ _))
    · exact steady_of_outer (outer_trans (he s none 0) (State.portDown_outer _ _ _))
    · exact steady_of_outer (outer_trans (he s none 0) (State.saddleDown_outer _ _))
    · exact steady_trans (steady_of_outer (he s none 0)) (State.hardReset_steady _)
    · exact steady_trans (steady_of_outer (he s none 0)) (State.hardReset_steady _)

end Sys2Proof.Machine
end

