-- ==== Sys2Proof/Laws/Frames/Boot.lean ====
section
/-! SUPPORT. Frames of pins, boot and JTAG: the queue of commands and the pins are outside what they write. -/

set_option linter.unusedSimpArgs false
set_option linter.unusedVariables false
set_option linter.unusedTactic false
set_option linter.unreachableTactic false

namespace Sys2Proof.Machine

theorem State.pinReset_outer (s : State) : (State.pinReset s).pins = s.pins ∧ (State.pinReset s).pending = s.pending
    := by
  unfold State.pinReset; split <;> simp [State.chipReset_outer]

theorem execTrayResetNAssert_steady (widthNs : Nat) (s r : State) (h : execTrayResetNAssert widthNs s = .next r) : Steady s r := by
  unfold execTrayResetNAssert at h
  extract_lets q p at h
  injection h with h
  rw [← h]
  split
  · exact steady_trans (b := { q with pins := { q.pins with trayResetN := false, qspiHighZ := true } })
      ⟨rfl, rfl, rfl, fun x => x, fun x => x⟩ (steady_of_outer (State.pinReset_outer _))
  · exact steady_of_outer (State.used_outer s 1)

theorem execPerstNAssert_steady (widthNs : Nat) (s r : State) (h : execPerstNAssert widthNs s = .next r) : Steady s r := by
  unfold execPerstNAssert at h
  extract_lets q p p' at h
  have hp : Steady s p' := ⟨rfl, rfl, rfl, fun x => x, fun x => x⟩
  injection h with h
  rw [← h]
  split
  · split
    · exact steady_trans hp (steady_of_outer (State.pinReset_outer _))
    · exact hp
  · exact steady_of_outer (State.used_outer s 1)

theorem execPerstNRelease_steady (s r : State) (h : execPerstNRelease s = .next r) : Steady s r := by
  injection h with h
  rw [← h]
  split
  all_goals exact ⟨rfl, rfl, rfl, fun x => x, fun x => x⟩

theorem execPwrgoodFall_steady (widthNs : Nat) (s r : State) (h : execPwrgoodFall widthNs s = .next r) : Steady s r := by
  unfold execPwrgoodFall at h
  extract_lets q p at h
  generalize ha : State.allQuadsOff _ = y at h
  have hy : Steady s y := ha ▸ steady_trans (b := { q with pins := { q.pins with pwrgood := false } })
    ⟨rfl, rfl, rfl, fun x => x, fun x => x⟩ (steady_of_outer (outer_trans (State.pinReset_outer _) (State.allQuadsOff_outer _)))
  injection h with h
  rw [← h]
  split
  · exact hy
  · exact steady_of_outer (State.used_outer s 1)

theorem execPwrgoodRise_steady (s r : State) (h : execPwrgoodRise s = .next r) : Steady s r := by
  injection h with h
  rw [← h]
  split
  all_goals exact ⟨rfl, rfl, rfl, fun x => x, fun x => x⟩

theorem execSupplyRemoval_pins (s r : State) (h : execSupplyRemoval s = .next r) :
    r.pending = s.pending ∧ r.pins = { State.reset.pins with supplies := false, pwrgood := false } := by
  injection h with h
  rw [← h]
  exact ⟨rfl, rfl⟩

theorem execSuppliesApplied_pins (strap0 strap1 : Bool) (s r : State) (h : execSuppliesApplied strap0 strap1 s = .next r) :
    r.pending = s.pending ∧ (r.pins = s.pins ∨ r.pins =
      { s.pins with supplies := true, straps := (if strap0 then 1 else 0) + (if strap1 then 2 else 0) }) := by
  unfold execSuppliesApplied at h
  split at h <;> injection h with h <;> rw [← h]
  · exact ⟨rfl, Or.inl rfl⟩
  · exact ⟨rfl, Or.inr rfl⟩

theorem execJtagExtest_pins (s r : State) (h : execJtagExtest s = .next r) :
    r.pending = s.pending ∧ r.pins.straps = s.pins.straps ∧ r.pins.faultN = s.pins.faultN ∧
      r.pins.thermtripN = s.pins.thermtripN ∧ (r.pins.jtag = s.pins.jtag ∨ r.pins.jtag = 3) := by
  unfold execJtagExtest at h
  injection h with h
  rw [← h]
  split
  · rw [(State.pinReset_outer _).1, (State.pinReset_outer _).2]; exact ⟨rfl, rfl, rfl, rfl, Or.inr rfl⟩
  · exact ⟨rfl, rfl, rfl, rfl, Or.inl rfl⟩

theorem execJtagIdcode_pins (s r : State) (h : execJtagIdcode s = .next r) :
    r.pending = s.pending ∧ r.pins.straps = s.pins.straps ∧ r.pins.faultN = s.pins.faultN ∧
      r.pins.thermtripN = s.pins.thermtripN ∧ (r.pins.jtag = s.pins.jtag ∨ r.pins.jtag = 1) := by
  unfold execJtagIdcode at h
  injection h with h
  rw [← h]
  split
  · exact ⟨rfl, rfl, rfl, rfl, Or.inr rfl⟩
  · exact ⟨rfl, rfl, rfl, rfl, Or.inl rfl⟩

theorem execJtagBypass_pins (code : Byte) (s r : State) (h : execJtagBypass code s = .next r) :
    r.pending = s.pending ∧ r.pins.straps = s.pins.straps ∧ r.pins.faultN = s.pins.faultN ∧
      r.pins.thermtripN = s.pins.thermtripN ∧ (r.pins.jtag = s.pins.jtag ∨ r.pins.jtag = 0) := by
  unfold execJtagBypass at h
  injection h with h
  rw [← h]
  split
  · exact ⟨rfl, rfl, rfl, rfl, Or.inr rfl⟩
  · exact ⟨rfl, rfl, rfl, rfl, Or.inl rfl⟩

theorem execJtagSamplePreload_pins (ps preload : List Bool) (s r : State) (h : execJtagSamplePreload ps preload s = .next r) :
    r.pending = s.pending ∧ r.pins.straps = s.pins.straps ∧ r.pins.faultN = s.pins.faultN ∧
      r.pins.thermtripN = s.pins.thermtripN ∧ (r.pins.jtag = s.pins.jtag ∨ r.pins.jtag = 2) := by
  unfold execJtagSamplePreload at h
  injection h with h
  rw [← h]
  split
  · exact ⟨rfl, rfl, rfl, rfl, Or.inr rfl⟩
  · exact ⟨rfl, rfl, rfl, rfl, Or.inl rfl⟩

theorem State.bootFails_steady (s : State) (b : BootInputs) (code : Nat) : Steady s (s.bootFails b code) :=
  State.assertFault_steady s

theorem State.selfTest_outer (s : State) (b : BootInputs) : (State.selfTest s b).pins = s.pins ∧
    (State.selfTest s b).pending = s.pending := by
  simp [State.selfTest, State.modTile_outer, State.modQuad_outer, State.modStack_outer, foldl_outer]

theorem State.trainHbm_outer (s : State) (b : BootInputs) : (State.trainHbm s b).pins = s.pins ∧
    (State.trainHbm s b).pending = s.pending := by
  simp [State.trainHbm, State.modStack_outer, foldl_outer]

theorem State.enumerate_outer (s : State) (b : BootInputs) : (State.enumerate s b).pins = s.pins ∧
    (State.enumerate s b).pending = s.pending := by
  simp [State.enumerate, State.modFar_outer, State.modOhm_outer, foldl_outer]

theorem State.bootEvents_outer (s : State) (b : BootInputs) : (State.bootEvents s b).pins = s.pins ∧
    (State.bootEvents s b).pending = s.pending := by
  simp [State.bootEvents, State.raiseAll_outer, State.res_outer, State.row_outer]

theorem State.bootRuns_steady (s : State) (b : BootInputs) : Steady s (s.bootRuns b) := by
  unfold State.bootRuns
  split
  · exact State.bootFails_steady ..
  · extract_lets k l s1 v w c s2 s3
    have h1 : s1.pins = s.pins ∧ s1.pending = s.pending :=
      outer_trans (outer_trans (State.selfTest_outer s b) (State.trainHbm_outer _ b)) (State.enumerate_outer _ b)
    clear_value s1
    have h3 : s3.pins = s.pins ∧ s3.pending = s.pending := outer_trans (b := s2) h1 (State.bootEvents_outer s2 b)
    exact steady_of_outer h3

theorem execTrayResetNRelease_steady (testN : Bool) (b : BootInputs) (s r : State) (h : execTrayResetNRelease testN b s = .next r) : Steady s r := by
  unfold execTrayResetNRelease at h
  extract_lets was p bt q at h
  have hq : Steady s q := ⟨rfl, rfl, rfl, fun x => x, fun x => x⟩
  injection h with h
  rw [← h]
  split
  · exact steady_trans hq (State.bootRuns_steady _ b)
  · exact hq

theorem execStewardFirmwareReady_outer (s : State) (r : State) (h : execStewardFirmwareReady s = .next r) : r.pins =
    s.pins ∧ r.pending = s.pending := by
  (try simp only [execStewardFirmwareReady] at h); (try (repeat' split at h)) <;> (injection h with h; rw [← h]; first
      | exact ⟨rfl, rfl⟩
      | simp []
      | grind [])

end Sys2Proof.Machine
end

