-- ==== Sys2Proof/Laws/Frames/Tick.lean ====
section
/-! SUPPORT. Frames of the tick: the queue of commands and the pins are outside what they write. -/

set_option linter.unusedSimpArgs false
set_option linter.unusedVariables false
set_option linter.unusedTactic false
set_option linter.unreachableTactic false

namespace Sys2Proof.Machine

theorem State.tick_outer (s : State) : (State.tick s).pins = s.pins ∧ (State.tick s).pending = s.pending := by
  unfold State.tick; split <;> simp [State.pumpResets_outer, State.pumpDisables_outer]

end Sys2Proof.Machine
end

