-- ==== Sys2Proof/Laws/Host.lean ====
section
/-! SUPPORT. What the taking of a host command does, said once. -/

namespace Sys2Proof.Machine

/-- An accepted command runs its body on the state with the command taken. -/
theorem State.host_accepted {s : State} {h : Pkt} {d work ok : Bool} (ha : s.accepts h d work ok = true)
    (body : Nat → State → State) : s.host h d work ok body = body (s.pktCtx h) (s.take h) := by
  simp only [State.accepts, Bool.and_eq_true, Option.isNone_iff_eq_none] at ha
  obtain ⟨⟨h1, h2⟩, h3⟩ := ha
  simp only [State.host, h1, h2, h3, Bool.not_true, Bool.false_eq_true, ↓reduceIte, State.pktCtx_take]

end Sys2Proof.Machine
end

