-- ==== Sys2Proof/WellFormed.lean ====
section
/-! DEFINITION. Which commands can stand on the block's inputs: the bounds the spec puts on operands whose field is wider
than what can arrive. An operand that a command itself checks and answers (R293) has no bound here. -/

namespace Sys2Proof

/-- The bounds of a command's operands, as pairs of a number and what it stays below: ports OL0 to OL11, a flit's
256 B (R368), a packet's payload of up to 4,096 B (R373), the four adapters of a SEQ_OPEN (R304), a nonce of 32 B (R362), a line
of 64 B (R185, R359), a batch of 32 elements (R210), voltage codes up to 80 (R419). -/
def Instr.ranges : Instr → List (Nat × Nat)
  | .deviceQuery _ => []
  | .deviceNop _ => []
  | .ctxCreate _ _ _ _ _ _ => []
  | .ctxDestroy _ => []
  | .ctxReset _ => []
  | .ctxQuery _ _ => []
  | .ctxResume _ => []
  | .ctxFaultAbort _ => []
  | .memMap _ _ _ _ _ _ => []
  | .memUnmap _ _ _ => []
  | .memSwapOut _ _ _ _ => []
  | .modelPlace _ _ _ _ _ _ => []
  | .modelRemove _ _ => []
  | .variantLoad _ _ _ _ _ _ => []
  | .variantRemove _ _ _ => []
  | .adapterLoad _ _ _ _ _ _ _ => []
  | .adapterRemove _ _ _ => []
  | .seqOpen _ _ _ _ _ nAds ads _ _ _ => [(min nAds.toNat 4, ads.length + 1), (ads.length, 5)]
  | .seqStep _ _ _ _ _ _ _ _ _ => []
  | .seqCancelEpoch _ _ => []
  | .seqCancelSequence _ _ => []
  | .seqClose _ _ => []
  | .prefixSave _ _ _ _ => []
  | .prefixRemove _ _ => []
  | .seqQuery _ _ => []
  | .frameSubmit _ _ _ _ _ _ _ _ _ _ _ => []
  | .frameCancel _ _ => []
  | .kernelLoad _ _ _ _ => []
  | .kernelLaunch _ _ _ _ _ _ _ => []
  | .syncCreate _ _ _ _ _ _ _ _ => []
  | .syncDestroy _ _ _ => []
  | .signalAdd _ _ _ => []
  | .signalWait _ _ _ _ => []
  | .signalWaitLimit _ _ => []
  | .configStage _ _ _ _ => []
  | .configSwap _ _ => []
  | .configFenceTimeout => []
  | .functionDisable _ _ _ _ => []
  | .functionEnable _ _ _ _ _ => []
  | .fwStage _ _ _ => []
  | .fwActivate _ => []
  | .engineReset _ _ => []
  | .partitionReset _ _ => []
  | .counterSnapshot _ _ => []
  | .counterSnapshotLatch => []
  | .dumpRead _ _ _ _ => []
  | .traceStart _ _ _ _ _ => []
  | .traceStop _ => []
  | .qpEnable _ _ => []
  | .qpDisable _ _ => []
  | .sqTail _ _ _ => []
  | .cqHead _ _ => []
  | .msixCoalesceTimer _ => []
  | .chipResetWrite _ => []
  | .commonCountLowRead => []
  | .evtHeadWrite _ => []
  | .traceHeadWrite _ => []
  | .registerWrite _ _ _ => []
  | .hdmDecoderCommit _ _ => []
  | .configRequest _ _ _ => []
  | .cxlMemRead _ len _ _ => [(len.toNat, 65)]
  | .cxlMemWrite _ data _ _ => [(data.length, 65)]
  | .hostSnoop _ => []
  | .hotReset => []
  | .doeAbort => []
  | .getVersion => []
  | .getCapabilities => []
  | .negotiateAlgorithms => []
  | .getDigests => []
  | .getCertificate _ => []
  | .challenge _ nonce => [(32, nonce.length + 1), (nonce.length, 33)]
  | .getMeasurements _ nonce => [(32, nonce.length + 1), (nonce.length, 33)]
  | .spdmUnsupportedRequest _ => []
  | .pwrNow => []
  | .tjMax _ => []
  | .hbmTmax => []
  | .trayLimitWRead => []
  | .trayLimitWWrite _ => []
  | .pwrStatus => []
  | .alertMaskRead => []
  | .alertMaskWrite _ => []
  | .jtagExtest => []
  | .jtagIdcode => []
  | .jtagBypass _ => []
  | .jtagSamplePreload _ _ => []
  | .trayResetNRelease _ _ => []
  | .perstNAssert _ => []
  | .pwrgoodFall _ => []
  | .supplyRemoval => []
  | .resetEscalation => []
  | .workItemStart _ _ => []
  | .frameStart _ => []
  | .frameDeadline _ => []
  | .workCommandComplete _ => []
  | .requestRerun _ => []
  | .slotPreempt _ => []
  | .slotResume _ _ => []
  | .epochResolve _ => []
  | .epochToken m _ _ _ _ => [(m.via.toNat, 12)]
  | .epochTokenApply _ => []
  | .epochAckTimeout _ => []
  | .alu _ _ _ _ _ _ _ => []
  | .addi _ _ _ _ _ => []
  | .andi _ _ _ _ _ => []
  | .ori _ _ _ _ _ => []
  | .xori _ _ _ _ _ => []
  | .shi _ _ _ _ _ => []
  | .li _ _ _ _ => []
  | .lis _ _ _ _ => []
  | .ld _ _ _ _ _ _ _ => []
  | .st _ _ _ _ _ _ => []
  | .ldf _ _ _ _ _ _ _ => []
  | .stf _ _ _ _ _ _ => []
  | .cmp _ _ _ _ _ _ _ => []
  | .cmpi _ _ _ _ _ => []
  | .plog _ _ _ _ _ _ _ => []
  | .br _ _ _ _ _ => []
  | .call _ _ _ _ _ => []
  | .jr _ _ _ _ _ _ => []
  | .fop _ _ _ _ _ _ _ => []
  | .fcmp _ _ _ _ _ _ _ => []
  | .fmv _ _ _ _ _ _ _ => []
  | .hash _ _ _ _ _ _ _ => []
  | .rdraw _ _ _ _ _ _ => []
  | .rctr _ _ _ _ _ _ => []
  | .rctw _ _ _ _ _ => []
  | .csrr _ _ _ _ _ => []
  | .csrw _ _ _ _ => []
  | .cntr _ _ _ _ _ _ _ => []
  | .yield _ _ _ => []
  | .workNext _ _ _ => []
  | .eventPost _ _ _ => []
  | .svcUnlisted _ _ _ _ => []
  | .halt _ _ _ _ _ _ => []
  | .descw _ _ _ _ _ _ => []
  | .tkstat _ _ _ _ _ _ _ => []
  | .bundle _ _ _ _ => []
  | .syncWaitExpiry _ => []
  | .pendingResultArrival _ _ => []
  | .branchResolve _ => []
  | .coreStop _ _ => []
  | .lockstepMismatch _ _ => []
  | .stepOperationBegin _ => []
  | .tritStep _ _ _ => []
  | .outlierDigitStep _ _ _ => []
  | .planeToken _ _ _ => []
  | .checkComparison _ => []
  | .blockLoad _ _ => []
  | .slotCopyLoad _ _ => []
  | .planeBlockLoad _ _ => []
  | .drainBegin _ _ => []
  | .drainRow _ _ _ _ => []
  | .queueRowWrite _ => []
  | .chainRunBegin _ _ => []
  | .vectorBeat _ _ _ => []
  | .queueRowConsume _ => []
  | .lookupSlotLoad _ _ => []
  | .transferBegin _ _ _ => []
  | .elementBatch _ _ n _ _ => [(n.toNat, 33)]
  | .translationWalk _ _ _ _ => []
  | .writeAcknowledged _ _ => []
  | .pageSwapIn _ _ _ => []
  | .remotePortRequest _ _ _ data _ _ => [(data.length, 65)]
  | .scrubAccess _ _ _ _ => []
  | .quadReturnScrubPass _ _ => []
  | .verifyingPass _ _ => []
  | .weightReload _ _ => []
  | .route _ => []
  | .combine _ => []
  | .abandon _ => []
  | .kvAppend _ => []
  | .kvRecvOpen _ => []
  | .windowDeadline _ _ => []
  | .windowCloseComplete _ _ => []
  | .intAddOperand _ _ _ => []
  | .fp32TreeOperand _ _ _ => []
  | .unorderedAdd _ _ _ => []
  | .hbmPatrol _ _ _ _ => []
  | .hbmStackUnavailable _ => []
  | .farReadTimeout _ _ => []
  | .farWriteFailure _ _ _ => []
  | .hostReadTimeout _ _ => []
  | .dataFlit port _ bytes => [(port.toNat, 12), (bytes.length, 257)]
  | .retryRequest port _ bytes => [(port.toNat, 12), (bytes.length, 257)]
  | .idleFlit port _ bytes => [(port.toNat, 12), (bytes.length, 257)]
  | .trainingControl port _ bytes => [(port.toNat, 12), (bytes.length, 257)]
  | .linkTraining port _ _ => [(port.toNat, 12)]
  | .linkDown port => [(port.toNat, 12)]
  | .packetInject _ _ _ => []
  | .transitForward port pk => [(port.toNat, 12), (pk.payload.length, 4097)]
  | .write port pk => [(port.toNat, 12), (pk.payload.length, 4097)]
  | .int32Add port pk => [(port.toNat, 12), (pk.payload.length, 4097)]
  | .int64Add port pk => [(port.toNat, 12), (pk.payload.length, 4097)]
  | .fp32Add port pk => [(port.toNat, 12), (pk.payload.length, 4097)]
  | .acknowledgement pk => [(pk.payload.length, 4097)]
  | .refusal pk => [(pk.payload.length, 4097)]
  | .retryLater pk => [(pk.payload.length, 4097)]
  | .retryLaterTimer _ _ => []
  | .resendTimeout _ _ => []
  | .flowForget _ _ _ _ => []
  | .linkStateNotice m port _ => [(m.via.toNat, 12), (port.toNat, 12)]
  | .generationNotice m _ _ _ => [(m.via.toNat, 12)]
  | .barrierArrivalForward m _ _ _ => [(m.via.toNat, 12)]
  | .barrierCompletion m _ _ _ => [(m.via.toNat, 12)]
  | .barrierTimeout _ _ => []
  | .timeExchange => []
  | .timeExchangeReply m _ _ _ => [(m.via.toNat, 12)]
  | .timeAheadNotice m _ => [(m.via.toNat, 12)]
  | .checkPeerExchange _ => []
  | .rateMonitorWindow _ _ _ v => [(v.toNat, 81)]
  | .governorEvaluation _ _ => []
  | .efficiencyMeasurement _ _ => []
  | .powerMeasurement _ _ _ => []
  | .powerLimiterStep => []
  | .thermalLimiterStep _ _ => []
  | .thermtrip _ => []
  | .regulatorWindow _ _ code _ => [(code.toNat, 81)]
  | .hang _ _ _ => []
  | .saddleFailed _ => []
  | .trayResetNAssert _ => []
  | .perstNRelease => []
  | .pwrgoodRise => []
  | .suppliesApplied _ _ => []
  | .stewardFirmwareReady => []
  | .commandInterpretationResumes => []
  | .epochTokenAcknowledgement m _ => [(m.via.toNat, 12)]
  | .timeExchangeAtParent m _ _ => [(m.via.toNat, 12)]
  | .sourceReadReturn _ _ _ _ _ => []
  | .outOfConditions _ => []
  | .hbmDoubledRefresh _ _ => []

/-- A well-formed command: every operand is within its bound. -/
def Instr.wf (i : Instr) : Bool := i.ranges.all (fun e => decide (e.1 < e.2))

end Sys2Proof
end

