-- ==== Sys2Proof/Laws/PerInstr.lean ====
section
/-! SUPPORT. The family WF, one lemma per command: the check of a command's form says exactly that every operand is within
its bound. -/

namespace Sys2Proof.Laws.WF

/-- The check accepts a command exactly when each of its operands is within its bound. -/
def Statement (i : Instr) : Prop := i.wf = true ↔ ∀ e ∈ i.ranges, e.1 < e.2

/-- The check is the conjunction of the bounds, whatever the command. -/
theorem wf_iff_ranges (i : Instr) : Statement i := by
  simp [Statement, Instr.wf, List.all_eq_true]

theorem deviceQuery (h : Pkt) : Statement (.deviceQuery h) := wf_iff_ranges _
theorem deviceNop (h : Pkt) : Statement (.deviceNop h) := wf_iff_ranges _
theorem ctxCreate (h : Pkt) (seed : W64) (part : Byte) (refMode : Bool) (swapBase : W64) (swapSize : W64) : Statement (.ctxCreate h seed part refMode swapBase swapSize) := wf_iff_ranges _
theorem ctxDestroy (h : Pkt) : Statement (.ctxDestroy h) := wf_iff_ranges _
theorem ctxReset (h : Pkt) : Statement (.ctxReset h) := wf_iff_ranges _
theorem ctxQuery (h : Pkt) (clear : Bool) : Statement (.ctxQuery h clear) := wf_iff_ranges _
theorem ctxResume (h : Pkt) : Statement (.ctxResume h) := wf_iff_ranges _
theorem ctxFaultAbort (h : Pkt) : Statement (.ctxFaultAbort h) := wf_iff_ranges _
theorem memMap (h : Pkt) (va : W64) (pa : W64) (len : W64) (pageSize : Byte) (leaf : Byte) : Statement (.memMap h va pa len pageSize leaf) := wf_iff_ranges _
theorem memUnmap (h : Pkt) (va : W64) (len : W64) : Statement (.memUnmap h va len) := wf_iff_ranges _
theorem memSwapOut (h : Pkt) (va : W64) (len : W64) (backing : W64) : Statement (.memSwapOut h va len backing) := wf_iff_ranges _
theorem modelPlace (h : Pkt) (recPa : W64) (recLen : W64) (part : Byte) (model : W16) (ext : Ext) : Statement (.modelPlace h recPa recLen part model ext) := wf_iff_ranges _
theorem modelRemove (h : Pkt) (model : W16) : Statement (.modelRemove h model) := wf_iff_ranges _
theorem variantLoad (h : Pkt) (model : W16) (variant : W16) (va : W64) (len : W64) (ext : Ext) : Statement (.variantLoad h model variant va len ext) := wf_iff_ranges _
theorem variantRemove (h : Pkt) (model : W16) (variant : W16) : Statement (.variantRemove h model variant) := wf_iff_ranges _
theorem adapterLoad (h : Pkt) (model : W16) (adapter : W16) (va : W64) (len : W64) (outVa : W64) (ext : LayerExt) : Statement (.adapterLoad h model adapter va len outVa ext) := wf_iff_ranges _
theorem adapterRemove (h : Pkt) (model : W16) (adapter : W16) : Statement (.adapterRemove h model adapter) := wf_iff_ranges _
theorem seqOpen (h : Pkt) (model : W16) (variant : W16) (maxLen : W32) (cls : Byte) (nAds : Byte) (ads : List W16) (target : W32) (pfx : W64) (adm : Admission) : Statement (.seqOpen h model variant maxLen cls nAds ads target pfx adm) := wf_iff_ranges _
theorem seqStep (h : Pkt) (handle : W32) (posM1 : BitVec 6) (drafts : BitVec 6) (tokVa : W64) (outVa : W64) (argVa : W64) (plan : List Byte) (ext : Ext) : Statement (.seqStep h handle posM1 drafts tokVa outVa argVa plan ext) := wf_iff_ranges _
theorem seqCancelEpoch (h : Pkt) (handle : W32) : Statement (.seqCancelEpoch h handle) := wf_iff_ranges _
theorem seqCancelSequence (h : Pkt) (handle : W32) : Statement (.seqCancelSequence h handle) := wf_iff_ranges _
theorem seqClose (h : Pkt) (handle : W32) : Statement (.seqClose h handle) := wf_iff_ranges _
theorem prefixSave (h : Pkt) (handle : W32) (len : W32) (pfx : W64) : Statement (.prefixSave h handle len pfx) := wf_iff_ranges _
theorem prefixRemove (h : Pkt) (pfx : W64) : Statement (.prefixRemove h pfx) := wf_iff_ranges _
theorem seqQuery (h : Pkt) (handle : W32) : Statement (.seqQuery h handle) := wf_iff_ranges _
theorem frameSubmit (h : Pkt) (model : W16) (cls : Byte) (runLate : Bool) (frame : W32) (deadline : W64) (inVa : W64) (outVa : W64) (argVa : W64) (predicted : W64) (plan : List Byte) : Statement (.frameSubmit h model cls runLate frame deadline inVa outVa argVa predicted plan) := wf_iff_ranges _
theorem frameCancel (h : Pkt) (frame : W32) : Statement (.frameCancel h frame) := wf_iff_ranges _
theorem kernelLoad (h : Pkt) (va : W64) (len : W64) (ext : Ext) : Statement (.kernelLoad h va len ext) := wf_iff_ranges _
theorem kernelLaunch (h : Pkt) (glens : W16) (tiles : W16) (entry : W32) (argsVa : W64) (resVa : W64) (ext : Ext) : Statement (.kernelLaunch h glens tiles entry argsVa resVa ext) := wf_iff_ranges _
theorem syncCreate (h : Pkt) (kind : Byte) (flags : Byte) (ident : W16) (count : W32) (initial : W64) (home : W16) (model : W16) : Statement (.syncCreate h kind flags ident count initial home model) := wf_iff_ranges _
theorem syncDestroy (h : Pkt) (kind : Byte) (ident : W16) : Statement (.syncDestroy h kind ident) := wf_iff_ranges _
theorem signalAdd (h : Pkt) (ident : W16) (amount : W64) : Statement (.signalAdd h ident amount) := wf_iff_ranges _
theorem signalWait (h : Pkt) (ident : W16) (target : W64) (limitUs : W32) : Statement (.signalWait h ident target limitUs) := wf_iff_ranges _
theorem signalWaitLimit (qp : BitVec 12) (cmdId : W32) : Statement (.signalWaitLimit qp cmdId) := wf_iff_ranges _
theorem configStage (h : Pkt) (source : Byte) (addr : W64) (len : W32) : Statement (.configStage h source addr len) := wf_iff_ranges _
theorem configSwap (h : Pkt) (fenceOk : Bool) : Statement (.configSwap h fenceOk) := wf_iff_ranges _
theorem configFenceTimeout : Statement (.configFenceTimeout) := wf_iff_ranges _
theorem functionDisable (h : Pkt) (kind : Byte) (mode : Byte) (index : W16) : Statement (.functionDisable h kind mode index) := wf_iff_ranges _
theorem functionEnable (h : Pkt) (kind : Byte) (index : W16) (device : Byte) (mem : FarMem) : Statement (.functionEnable h kind index device mem) := wf_iff_ranges _
theorem fwStage (h : Pkt) (pa : W64) (len : W32) : Statement (.fwStage h pa len) := wf_iff_ranges _
theorem fwActivate (h : Pkt) : Statement (.fwActivate h) := wf_iff_ranges _
theorem engineReset (h : Pkt) (tile : Byte) : Statement (.engineReset h tile) := wf_iff_ranges _
theorem partitionReset (h : Pkt) (part : Byte) : Statement (.partitionReset h part) := wf_iff_ranges _
theorem counterSnapshot (h : Pkt) (instant : W64) : Statement (.counterSnapshot h instant) := wf_iff_ranges _
theorem counterSnapshotLatch : Statement (.counterSnapshotLatch) := wf_iff_ranges _
theorem dumpRead (h : Pkt) (handle : W64) (dst : W64) (len : W32) : Statement (.dumpRead h handle dst len) := wf_iff_ranges _
theorem traceStart (h : Pkt) (source : Byte) (ctx : Byte) (base : W64) (size : W32) : Statement (.traceStart h source ctx base size) := wf_iff_ranges _
theorem traceStop (h : Pkt) : Statement (.traceStop h) := wf_iff_ranges _
theorem qpEnable (qp : BitVec 12) (value : W64) : Statement (.qpEnable qp value) := wf_iff_ranges _
theorem qpDisable (qp : BitVec 12) (value : W64) : Statement (.qpDisable qp value) := wf_iff_ranges _
theorem sqTail (qp : BitVec 12) (index : W16) (readOk : Bool) : Statement (.sqTail qp index readOk) := wf_iff_ranges _
theorem cqHead (qp : BitVec 12) (index : W16) : Statement (.cqHead qp index) := wf_iff_ranges _
theorem msixCoalesceTimer (qp : BitVec 12) : Statement (.msixCoalesceTimer qp) := wf_iff_ranges _
theorem chipResetWrite (key : W32) : Statement (.chipResetWrite key) := wf_iff_ranges _
theorem commonCountLowRead : Statement (.commonCountLowRead) := wf_iff_ranges _
theorem evtHeadWrite (head : BitVec 12) : Statement (.evtHeadWrite head) := wf_iff_ranges _
theorem traceHeadWrite (head : W32) : Statement (.traceHeadWrite head) := wf_iff_ranges _
theorem registerWrite (off : BitVec 26) (wide : Bool) (value : W64) : Statement (.registerWrite off wide value) := wf_iff_ranges _
theorem hdmDecoderCommit (base : W64) (ways : Byte) : Statement (.hdmDecoderCommit base ways) := wf_iff_ranges _
theorem configRequest (write : Bool) (reg : BitVec 12) (value : W32) : Statement (.configRequest write reg value) := wf_iff_ranges _
theorem cxlMemRead (addr : W64) (len : BitVec 7) (late : Bool) (upsets : List Upset) : Statement (.cxlMemRead addr len late upsets) := wf_iff_ranges _
theorem cxlMemWrite (addr : W64) (data : List Byte) (poison : Bool) (upsets : List Upset) : Statement (.cxlMemWrite addr data poison upsets) := wf_iff_ranges _
theorem hostSnoop (line : W64) : Statement (.hostSnoop line) := wf_iff_ranges _
theorem hotReset : Statement (.hotReset) := wf_iff_ranges _
theorem doeAbort : Statement (.doeAbort) := wf_iff_ranges _
theorem getVersion : Statement (.getVersion) := wf_iff_ranges _
theorem getCapabilities : Statement (.getCapabilities) := wf_iff_ranges _
theorem negotiateAlgorithms : Statement (.negotiateAlgorithms) := wf_iff_ranges _
theorem getDigests : Statement (.getDigests) := wf_iff_ranges _
theorem getCertificate (slot : BitVec 3) : Statement (.getCertificate slot) := wf_iff_ranges _
theorem challenge (slot : BitVec 3) (nonce : List Byte) : Statement (.challenge slot nonce) := wf_iff_ranges _
theorem getMeasurements (index : Byte) (nonce : List Byte) : Statement (.getMeasurements index nonce) := wf_iff_ranges _
theorem spdmUnsupportedRequest (code : Byte) : Statement (.spdmUnsupportedRequest code) := wf_iff_ranges _
theorem pwrNow : Statement (.pwrNow) := wf_iff_ranges _
theorem tjMax (col : Byte) : Statement (.tjMax col) := wf_iff_ranges _
theorem hbmTmax : Statement (.hbmTmax) := wf_iff_ranges _
theorem trayLimitWRead : Statement (.trayLimitWRead) := wf_iff_ranges _
theorem trayLimitWWrite (watts : W16) : Statement (.trayLimitWWrite watts) := wf_iff_ranges _
theorem pwrStatus : Statement (.pwrStatus) := wf_iff_ranges _
theorem alertMaskRead : Statement (.alertMaskRead) := wf_iff_ranges _
theorem alertMaskWrite (mask : Byte) : Statement (.alertMaskWrite mask) := wf_iff_ranges _
theorem jtagExtest : Statement (.jtagExtest) := wf_iff_ranges _
theorem jtagIdcode : Statement (.jtagIdcode) := wf_iff_ranges _
theorem jtagBypass (code : Byte) : Statement (.jtagBypass code) := wf_iff_ranges _
theorem jtagSamplePreload (pins : List Bool) (preload : List Bool) : Statement (.jtagSamplePreload pins preload) := wf_iff_ranges _
theorem trayResetNRelease (testN : Bool) (b : BootInputs) : Statement (.trayResetNRelease testN b) := wf_iff_ranges _
theorem perstNAssert (widthNs : Nat) : Statement (.perstNAssert widthNs) := wf_iff_ranges _
theorem pwrgoodFall (widthNs : Nat) : Statement (.pwrgoodFall widthNs) := wf_iff_ranges _
theorem supplyRemoval : Statement (.supplyRemoval) := wf_iff_ranges _
theorem resetEscalation : Statement (.resetEscalation) := wf_iff_ranges _
theorem workItemStart (work : Nat) (tile : Byte) : Statement (.workItemStart work tile) := wf_iff_ranges _
theorem frameStart (work : Nat) : Statement (.frameStart work) := wf_iff_ranges _
theorem frameDeadline (work : Nat) : Statement (.frameDeadline work) := wf_iff_ranges _
theorem workCommandComplete (work : Nat) : Statement (.workCommandComplete work) := wf_iff_ranges _
theorem requestRerun (work : Nat) : Statement (.requestRerun work) := wf_iff_ranges _
theorem slotPreempt (slot : BitVec 10) : Statement (.slotPreempt slot) := wf_iff_ranges _
theorem slotResume (slot : BitVec 10) (tagsOk : Bool) : Statement (.slotResume slot tagsOk) := wf_iff_ranges _
theorem epochResolve (slot : BitVec 10) : Statement (.epochResolve slot) := wf_iff_ranges _
theorem epochToken (m : MgmtHdr) (ctx : Byte) (epoch : W16) (commit : Bool) (count : BitVec 7) : Statement (.epochToken m ctx epoch commit count) := wf_iff_ranges _
theorem epochTokenApply (slot : BitVec 10) : Statement (.epochTokenApply slot) := wf_iff_ranges _
theorem epochAckTimeout (slot : BitVec 10) : Statement (.epochAckTimeout slot) := wf_iff_ranges _
theorem alu (t : Byte) (late : Bool) (rd : BitVec 5) (ra : BitVec 5) (rb : BitVec 5) (rc : BitVec 5) (fn : BitVec 5) : Statement (.alu t late rd ra rb rc fn) := wf_iff_ranges _
theorem addi (t : Byte) (late : Bool) (rd : BitVec 5) (ra : BitVec 5) (imm : BitVec 15) : Statement (.addi t late rd ra imm) := wf_iff_ranges _
theorem andi (t : Byte) (late : Bool) (rd : BitVec 5) (ra : BitVec 5) (imm : BitVec 15) : Statement (.andi t late rd ra imm) := wf_iff_ranges _
theorem ori (t : Byte) (late : Bool) (rd : BitVec 5) (ra : BitVec 5) (imm : BitVec 15) : Statement (.ori t late rd ra imm) := wf_iff_ranges _
theorem xori (t : Byte) (late : Bool) (rd : BitVec 5) (ra : BitVec 5) (imm : BitVec 15) : Statement (.xori t late rd ra imm) := wf_iff_ranges _
theorem shi (t : Byte) (late : Bool) (rd : BitVec 5) (ra : BitVec 5) (imm : BitVec 15) : Statement (.shi t late rd ra imm) := wf_iff_ranges _
theorem li (t : Byte) (late : Bool) (rd : BitVec 5) (imm : BitVec 20) : Statement (.li t late rd imm) := wf_iff_ranges _
theorem lis (t : Byte) (late : Bool) (rd : BitVec 5) (imm : BitVec 20) : Statement (.lis t late rd imm) := wf_iff_ranges _
theorem ld (t : Byte) (late : Bool) (rd : BitVec 5) (ra : BitVec 5) (imm : BitVec 12) (sz : BitVec 3) (upsets : List Upset) : Statement (.ld t late rd ra imm sz upsets) := wf_iff_ranges _
theorem st (t : Byte) (rd : BitVec 5) (ra : BitVec 5) (imm : BitVec 12) (sz : BitVec 3) (upsets : List Upset) : Statement (.st t rd ra imm sz upsets) := wf_iff_ranges _
theorem ldf (t : Byte) (late : Bool) (rd : BitVec 5) (ra : BitVec 5) (imm : BitVec 12) (sz : BitVec 3) (upsets : List Upset) : Statement (.ldf t late rd ra imm sz upsets) := wf_iff_ranges _
theorem stf (t : Byte) (rd : BitVec 5) (ra : BitVec 5) (imm : BitVec 12) (sz : BitVec 3) (upsets : List Upset) : Statement (.stf t rd ra imm sz upsets) := wf_iff_ranges _
theorem cmp (t : Byte) (late : Bool) (rd : BitVec 5) (ra : BitVec 5) (rb : BitVec 5) (rc : BitVec 5) (fn : BitVec 5) : Statement (.cmp t late rd ra rb rc fn) := wf_iff_ranges _
theorem cmpi (t : Byte) (late : Bool) (rd : BitVec 5) (ra : BitVec 5) (imm : BitVec 15) : Statement (.cmpi t late rd ra imm) := wf_iff_ranges _
theorem plog (t : Byte) (late : Bool) (rd : BitVec 5) (ra : BitVec 5) (rb : BitVec 5) (rc : BitVec 5) (fn : BitVec 5) : Statement (.plog t late rd ra rb rc fn) := wf_iff_ranges _
theorem br (t : Byte) (pred : BitVec 3) (neg : Bool) (hint : Bool) (disp : BitVec 20) : Statement (.br t pred neg hint disp) := wf_iff_ranges _
theorem call (t : Byte) (pred : BitVec 3) (neg : Bool) (hint : Bool) (disp : BitVec 20) : Statement (.call t pred neg hint disp) := wf_iff_ranges _
theorem jr (t : Byte) (rd : BitVec 5) (ra : BitVec 5) (rb : BitVec 5) (rc : BitVec 5) (fn : BitVec 5) : Statement (.jr t rd ra rb rc fn) := wf_iff_ranges _
theorem fop (t : Byte) (late : Bool) (rd : BitVec 5) (ra : BitVec 5) (rb : BitVec 5) (rc : BitVec 5) (fn : BitVec 5) : Statement (.fop t late rd ra rb rc fn) := wf_iff_ranges _
theorem fcmp (t : Byte) (late : Bool) (rd : BitVec 5) (ra : BitVec 5) (rb : BitVec 5) (rc : BitVec 5) (fn : BitVec 5) : Statement (.fcmp t late rd ra rb rc fn) := wf_iff_ranges _
theorem fmv (t : Byte) (late : Bool) (rd : BitVec 5) (ra : BitVec 5) (rb : BitVec 5) (rc : BitVec 5) (fn : BitVec 5) : Statement (.fmv t late rd ra rb rc fn) := wf_iff_ranges _
theorem hash (t : Byte) (late : Bool) (rd : BitVec 5) (ra : BitVec 5) (rb : BitVec 5) (rc : BitVec 5) (fn : BitVec 5) : Statement (.hash t late rd ra rb rc fn) := wf_iff_ranges _
theorem rdraw (t : Byte) (late : Bool) (rd : BitVec 5) (ra : BitVec 5) (rb : BitVec 5) (rc : BitVec 5) : Statement (.rdraw t late rd ra rb rc) := wf_iff_ranges _
theorem rctr (t : Byte) (late : Bool) (rd : BitVec 5) (ra : BitVec 5) (rb : BitVec 5) (rc : BitVec 5) : Statement (.rctr t late rd ra rb rc) := wf_iff_ranges _
theorem rctw (t : Byte) (rd : BitVec 5) (ra : BitVec 5) (rb : BitVec 5) (rc : BitVec 5) : Statement (.rctw t rd ra rb rc) := wf_iff_ranges _
theorem csrr (t : Byte) (late : Bool) (rd : BitVec 5) (ra : BitVec 5) (imm : BitVec 15) : Statement (.csrr t late rd ra imm) := wf_iff_ranges _
theorem csrw (t : Byte) (rd : BitVec 5) (ra : BitVec 5) (imm : BitVec 15) : Statement (.csrw t rd ra imm) := wf_iff_ranges _
theorem cntr (t : Byte) (late : Bool) (rd : BitVec 5) (ra : BitVec 5) (rb : BitVec 5) (rc : BitVec 5) (fn : BitVec 5) : Statement (.cntr t late rd ra rb rc fn) := wf_iff_ranges _
theorem yield (t : Byte) (rd : BitVec 5) (ra : BitVec 5) : Statement (.yield t rd ra) := wf_iff_ranges _
theorem workNext (t : Byte) (rd : BitVec 5) (ra : BitVec 5) : Statement (.workNext t rd ra) := wf_iff_ranges _
theorem eventPost (t : Byte) (rd : BitVec 5) (ra : BitVec 5) : Statement (.eventPost t rd ra) := wf_iff_ranges _
theorem svcUnlisted (t : Byte) (rd : BitVec 5) (ra : BitVec 5) (num : BitVec 15) : Statement (.svcUnlisted t rd ra num) := wf_iff_ranges _
theorem halt (t : Byte) (rd : BitVec 5) (ra : BitVec 5) (rb : BitVec 5) (rc : BitVec 5) (fn : BitVec 5) : Statement (.halt t rd ra rb rc fn) := wf_iff_ranges _
theorem descw (t : Byte) (rd : BitVec 5) (ra : BitVec 5) (rb : BitVec 5) (rc : BitVec 5) (fn : BitVec 5) : Statement (.descw t rd ra rb rc fn) := wf_iff_ranges _
theorem tkstat (t : Byte) (late : Bool) (rd : BitVec 5) (ra : BitVec 5) (rb : BitVec 5) (rc : BitVec 5) (fn : BitVec 5) : Statement (.tkstat t late rd ra rb rc fn) := wf_iff_ranges _
theorem bundle (t : Byte) (late : Bool) (value : BitVec 256) (upsets : List Upset) : Statement (.bundle t late value upsets) := wf_iff_ranges _
theorem syncWaitExpiry (t : Byte) : Statement (.syncWaitExpiry t) := wf_iff_ranges _
theorem pendingResultArrival (t : Byte) (dst : Dst) : Statement (.pendingResultArrival t dst) := wf_iff_ranges _
theorem branchResolve (t : Byte) : Statement (.branchResolve t) := wf_iff_ranges _
theorem coreStop (t : Byte) (resume : Bool) : Statement (.coreStop t resume) := wf_iff_ranges _
theorem lockstepMismatch (steward : Bool) (t : Byte) : Statement (.lockstepMismatch steward t) := wf_iff_ranges _
theorem stepOperationBegin (t : Byte) : Statement (.stepOperationBegin t) := wf_iff_ranges _
theorem tritStep (t : Byte) (laneErr : List (Nat × Int)) (upsets : List Upset) : Statement (.tritStep t laneErr upsets) := wf_iff_ranges _
theorem outlierDigitStep (t : Byte) (laneErr : List (Nat × Int)) (upsets : List Upset) : Statement (.outlierDigitStep t laneErr upsets) := wf_iff_ranges _
theorem planeToken (t : Byte) (laneErr : List (Nat × Int)) (upsets : List Upset) : Statement (.planeToken t laneErr upsets) := wf_iff_ranges _
theorem checkComparison (t : Byte) : Statement (.checkComparison t) := wf_iff_ranges _
theorem blockLoad (t : Byte) (upsets : List Upset) : Statement (.blockLoad t upsets) := wf_iff_ranges _
theorem slotCopyLoad (t : Byte) (upsets : List Upset) : Statement (.slotCopyLoad t upsets) := wf_iff_ranges _
theorem planeBlockLoad (t : Byte) (upsets : List Upset) : Statement (.planeBlockLoad t upsets) := wf_iff_ranges _
theorem drainBegin (t : Byte) (upsets : List Upset) : Statement (.drainBegin t upsets) := wf_iff_ranges _
theorem drainRow (t : Byte) (accErr : List (Nat × Bool)) (residue : Bool) (upsets : List Upset) : Statement (.drainRow t accErr residue upsets) := wf_iff_ranges _
theorem queueRowWrite (t : Byte) : Statement (.queueRowWrite t) := wf_iff_ranges _
theorem chainRunBegin (t : Byte) (upsets : List Upset) : Statement (.chainRunBegin t upsets) := wf_iff_ranges _
theorem vectorBeat (t : Byte) (residue : List (Nat × Nat)) (upsets : List Upset) : Statement (.vectorBeat t residue upsets) := wf_iff_ranges _
theorem queueRowConsume (t : Byte) : Statement (.queueRowConsume t) := wf_iff_ranges _
theorem lookupSlotLoad (t : Byte) (upsets : List Upset) : Statement (.lookupSlotLoad t upsets) := wf_iff_ranges _
theorem transferBegin (t : Byte) (queue : BitVec 2) (upsets : List Upset) : Statement (.transferBegin t queue upsets) := wf_iff_ranges _
theorem elementBatch (t : Byte) (queue : BitVec 2) (n : BitVec 6) (checkFault : Bool) (upsets : List Upset) : Statement (.elementBatch t queue n checkFault upsets) := wf_iff_ranges _
theorem translationWalk (t : Byte) (queue : BitVec 2) (checkFault : Bool) (upsets : List Upset) : Statement (.translationWalk t queue checkFault upsets) := wf_iff_ranges _
theorem writeAcknowledged (t : Byte) (queue : BitVec 2) : Statement (.writeAcknowledged t queue) := wf_iff_ranges _
theorem pageSwapIn (ctx : Byte) (va : W64) (tagsOk : Bool) : Statement (.pageSwapIn ctx va tagsOk) := wf_iff_ranges _
theorem remotePortRequest (t : Byte) (write : Bool) (off : BitVec 25) (data : List Byte) (gen : Byte) (upsets : List Upset) : Statement (.remotePortRequest t write off data gen upsets) := wf_iff_ranges _
theorem scrubAccess (t : Byte) (istore : Bool) (row : W16) (upsets : List Upset) : Statement (.scrubAccess t istore row upsets) := wf_iff_ranges _
theorem quadReturnScrubPass (q : BitVec 6) (upsets : List (Nat × Upset)) : Statement (.quadReturnScrubPass q upsets) := wf_iff_ranges _
theorem verifyingPass (part : BitVec 4) (upsets : List (Nat × Upset)) : Statement (.verifyingPass part upsets) := wf_iff_ranges _
theorem weightReload (t : Byte) (block : BitVec 10) : Statement (.weightReload t block) := wf_iff_ranges _
theorem route (callers : List Byte) : Statement (.route callers) := wf_iff_ranges _
theorem combine (t : Byte) : Statement (.combine t) := wf_iff_ranges _
theorem abandon (t : Byte) : Statement (.abandon t) := wf_iff_ranges _
theorem kvAppend (t : Byte) : Statement (.kvAppend t) := wf_iff_ranges _
theorem kvRecvOpen (t : Byte) : Statement (.kvRecvOpen t) := wf_iff_ranges _
theorem windowDeadline (ctx : Byte) (tag : W16) : Statement (.windowDeadline ctx tag) := wf_iff_ranges _
theorem windowCloseComplete (ctx : Byte) (tag : W16) : Statement (.windowCloseComplete ctx tag) := wf_iff_ranges _
theorem intAddOperand (t : Byte) (queue : BitVec 2) (checkFault : Bool) : Statement (.intAddOperand t queue checkFault) := wf_iff_ranges _
theorem fp32TreeOperand (t : Byte) (queue : BitVec 2) (checkFault : Bool) : Statement (.fp32TreeOperand t queue checkFault) := wf_iff_ranges _
theorem unorderedAdd (t : Byte) (queue : BitVec 2) (checkFault : Bool) : Statement (.unorderedAdd t queue checkFault) := wf_iff_ranges _
theorem hbmPatrol (s : BitVec 4) (channel : BitVec 5) (unit : BitVec 24) (upsets : List Upset) : Statement (.hbmPatrol s channel unit upsets) := wf_iff_ranges _
theorem hbmStackUnavailable (s : BitVec 4) : Statement (.hbmStackUnavailable s) := wf_iff_ranges _
theorem farReadTimeout (t : Byte) (queue : BitVec 2) : Statement (.farReadTimeout t queue) := wf_iff_ranges _
theorem farWriteFailure (p : BitVec 1) (errorCompletion : Bool) (addr : W64) : Statement (.farWriteFailure p errorCompletion addr) := wf_iff_ranges _
theorem hostReadTimeout (t : Byte) (queue : BitVec 2) : Statement (.hostReadTimeout t queue) := wf_iff_ranges _
theorem dataFlit (port : BitVec 4) (fec : Option Nat) (bytes : List Byte) : Statement (.dataFlit port fec bytes) := wf_iff_ranges _
theorem retryRequest (port : BitVec 4) (fec : Option Nat) (bytes : List Byte) : Statement (.retryRequest port fec bytes) := wf_iff_ranges _
theorem idleFlit (port : BitVec 4) (fec : Option Nat) (bytes : List Byte) : Statement (.idleFlit port fec bytes) := wf_iff_ranges _
theorem trainingControl (port : BitVec 4) (fec : Option Nat) (bytes : List Byte) : Statement (.trainingControl port fec bytes) := wf_iff_ranges _
theorem linkTraining (port : BitVec 4) (low : Bool) (high : Bool) : Statement (.linkTraining port low high) := wf_iff_ranges _
theorem linkDown (port : BitVec 4) : Statement (.linkDown port) := wf_iff_ranges _
theorem packetInject (t : Byte) (queue : BitVec 2) (n : W16) : Statement (.packetInject t queue n) := wf_iff_ranges _
theorem transitForward (port : BitVec 4) (pk : Packet) : Statement (.transitForward port pk) := wf_iff_ranges _
theorem write (port : BitVec 4) (pk : Packet) : Statement (.write port pk) := wf_iff_ranges _
theorem int32Add (port : BitVec 4) (pk : Packet) : Statement (.int32Add port pk) := wf_iff_ranges _
theorem int64Add (port : BitVec 4) (pk : Packet) : Statement (.int64Add port pk) := wf_iff_ranges _
theorem fp32Add (port : BitVec 4) (pk : Packet) : Statement (.fp32Add port pk) := wf_iff_ranges _
theorem acknowledgement (pk : Packet) : Statement (.acknowledgement pk) := wf_iff_ranges _
theorem refusal (pk : Packet) : Statement (.refusal pk) := wf_iff_ranges _
theorem retryLater (pk : Packet) : Statement (.retryLater pk) := wf_iff_ranges _
theorem retryLaterTimer (t : Byte) (node : BitVec 14) : Statement (.retryLaterTimer t node) := wf_iff_ranges _
theorem resendTimeout (t : Byte) (node : BitVec 14) : Statement (.resendTimeout t node) := wf_iff_ranges _
theorem flowForget (sender : Bool) (t : Byte) (node : BitVec 14) (cls : BitVec 1) : Statement (.flowForget sender t node cls) := wf_iff_ranges _
theorem linkStateNotice (m : MgmtHdr) (port : BitVec 4) (up : Bool) : Statement (.linkStateNotice m port up) := wf_iff_ranges _
theorem generationNotice (m : MgmtHdr) (job : W16) (part : BitVec 4) (gen : Byte) : Statement (.generationNotice m job part gen) := wf_iff_ranges _
theorem barrierArrivalForward (m : MgmtHdr) (job : W16) (ident : W16) (tgen : Byte) : Statement (.barrierArrivalForward m job ident tgen) := wf_iff_ranges _
theorem barrierCompletion (m : MgmtHdr) (job : W16) (ident : W16) (broken : Bool) : Statement (.barrierCompletion m job ident broken) := wf_iff_ranges _
theorem barrierTimeout (ctx : Byte) (ident : W16) : Statement (.barrierTimeout ctx ident) := wf_iff_ranges _
theorem timeExchange : Statement (.timeExchange) := wf_iff_ranges _
theorem timeExchangeReply (m : MgmtHdr) (t2 : W64) (t3 : W64) (t4 : W64) : Statement (.timeExchangeReply m t2 t3 t4) := wf_iff_ranges _
theorem timeAheadNotice (m : MgmtHdr) (count : W64) : Statement (.timeAheadNotice m count) := wf_iff_ranges _
theorem checkPeerExchange (offset : Int) : Statement (.checkPeerExchange offset) := wf_iff_ranges _
theorem rateMonitorWindow (q : BitVec 6) (rate : BitVec 28) (junction : Byte) (voltage : Byte) : Statement (.rateMonitorWindow q rate junction voltage) := wf_iff_ranges _
theorem governorEvaluation (part : BitVec 4) (predicted : Option (BitVec 7)) : Statement (.governorEvaluation part predicted) := wf_iff_ranges _
theorem efficiencyMeasurement (q : BitVec 6) (best : BitVec 7) : Statement (.efficiencyMeasurement q best) := wf_iff_ranges _
theorem powerMeasurement (w100us : W16) (w1ms : W16) (quads : List (Nat × Nat)) : Statement (.powerMeasurement w100us w1ms quads) := wf_iff_ranges _
theorem powerLimiterStep : Statement (.powerLimiterStep) := wf_iff_ranges _
theorem thermalLimiterStep (q : BitVec 6) (temp : Byte) : Statement (.thermalLimiterStep q temp) := wf_iff_ranges _
theorem thermtrip (sensor : Byte) : Statement (.thermtrip sensor) := wf_iff_ranges _
theorem regulatorWindow (q : BitVec 6) (retention : Bool) (code : Byte) (forNs : Nat) : Statement (.regulatorWindow q retention code forNs) := wf_iff_ranges _
theorem hang (d : Domain) (unit : Byte) (timedNs : Nat) : Statement (.hang d unit timedNs) := wf_iff_ranges _
theorem saddleFailed (s : BitVec 3) : Statement (.saddleFailed s) := wf_iff_ranges _
theorem trayResetNAssert (widthNs : Nat) : Statement (.trayResetNAssert widthNs) := wf_iff_ranges _
theorem perstNRelease : Statement (.perstNRelease) := wf_iff_ranges _
theorem pwrgoodRise : Statement (.pwrgoodRise) := wf_iff_ranges _
theorem suppliesApplied (strap0 : Bool) (strap1 : Bool) : Statement (.suppliesApplied strap0 strap1) := wf_iff_ranges _
theorem stewardFirmwareReady : Statement (.stewardFirmwareReady) := wf_iff_ranges _
theorem commandInterpretationResumes : Statement (.commandInterpretationResumes) := wf_iff_ranges _
theorem epochTokenAcknowledgement (m : MgmtHdr) (slot : BitVec 10) : Statement (.epochTokenAcknowledgement m slot) := wf_iff_ranges _
theorem timeExchangeAtParent (m : MgmtHdr) (t1 : W64) (t2 : W64) : Statement (.timeExchangeAtParent m t1 t2) := wf_iff_ranges _
theorem sourceReadReturn (t : Byte) (queue : BitVec 2) (data : List Byte) (poison : Bool) (upsets : List Upset) : Statement (.sourceReadReturn t queue data poison upsets) := wf_iff_ranges _
theorem outOfConditions (rail : Byte) : Statement (.outOfConditions rail) := wf_iff_ranges _
theorem hbmDoubledRefresh (s : BitVec 4) (temp : Byte) : Statement (.hbmDoubledRefresh s temp) := wf_iff_ranges _

end Sys2Proof.Laws.WF
end

