-- ==== Sys2Proof/Laws/Scratchpad.lean ====
section
/-! SUPPORT. Accesses of a tile's scratchpad: what they leave of the tile. `Tile.Cells x y` says that `y` is `x` but for its
cells: the bytes, the error marks and the reload marks. -/

set_option linter.unusedSimpArgs false

namespace Sys2Proof.Machine

/-- The second tile is the first but for its scratchpad cells. -/
def Tile.Cells (x y : Tile) : Prop :=
  ∃ sp l p rl, y = { x with sp := sp, latent := l, poison := p, reload := rl }

theorem Tile.Cells.refl (x : Tile) : x.Cells x := ⟨x.sp, x.latent, x.poison, x.reload, rfl⟩

theorem Tile.Cells.trans {x y z : Tile} (h : x.Cells y) (k : y.Cells z) : x.Cells z := by
  obtain ⟨a, b, c, d, rfl⟩ := h
  obtain ⟨a', b', c', d', rfl⟩ := k
  exact ⟨a', b', c', d', rfl⟩

/-- Every tile of the second state is the one of the first but for its cells. -/
def State.Cells (s u : State) : Prop := ∀ k, (s.tile k).Cells (u.tile k)

theorem State.Cells.refl (s : State) : s.Cells s := fun _ => .refl _

theorem State.Cells.trans {s u v : State} (h : s.Cells u) (k : u.Cells v) : s.Cells v := fun n => (h n).trans (k n)

theorem State.Cells.of_tiles {s u : State} (h : u.tiles = s.tiles) : s.Cells u := fun k => by
  have : u.tile k = s.tile k := by simp only [State.tile, h]
  rw [this]; exact .refl _

theorem State.Cells.setTile {s : State} {t : Nat} {x : Tile} (h : (s.tile t).Cells x) : s.Cells (s.setTile t x) := fun k => by
  by_cases e : t = k
  · subst e; rw [State.tile_setTile_self]; exact h
  · rw [State.tile_setTile_ne _ _ _ _ e]; exact .refl _

theorem State.Cells.modTile {s : State} {t : Nat} {f : Tile → Tile} (h : (s.tile t).Cells (f (s.tile t))) :
    s.Cells (s.modTile t f) := State.Cells.setTile h

theorem State.Cells.foldl {α β : Type} (P : β → State) (f : β → α → β) (h : ∀ b a, (P b).Cells (P (f b a))) (l : List α) (b : β) :
    (P b).Cells (P (l.foldl f b)) := by
  induction l generalizing b with
  | nil => exact .refl _
  | cons a l ih => exact (h b a).trans (ih _)

@[simp] theorem State.tiles_raiseMsix (s : State) (v : Nat) : (s.raiseMsix v).tiles = s.tiles := by
  unfold State.raiseMsix; split
  · rfl
  · split <;> rfl

@[simp] theorem State.tiles_raise (s : State) (e : Ev) : (s.raise e).tiles = s.tiles := by
  unfold State.raise
  dsimp only
  (repeat' split) <;> simp

theorem State.Cells.raise (s : State) (e : Ev) : s.Cells (s.raise e) := .of_tiles (s.tiles_raise e)

theorem State.Cells.raiseAll (s : State) (es : List Ev) : s.Cells (s.raiseAll es) :=
  State.Cells.foldl (fun s => s) _ (fun s e => .raise s e) es s

theorem State.Cells.markReload (s : State) (t c : Nat) : s.Cells (s.markReload t c) := by
  unfold State.markReload; dsimp only
  split
  · exact .refl _
  · have h : s.Cells (s.setTile t { s.tile t with reload := insertNat (s.tile t).reload (c / 4096) }) :=
      .setTile ⟨_, _, _, _, rfl⟩
    split
    · exact h
    · exact h.trans (.raiseAll _ _)

theorem Tile.Cells.cell (x : Tile) (r : CellRead) (c : Nat) (h : x.Cells r.tile) : x.Cells (r.cell c).tile := by
  unfold CellRead.cell
  split
  · exact h
  · split
    · exact h
    · exact h.trans ⟨_, _, _, _, rfl⟩
    · exact h.trans ⟨_, _, _, _, rfl⟩

theorem Tile.Cells.cells (x : Tile) (l : List Nat) (r : CellRead) (h : x.Cells r.tile) :
    x.Cells (l.foldl CellRead.cell r).tile := by
  induction l generalizing r with
  | nil => exact h
  | cons c l ih => exact ih _ (Tile.Cells.cell x r c h)

theorem State.Cells.afterRead (s : State) (t : Nat) (r : CellRead) (b : Bool) (h : (s.tile t).Cells r.tile) :
    s.Cells (s.afterRead t r b) := by
  unfold State.afterRead
  exact ((State.Cells.setTile h).trans (.raiseAll _ _)).trans
    (State.Cells.foldl (fun s => s) _ (fun s c => (State.Cells.raise _ _).trans (.markReload _ _ _)) _ _)

theorem State.Cells.spReadQuiet (s : State) (t a n : Nat) : s.Cells (s.spReadQuiet t a n).2.2 :=
  .afterRead _ _ _ _ (Tile.Cells.cells _ _ _ (.refl _))

theorem State.Cells.count (s : State) (a n : Nat) : s.Cells (s.count a n) := .of_tiles rfl

theorem State.Cells.countSp (s : State) (t a n : Nat) (w : Bool) : s.Cells (s.countSp t a n w) := by
  apply State.Cells.of_tiles
  unfold State.countSp
  dsimp only
  (repeat' split) <;> rfl

theorem State.Cells.rng {s u : State} (h : s.Cells u) (r : NMap Nat) : s.Cells { u with rng := r } := h

theorem State.Cells.used {s u : State} (h : s.Cells u) (n : Nat) : s.Cells (u.used n) := h

theorem State.Cells.spRead (s : State) (t a n : Nat) : s.Cells (s.spRead t a n).2.2 :=
  (State.Cells.spReadQuiet s t a n).trans (.countSp _ _ _ _ _)

theorem State.Cells.spWrite (s : State) (t a : Nat) (bs : List Byte) (p : Bool) : s.Cells (s.spWrite t a bs p) := by
  unfold State.spWrite
  exact ((State.Cells.afterRead _ _ _ _ (Tile.Cells.cells _ _ _ (.refl _))).trans (.modTile ⟨_, _, _, _, rfl⟩)).trans
    (.countSp _ _ _ _ _)

theorem State.Cells.spWriteOwn (s : State) (t a : Nat) (bs : List Byte) (p : Bool) : s.Cells (s.spWriteOwn t a bs p) := by
  unfold State.spWriteOwn
  split
  · refine State.Cells.foldl (fun s => s) _ (fun s i => ?_) _ _
    split
    · exact .refl _
    · exact .spWrite _ _ _ _ _
  · exact .spWrite _ _ _ _ _

theorem State.Cells.strike (s : State) (t : Nat) (us : List Upset) : s.Cells (s.modTile t (fun x => x.strike us)) := by
  refine .modTile ?_
  unfold Tile.strike
  generalize s.tile t = x
  have : ∀ y, x.Cells y → x.Cells (us.foldl (fun x u =>
      let c := u.off / 8
      if inSp u.off 1 && !x.poison.contains c then
        { x with latent := NMap.put x.latent c (u.double || (NMap.get? x.latent c).isSome) }
      else x) y) := by
    induction us with
    | nil => intro y h; exact h
    | cons u us ih =>
      intro y h
      refine ih _ ?_
      dsimp only
      split
      · exact h.trans ⟨_, _, _, _, rfl⟩
      · exact h
  exact this x (.refl x)

theorem State.Cells.vRead (s : State) (t d p : Nat) : s.Cells (s.vRead t d p).2 := by
  unfold State.vRead; dsimp only
  split
  · exact .spReadQuiet _ _ _ _
  · exact (State.Cells.spReadQuiet _ _ _ _).trans (.countSp _ _ _ _ _)

theorem State.Cells.vWrite (s : State) (t : Nat) (ws : List (Nat × Nat × Nat × Bool)) : s.Cells (s.vWrite t ws) := by
  unfold State.vWrite; dsimp only
  exact (State.Cells.foldl (fun s => s) _ (fun s e => .spWriteOwn _ _ _ _ _) _ _).trans (.modTile ⟨_, _, _, _, rfl⟩)

theorem State.Cells.elemIns (s : State) (t : Nat) (o : VOp) (ins : List Nat) (i : Nat) : s.Cells (s.elemIns t o ins i).2 := by
  unfold State.elemIns
  refine State.Cells.foldl (fun r : (NMap (Nat × Bool) × Nat) × State => r.2) _ (fun r k => ?_) ins (([], 0), s)
  dsimp only
  split
  · exact .refl _
  · split
    · split <;> exact .refl _
    · exact .vRead _ _ _ _

end Sys2Proof.Machine
end

