-- ==== Sys2Proof/Machine/Packets.lean ====
section
/-! DEFINITION. The 64 bytes of a command packet (14, R290) read as the command they spell (R294), with the operands at the bytes that
R296 to R301, R304, R307 to R311, R314, R324, R403, R461, R465, R469, R471 and R476 give. -/

namespace Sys2Proof.Machine

/-- What a command brings that its packet does not hold: what host memory, the steward's planning and the outside answer to it
(assumption log entries 3, 106, 174). -/
structure Outside where
  ext : Ext
  adm : Admission
  plan : List Byte
  predicted : W64
  fits : Bool
  fenceOk : Bool
  dev : FarDev
  readFails : Bool
  replyFails : Bool
  deriving DecidableEq, Repr, Inhabited

/-- The operand bytes that an opcode uses, as (first byte, length); none for an unlisted opcode (R294). Both actions of TRACE_CONTROL
use all of its operands. -/
def usedBytes (op : Nat) : Option (List (Nat × Nat)) :=
  match op with
  | 0x01 => some []
  | 0x02 => some []
  | 0x10 => some [(16, 8), (24, 2), (32, 16)]
  | 0x11 => some []
  | 0x12 => some []
  | 0x13 => some [(16, 1)]
  | 0x14 => some []
  | 0x15 => some []
  | 0x20 => some [(16, 26)]
  | 0x21 => some [(16, 8), (32, 8)]
  | 0x22 => some [(16, 24)]
  | 0x30 => some [(16, 17), (34, 2)]
  | 0x31 => some [(34, 2)]
  | 0x40 => some [(16, 4), (24, 16)]
  | 0x41 => some [(16, 4)]
  | 0x42 => some [(16, 4), (24, 24)]
  | 0x43 => some [(16, 4)]
  | 0x50 => some [(16, 18), (36, 12)]
  | 0x51 => some [(16, 6), (24, 24)]
  | 0x52 => some [(16, 5)]
  | 0x53 => some [(16, 4)]
  | 0x54 => some [(16, 16)]
  | 0x55 => some [(24, 8)]
  | 0x56 => some [(16, 4)]
  | 0x60 => some [(16, 40)]
  | 0x61 => some [(20, 4)]
  | 0x70 => some [(24, 16)]
  | 0x71 => some [(16, 24)]
  | 0x80 => some [(16, 20)]
  | 0x81 => some [(16, 1), (18, 2)]
  | 0x82 => some [(18, 2), (24, 8)]
  | 0x83 => some [(18, 2), (24, 12)]
  | 0x90 => some [(16, 1), (24, 12)]
  | 0x91 => some []
  | 0x92 => some [(16, 4)]
  | 0x93 => some [(16, 1), (18, 2)]
  | 0x94 => some [(24, 12)]
  | 0x95 => some []
  | 0x96 => some [(16, 1)]
  | 0x97 => some [(16, 1)]
  | 0x98 => some [(24, 8)]
  | 0xA0 => some [(16, 20)]
  | 0xA1 => some [(16, 3), (24, 12)]
  | _ => none

/-- The header of a packet (R290). An unlisted opcode is refused as a reserved bit is (R293 check 2). -/
def pktOf (qp : BitVec 12) (bs : List Byte) (x : Outside) : Pkt :=
  let b := fun (i : Nat) => leAt bs i 1
  let used := usedBytes (b 0)
  let spare := (List.range' 16 48).filter (fun i =>
    !((used.getD [(16, 48)]).any (fun r => decide (r.1 ≤ i) && decide (i < r.1 + r.2))))
  { qp := qp
    rsvSet := used.isNone || decide (8 ≤ b 1) || decide (b 3 ≠ 0)
    irq := bit (b 1) 2
    sharedStream := bit (b 1) 1
    fence := bit (b 1) 0
    ctx := BitVec.ofNat 8 (b 2)
    cmdId := BitVec.ofNat 32 (leAt bs 4 4)
    streamClaim := BitVec.ofNat 64 (leAt bs 8 8)
    stray := spare.any (fun i => b i ≠ 0)
    readFails := x.readFails
    replyFails := x.replyFails }

/-- The command that a packet spells. An unlisted opcode stands as the refused DEVICE_NOP of `pktOf`; an action of TRACE_CONTROL that is
neither start nor stop is an operand out of range. -/
def commandOf (qp : BitVec 12) (bs : List Byte) (x : Outside) : Instr :=
  let h := pktOf qp bs x
  let b := fun (i : Nat) => BitVec.ofNat 8 (leAt bs i 1)
  let w := fun (i : Nat) => BitVec.ofNat 16 (leAt bs i 2)
  let d := fun (i : Nat) => BitVec.ofNat 32 (leAt bs i 4)
  let q := fun (i : Nat) => BitVec.ofNat 64 (leAt bs i 8)
  let f := fun (i : Nat) => bit (leAt bs i 1) 0
  match leAt bs 0 1 with
  | 0x01 => .deviceQuery h
  | 0x10 => .ctxCreate h (q 16) (b 24) (f 25) (q 32) (q 40)
  | 0x11 => .ctxDestroy h
  | 0x12 => .ctxReset h
  | 0x13 => .ctxQuery h (f 16)
  | 0x14 => .ctxResume h
  | 0x15 => .ctxFaultAbort h
  | 0x20 => .memMap h (q 16) (q 24) (q 32) (b 40) (b 41)
  | 0x21 => .memUnmap h (q 16) (q 32)
  | 0x22 => .memSwapOut h (q 16) (q 32) (q 24)
  | 0x30 => .modelPlace h (q 16) (q 24) (b 32) (w 34) x.ext
  | 0x31 => .modelRemove h (w 34)
  | 0x40 => .variantLoad h (w 16) (w 18) (q 24) (q 32) x.ext
  | 0x41 => .variantRemove h (w 16) (w 18)
  | 0x42 => .adapterLoad h (w 16) (w 18) (q 24) (q 32) (q 40) { fits := x.fits, ext := x.ext }
  | 0x43 => .adapterRemove h (w 16) (w 18)
  | 0x50 => .seqOpen h (w 16) (w 18) (d 20) (b 24) (b 25) [w 26, w 28, w 30, w 32] (d 36) (q 40) x.adm
  | 0x51 => .seqStep h (d 16) (BitVec.ofNat 6 (leAt bs 20 1)) (BitVec.ofNat 6 (leAt bs 21 1)) (q 24) (q 32) (q 40) x.plan x.ext
  | 0x52 => if f 20 then .seqCancelSequence h (d 16) else .seqCancelEpoch h (d 16)
  | 0x53 => .seqClose h (d 16)
  | 0x54 => .prefixSave h (d 16) (d 20) (q 24)
  | 0x55 => .prefixRemove h (q 24)
  | 0x56 => .seqQuery h (d 16)
  | 0x60 => .frameSubmit h (w 16) (b 18) (f 19) (d 20) (q 24) (q 32) (q 40) (q 48) x.predicted x.plan
  | 0x61 => .frameCancel h (d 20)
  | 0x70 => .kernelLoad h (q 24) (q 32) x.ext
  | 0x71 => .kernelLaunch h (w 16) (w 18) (d 20) (q 24) (q 32) x.ext
  | 0x80 => .syncCreate h (b 16) (b 17) (w 18) (d 20) (q 24) (w 32) (w 34)
  | 0x81 => .syncDestroy h (b 16) (w 18)
  | 0x82 => .signalAdd h (w 18) (q 24)
  | 0x83 => .signalWait h (w 18) (q 24) (d 32)
  | 0x90 => .configStage h (b 16) (q 24) (d 32)
  | 0x91 => .configSwap h x.fenceOk
  | 0x92 => .functionDisable h (b 16) (b 17) (w 18)
  | 0x93 => .functionEnable h (b 16) (w 18) (BitVec.ofNat 8 x.dev.kind) x.dev.mem
  | 0x94 => .fwStage h (q 24) (d 32)
  | 0x95 => .fwActivate h
  | 0x96 => .engineReset h (b 16)
  | 0x97 => .partitionReset h (b 16)
  | 0x98 => .counterSnapshot h (q 24)
  | 0xA0 => .dumpRead h (q 16) (q 24) (d 32)
  | 0xA1 =>
    if leAt bs 16 1 = 1 then .traceStart h (b 17) (b 18) (q 24) (d 32)
    else .traceStop { h with stray := h.stray || decide (1 < leAt bs 16 1) }
  | _ => .deviceNop h

end Sys2Proof.Machine
end

