-- ==== Sys2Proof/Tests/Slice0.lean ====
section
/-! SUPPORT. Tests. For every statement of Certificates/Slice0 that has hypotheses a state and operands that meet them, clause by
clause (`met_` and the clause's name), on one small booted package; an ill-formed command for each bound of WellFormed; the spec's
own worked examples. -/

open Sys2Proof Sys2Proof.Machine

namespace Sys2Proof.Tests

set_option Elab.async false

/-! ### The machine the tests run on -/

/-- A packet of a command in queue pair `q`. -/
def pk (q : BitVec 12) : Pkt :=
  { qp := q, rsvSet := false, irq := false, sharedStream := false, fence := false, ctx := 0, cmdId := 7, streamClaim := 0, stray := false,
    readFails := false, replyFails := false }

/-- A queue pair with one command submitted; pair 0 is the device's, pair 1 of context 0. -/
def pair (dev : Bool) (n : Nat) : Qp :=
  { Qp.reset with enable := true, active := true, devQueue := dev, sqLog := 4, cqLog := 4, sqTail := 1, sqBase := 0x10000 * n,
                  cqBase := 0x10000 * n + 0x8000 }

/-- The policy of the partition: every voltage fixed at 0.80 V. -/
def pol : Policy := default

/-- A set with one partition over every glen, a data region, a table region, a staging area and a host-open region of context 0 in stack 0. -/
def cset : CfgSet :=
  { serial := 1, parts := [(0, { glens := 0xFFFFFF, present := true, pol := pol })], pkgCap := 1700,
    regions := [{ base := hbmBase, units := 512, kind := 0, owner := 0, compressed := false, writable := false, tset := 0 },
                { base := hbmBase + 2 ^ 30, units := 1, kind := 1, owner := 0, compressed := false, writable := false, tset := 0 },
                { base := hbmBase + 2 ^ 31, units := 2, kind := 4, owner := 0, compressed := false, writable := true, tset := 0 },
                { base := hbmBase + 2 ^ 32, units := 2, kind := 5, owner := 0, compressed := false, writable := true, tset := 0 }],
    tsets := [], modes := [], rings := [], thr := [], wlim := [], jobs := [], image := [] }

/-- The package in service: booted, a set active, two queue pairs, context 0, stack 0 available. -/
def up : State :=
  let s := State.reset
  { s with
    boot := { s.boot with inReset := false, devState := 1, retry := false, fwOk := true }
    pins := { s.pins with trayResetN := true, perstN := true }
    cfg := { s.cfg with active := some cset }
    hbms := [(0, { Stack.reset with available := true, trained := true })]
    qps := [(0, pair true 0), (1, pair false 1)]
    ctxs := [(0, Ctx.fresh 1 0 false 0 0 1)]
    clk := { s.clk with now := 1000000, wall := 1000000 } }

/-- Three table pages in the table region that map the 1 GiB page at 1 GiB to the data region, and to host memory. -/
def tables : Bytes := [(0x10040000000, 1), (0x10040000001, 16), (0x10040000003, 64), (0x10040000005, 1), (0x10040001000, 1),
     (0x10040001001, 32), (0x10040001003, 64), (0x10040001005, 1), (0x10040002008, 15), (0x1004000200D, 1)]
def hostTables : Bytes := [(0x10040000000, 1), (0x10040000001, 16), (0x10040000003, 64), (0x10040000005, 1), (0x10040001000, 1),
     (0x10040001001, 32), (0x10040001003, 64), (0x10040001005, 1), (0x10040002008, 15), (0x1004000200D, 16)]

/-- Context 0 with those tables. -/
def walked : Ctx :=
  { Ctx.fresh 1 0 false 0 0 1 with
    root := hbmBase + 2 ^ 30, tables := [hbmBase + 2 ^ 30, hbmBase + 2 ^ 30 + 4096, hbmBase + 2 ^ 30 + 8192] }

/-- The package with the page of context 0 mapped to the data region, and to host memory. -/
def mapped : State := { up with mem := { up.mem with hbm := tables }, ctxs := [(0, walked)] }
def hosted : State := { up with mem := { up.mem with hbm := hostTables }, ctxs := [(0, walked)] }

/-- Host memory that answers zeros. -/
def quiet : Ext := { cells := [], poison := [] }

/-- Whether a result is a success; the same of an answer that comes with a state. -/
def fine {ε α : Type} : Except ε α → Bool
  | .ok _ => true
  | .error _ => false
def good {α : Type} (a : Answer α) : Bool := fine a.1

/-! ### Occasions of the statements: contexts and mappings -/

theorem met_deviceQuery : up.accepts (pk 0) true false true = true := by decide +kernel
theorem met_deviceNop : up.accepts (pk 1) false false true = true := by decide +kernel
theorem met_ctxCreate : up.accepts (pk 0) true false ((15 : Byte).toNat < 16 && (4096 : W64).toNat % 4096 = 0) = true ∧
    up.accepts (pk 0) true false ((0 : Byte).toNat < 16 && (4096 : W64).toNat % 4096 = 0) = true ∧
    up.boot.testMode = false ∧ up.partInReset 0 = false ∧ (NMap.get? up.parts 0).isSome = true ∧ up.ctx? 1 = none ∧
    (∀ b < 1, up.ctx? b ≠ none) := by decide +kernel

/-- Every context number in use. -/
def crowd : State := { up with ctxs := (List.range 256).map (fun c => (c, Ctx.fresh 1 0 false 0 0 1)) }

theorem met_ctxCreateFull : crowd.accepts (pk 0) true false ((0 : Byte).toNat < 16 && (0 : W64).toNat % 4096 = 0) = true ∧
    crowd.boot.testMode = false ∧ crowd.partInReset 0 = false ∧ (∀ b < 256, crowd.ctx? b ≠ none) := by decide +kernel
theorem met_ctxDestroy : up.accepts (pk 0) true false true = true ∧ (up.ctx? (pk 0).ctx.toNat).isSome = true := by decide +kernel
theorem met_ctxQuery : up.accepts (pk 1) false false true = true ∧ (up.ctx? (up.pktCtx (pk 1))).isSome = true := by decide +kernel

/-- Context 0 suspended by a not-present fault of ticket 1 of tile 0. -/
def faulted : State := { up with ctxs := [(0, { Ctx.fresh 1 0 false 0 0 1 with suspended := true, susp := [(0, 1, 1)] })] }

theorem met_ctxResume : faulted.accepts (pk 1) false false true = true ∧ faulted.faultPending (faulted.pktCtx (pk 1)) = true ∧
    up.faultPending (up.pktCtx (pk 1)) = false := by decide +kernel
theorem met_ctxFaultAbort : faulted.accepts (pk 1) false false true = true ∧
    (match faulted.ctx? (faulted.pktCtx (pk 1)) with | some x => x.susp.any (fun f => f.2.2 = 1) | none => false) = true := by
  decide +kernel
theorem met_memMap : mapped.accepts (pk 0) true false (Says.mapOperands 0x80000000 (BitVec.ofNat 64 hbmBase) 0x40000000 2 1) = true ∧
    (mapped.ctx? (mapped.pktCtx (pk 0))).isSome = true ∧ 0x80000000 + 0x40000000 ≤ kvBase ∧
    (mapped.take (pk 0)).rangeDenied (mapped.pktCtx (pk 0)) hbmBase 0x40000000 = false ∧
    ((mapped.take (pk 0)).leaves (mapped.pktCtx (pk 0))).any (fun e => overlap 0x80000000 0x40000000 e.1 e.2.1) = false ∧
    ((mapped.take (pk 0)).mapPages (mapped.pktCtx (pk 0)) 0x80000000 hbmBase 0x40000000 7 1).isSome = true := by
  refine ⟨?_, ?_, ?_, ?_, ?_, ?_⟩ <;> decide +kernel
theorem met_memMapTwice : mapped.accepts (pk 0) true false (Says.mapOperands 0x40000000 (BitVec.ofNat 64 hbmBase) 0x40000000 2 1) = true ∧
    (mapped.ctx? (mapped.pktCtx (pk 0))).isSome = true ∧
    (mapped.take (pk 0)).rangeDenied (mapped.pktCtx (pk 0)) hbmBase 0x40000000 = false ∧
    ((mapped.take (pk 0)).leaves (mapped.pktCtx (pk 0))).any (fun e => overlap 0x40000000 0x40000000 e.1 e.2.1) = true := by
  decide +kernel
theorem met_memUnmap : mapped.accepts (pk 0) true false true = true ∧ mapped.memReady (pk 0) 0x40000000 0x40000000 = true ∧
    (mapped.take (pk 0)).partPage (mapped.pktCtx (pk 0)) 0x40000000 0x40000000 = false ∧
    (mapped.take (pk 0)).partPage (mapped.pktCtx (pk 0)) 0x40000000 4096 = true ∧ mapped.memReady (pk 0) 0x40000000 4096 = true ∧
    (mapped.ctx? (mapped.pktCtx (pk 0))).isSome = true := by
  refine ⟨?_, ?_, ?_, ?_, ?_, ?_⟩ <;> decide +kernel
theorem met_memSwapOut : (mapped.take (pk 0)).backingFails hostBase 0x40000000 = none ∧
    ((mapped.take (pk 0)).leavesIn (mapped.pktCtx (pk 0)) 0x40000000 0x40000000).all (fun e => inTiers (pteAddr e.2.2)) = true ∧
    ((mapped.take (pk 0)).leavesIn (mapped.pktCtx (pk 0)) 0x40000000 0x40000000).length = 1 := by
  refine ⟨?_, ?_, ?_⟩ <;> decide +kernel

/-! ### Variants, adapters, signals and barriers -/

/-- A model of partition 0. -/
def mdl : Model := { part := 0, verify := 0, blocks := [], experts := [], attn := [], stores := [], pkgs := [], key := 0, kernel := [] }

/-- Adapter 4 of model 1 at 1 GiB. -/
def adp : Adapter := { (default : Adapter) with model := 1, id := 4, va := 0x40000000, len := 64 }

/-- Model 1 placed; context 0 with variant 3 and adapter 4 of it registered. -/
def shelf (s : State) : State :=
  { s with models := [(1, mdl)], ctxs := [(0, { walked with variants := [(1, 3, 0x40000000, 4096)], adapters := [adp] })] }

theorem leVal_zeros (bs : List Byte) (h : bs.all (fun b => b == 0) = true) : leVal bs = 0 := by
  induction bs with
  | nil => rfl
  | cons b r ih =>
    simp only [List.all_cons, Bool.and_eq_true, beq_iff_eq] at h
    simp [leVal, h.1, ih h.2]
theorem leAt_zeros (bs : List Byte) (h : bs.all (fun b => b == 0) = true) (lo n : Nat) : leAt bs lo n = 0 :=
  leVal_zeros _ (List.all_eq_true.2 fun b hb => List.all_eq_true.1 h b (List.mem_of_mem_drop (List.mem_of_mem_take hb)))
theorem met_variantRemove : (shelf up).accepts (pk 1) false false true = true ∧
    (Says.variantsOf (shelf up) 0).any (fun e => e.1 = 1 && e.2.1 = 3) = true ∧ (shelf up).named 0 1 3 true = false ∧
    (Says.adaptersOf (shelf up) 0).any (fun e => e.model = 1 && e.id = 4) = true ∧ (shelf up).named 0 1 4 false = false := by
  decide +kernel

/-- An open slot of model 1 with variant 3 and adapter 4. -/
def slot1 : Seq := { Seq.free with state := 1, model := 1, variant := 3, ads := [4] }

theorem met_removeNamed :
    let s := { shelf up with seqs := [(0, slot1)] }
    s.accepts (pk 1) false false true = true ∧ s.named (s.pktCtx (pk 1)) 1 3 true = true ∧
      s.named (s.pktCtx (pk 1)) 1 4 false = true := by decide +kernel
theorem met_syncCreateSignal : (1 : Byte).toNat < 2 ∧ (16383 : W16).toNat < 16384 ∧ up.accepts (pk 1) false false true = true ∧
    NMap.get? up.signals (objKey (up.pktCtx (pk 1)) 16383) = none ∧ up.signals.length < 16384 := by decide +kernel

/-- Model 1 lists this package, node 0. -/
def listed : State := { up with models := [(1, { mdl with pkgs := [0] })] }

theorem met_syncCreateBarrier : (3 : Byte).toNat < 4 ∧ (4095 : W16).toNat < 4096 ∧ (0xFFFFF : W32).toNat < 2 ^ 20 ∧
    listed.accepts (pk 1) false false true = true ∧ (listed.homeFor 1 0).isSome = true ∧
    NMap.get? listed.barriers (objKey (listed.pktCtx (pk 1)) 4095) = none ∧ listed.barriers.length < 4096 ∧
    bit (1 : Byte).toNat 1 = false ∧ bit (3 : Byte).toNat 1 = true := by decide +kernel

/-- A signal of context 0 with identifier 0 at its last count but one, a barrier of two, and a wait past its limit. -/
def synced : State :=
  { up with
    signals := [(objKey 0 0, { count := 2 ^ 64 - 2, commitBound := false })]
    barriers := [(objKey 0 4095, { p := 2, arrived := 0, phase := 0, broken := false, commitBound := false, home := none, lastSent := none })] }
def late : SigWait := { h := pk 1, ctx := 0, ident := 0, target := 2 ^ 64 - 1, deadline := 1000000 }

theorem met_syncDestroy : synced.accepts (pk 1) false false true = true ∧
    synced.hasObject (synced.pktCtx (pk 1)) 0 0 = true ∧ (synced.take (pk 1)).slotWaits (synced.pktCtx (pk 1)) 0 0 = false ∧
    synced.hasObject (synced.pktCtx (pk 1)) 1 4095 = true ∧ (4095 : W16).toNat < kindLimit 1 ∧
    (synced.take (pk 1)).slotWaits (synced.pktCtx (pk 1)) 1 4095 = false ∧
    synced.waits.any (fun w => w.ctx = synced.pktCtx (pk 1) && w.ident = 4095) = false ∧
    synced.held.any (fun e => e.ctx = synced.pktCtx (pk 1) && e.ident = 4095) = false := by decide +kernel
theorem met_signalAdd : synced.accepts (pk 1) false false true = true ∧
    NMap.get? synced.signals (objKey (synced.pktCtx (pk 1)) 0) = some { count := 2 ^ 64 - 2, commitBound := false } ∧
    2 ^ 64 - 1 < 2 ^ 64 - 2 + (2 : W64).toNat ∧ ¬ 2 ^ 64 - 1 < 2 ^ 64 - 2 + (1 : W64).toNat ∧ synced.waits.length < 1024 ∧
    (synced.ctx? 0).isSome = true := by decide +kernel
theorem met_signalWaitLimit :
    let s := { synced with waits := [late] }
    s.waits.find? (fun x => decide (x.h.qp = late.h.qp) && decide (x.h.cmdId = late.h.cmdId) && decide (x.deadline ≤ s.clk.now)) = some late ∧
      (NMap.get? s.signals (objKey late.ctx late.ident)).isSome = true := by decide +kernel
theorem met_noObject : up.accepts (pk 1) false false true = true ∧
    NMap.get? up.signals (objKey (up.pktCtx (pk 1)) 16383) = none := by decide +kernel

/-! ### Models, kernel images, sequence slots -/

/-- A placement record with one section: a package list of node 0. -/
def record : Ext :=
  { cells := [(0, 0x50), (1, 0x4C), (2, 0x42), (3, 0x34), (4, 1), (6, 1), (16, 6), (20, 1), (24, 32)], poison := [] }

theorem met_modelPlace : (up.accepts (pk 0) true false (decide ((15 : Byte).toNat < 16) && decide ((1 : W16).toNat ≠ 0)) = true ∧
      up.boot.testMode = false ∧ up.partInReset 0 = false ∧ (NMap.get? up.parts 0).isSome = true) ∧
    (match (up.take (pk 0)).recordRead hostBase 34 record with
      | (.ok bs, s') => (match parsePlacement bs with
        | some r => fine (s'.placeChecked 1 0 r) && !r.blocks.any (fun b => (s'.quad (quadOf b.1)).scrubPass)
        | none => false)
      | _ => false) = true := by decide +kernel
theorem met_modelRemove :
    let s := shelf up
    let u := { s with seqs := [(0, slot1)] }
    s.accepts (pk 0) true false (decide ((1 : W16).toNat ≠ 0)) = true ∧ NMap.get? s.models 1 = some mdl ∧
      s.modelUsed 1 = false ∧ s.ctxs.any (fun e => (s.take (pk 0)).writesThrough e.1 ((s.take (pk 0)).storeLeaves mdl e.1)) = false ∧
      u.accepts (pk 0) true false (decide ((1 : W16).toNat ≠ 0)) = true ∧ u.modelUsed 1 = true := by
  decide +kernel
theorem met_kernelLoad : hosted.accepts (pk 1) false false true = true ∧ hosted.ctx? (hosted.pktCtx (pk 1)) = some walked ∧
    64 ≤ hosted.imageLimit walked.part false false ∧ (hosted.take (pk 1)).stewardWaits 0 0x40000000 64 = false ∧
    good ((hosted.take (pk 1)).stewardRead (hosted.pktCtx (pk 1)) 0x40000000 64 quiet) = true := by decide +kernel

/-- What the operands of an admission bring: no time alone, room or none, a hint of 5 us. -/
def asks (room : Bool) : Admission := { aloneUs := 0, feasible := room, hint := 5 }

theorem met_seqOpen :
    let s := shelf up
    let q := (s.seq 0).open_ (s.pktCtx (pk 1)) 1 3 [4] 3 0 400 0 s.openSeq []
    s.accepts (pk 1) false false (decide ((3 : Byte).toNat < 4) && decide ((1 : Byte).toNat ≤ 4) && decide ((1 : Byte).toNat ≤ [(4 : W16)].length)) = true ∧
      (s.ctx? (s.pktCtx (pk 1))).isSome = true ∧ s.partInReset 0 = false ∧ s.ctxInReset (s.pktCtx (pk 1)) = false ∧
      (s.seq 0).state = 0 ∧ (s.take (pk 1)).openRejected (s.pktCtx (pk 1)) 1 3 [4] 0 (asks true) q none = false ∧
      (s.take (pk 1)).openRejected (s.pktCtx (pk 1)) 1 3 [4] 0 (asks false) q none = false := by decide +kernel
theorem met_seqOpen_room :
    let s := shelf up
    let q := (s.seq 0).open_ (s.pktCtx (pk 1)) 1 3 [4] 3 0 400 0 s.openSeq []
    let v := Says.opening (s.take (pk 1)) (s.pktCtx (pk 1)) 0 0 0 q
    (match v.preemptFor 0 3 ((s.take (pk 1)).reservation q) v.seqs.length with
      | some s3 => ((s3.modSeq 0 (fun _ => { q with reserved := 0 })).mapStores (s.pktCtx (pk 1)) 1).isSome
      | none => false) = true ∧ Says.namesPrefix s 0 0 none := ⟨by decide +kernel, rfl⟩

/-- Every slot taken. -/
def fullSlots : State := { up with seqs := NMap.tab Seq.free 0 1024 (fun _ => { Seq.free with state := 1, model := 1 }) }

theorem met_seqOpenFull : fullSlots.accepts (pk 1) false false
      (decide ((3 : Byte).toNat < 4) && decide ((4 : Byte).toNat ≤ 4) && decide ((0 : Byte).toNat ≤ ([] : List W16).length)) = true ∧
    (fullSlots.ctx? (fullSlots.pktCtx (pk 1))).isSome = true ∧ fullSlots.partInReset 0 = false ∧
    fullSlots.ctxInReset (fullSlots.pktCtx (pk 1)) = false := by decide +kernel
theorem met_seqOpenFull_slots : ∀ m < 1024, (fullSlots.seq m).state ≠ 0 := by
  intro m h
  have e : fullSlots.seq m = { Seq.free with state := 1, model := 1 } := by
    simp [State.seq, fullSlots, NMap.get_tab, h]
  rw [e]; decide

/-- Slot 0 of context 0 open. -/
def opened : State := { hosted with seqs := [(0, slot1)], models := [(1, mdl)] }

theorem met_seqStep : opened.accepts (pk 1) false true (decide ((63 : BitVec 6).toNat < (63 : BitVec 6).toNat + 1)) = true ∧
    opened.slotFor (opened.pktCtx (pk 1)) 0 = some 0 ∧ opened.partInReset 0 = false ∧ opened.ctxInReset 0 = false ∧
    opened.tilesRefuse (opened.planTiles 0 [5] 0 true) = none ∧ (opened.seq 0).state ≠ 5 ∧ (opened.seq 0).state ≠ 6 ∧
    opened.streamBusy (pk 1) (opened.pktCtx (pk 1)) 0 (opened.planTiles 0 [5] 0 true) = false ∧
    (opened.take (pk 1)).stewardWaits 0 0x40000000 (8 * (1 + 1)) = false ∧
    good ((opened.take (pk 1)).stewardRead (opened.pktCtx (pk 1)) 0x40000000 (8 * (1 + 1)) quiet) = true := by decide +kernel
theorem met_seqCommands : opened.accepts (pk 1) false false true = true ∧ opened.slotFor (opened.pktCtx (pk 1)) 0 = some 0 ∧
    (opened.seq 0).state ≠ 5 ∧ opened.slotFor (opened.pktCtx (pk 1)) 1 = none := by decide +kernel

/-! ### Frames, launches, work items, epochs -/

theorem met_frameSubmit :
    let s := shelf up
    s.accepts (pk 1) false true (decide ((3 : Byte).toNat < 4)) = true ∧ (s.ctx? (s.pktCtx (pk 1))).isSome = true ∧
      s.partInReset 0 = false ∧ s.ctxInReset (s.pktCtx (pk 1)) = false ∧ s.tilesRefuse (s.planTiles 0 [5] 0 false) = none ∧
      s.modelFor (s.pktCtx (pk 1)) 1 = true ∧ (s.clk.now ≤ (1000000 : W64).toNat ∧ (1000000 : W64).toNat ≤ (1000000 : W64).toNat) ∧
      (999999 : W64).toNat < s.clk.now ∧
      (s.works.filter (fun e => e.2.ctx = s.pktCtx (pk 1) && e.2.kind = .frame)).length < 256 ∧
      s.streamBusy (pk 1) (s.pktCtx (pk 1)) 1024 (s.planTiles 0 [5] 0 false) = false ∧
      ((s.take (pk 1)).mapStores (s.pktCtx (pk 1)) 1).isSome = true := by decide +kernel

/-- A frame whose deadline is now, a launch on tile 5, a step of slot 0, with their item as given. -/
def job (k : WKind) (st : Item) : Work :=
  { Work.base (pk 1) k 0 (if k = .step then 0 else 1024) with
    items := [{ tile := 5, entry := 0, args := [], st := st }], deadline := 1000000, verify := 5, resVa := 0x40000000 }
def working (w : Work) : State := { opened with works := [(9, w)], workNext := 10 }

theorem met_frameStart : NMap.get? (working (job .frame .ready)).works 9 = some (job .frame .ready) ∧
    (job .frame .ready).started = false ∧ (working (job .frame .ready)).frameFirst 9 (job .frame .ready) = true := by decide +kernel
theorem met_frameDeadline :
    let w := { job .frame .running with started := true }
    NMap.get? (working w).works 9 = some w ∧ w.kind = .frame ∧ w.deadline ≤ (working w).clk.now := by decide +kernel
theorem met_frameCancel : (working (job .frame .ready)).accepts (pk 1) false false true = true := by decide +kernel
theorem met_kernelLaunch : hosted.accepts (pk 1) false true (decide ((0x1FFFC : W32).toNat < 0x20000) && (0x1FFFC : W32).toNat % 4 = 0) = true ∧
    hosted.tilesRefuse (maskTiles 0xFFFF 1) = none ∧ (∀ g < 16, bit 0xFFFF g = true → hosted.partOfGlen g = some 0) ∧
    hosted.partInReset 0 = false ∧ hosted.ctxInReset (hosted.pktCtx (pk 1)) = false ∧
    hosted.streamBusy (pk 1) (hosted.pktCtx (pk 1)) 1024 (maskTiles 0xFFFF 1) = false ∧
    (hosted.take (pk 1)).stewardWaits 0 0x40000000 64 = false ∧
    good ((hosted.take (pk 1)).stewardRead (hosted.pktCtx (pk 1)) 0x40000000 64 quiet) = true := by decide +kernel
theorem met_workItemStart :
    let w := { job .launch .ready with started := true }
    NMap.get? (working w).works 9 = some w ∧ (w.items.find? (fun i => i.tile = 5 && i.st = .ready)).isSome = true := by decide +kernel
theorem met_tileFree :
    let w := { job .launch .ready with started := true }
    Says.tileFree (working w) w 5 := by
  unfold Says.tileFree; decide +kernel
theorem met_workCommandComplete :
    let w := fun k => { job k (.ended .ok 3) with started := true }
    (∀ k ∈ [WKind.step, .frame, .launch], NMap.get? (working (w k)).works 9 = some (w k) ∧ (working (w k)).workOver (w k) = true ∧
      (working (w k)).rerunDue (w k) = false) ∧ good ((working (w .launch)).writeResults (w .launch)) = true := by decide +kernel
theorem met_requestRerun :
    let w := { job .step (.ended .poisoned 0) with started := true }
    NMap.get? (working w).works 9 = some w ∧ (working w).workOver w = true ∧ (working w).rerunDue w = true ∧
      (∀ i ∈ w.items, ((working w).tile i.tile).reload = []) := by decide +kernel

/-- A step of slot 0 under epoch 2 with drafts at 0 to 3 of it, its item ended as given. -/
def drafting (st : Status) (r : Nat) : State :=
  { working { job .step (.ended st r) with started := true, epoch := 2 } with
    seqs := [(0, { slot1 with epoch := 2, c := 4, a := 7 })] }

theorem met_epochResolve :
    (∀ e ∈ [(Status.ok, 3), (.ok, 4), (.poisoned, 0)],
      let s := drafting e.1 e.2
      (match s.runningWork 0 with
        | some (_, w) => decide (w.epoch = (s.seq 0).epoch) && decide (w.failure = if e.1 = .ok then none else some e.1) &&
            decide (w.verdict = some e)
        | none => false) = true ∧ (s.seq 0).epoch ≠ 0 ∧ (s.seq 0).action = none) := by
  decide +kernel

/-- The machine's management key in force. -/
def managed (s : State) : State :=
  { s with cfg := { s.cfg with active := some { cset with jobs := [{ (default : JobKey) with job := 0, idA := some 1, ctx := 0 }] } } }

def mg (node : BitVec 14) : MgmtHdr := { via := 0, node := node, tagOk := true }

theorem met_epochToken :
    let s := managed (drafting .ok 3)
    s.mgmtOk (mg 5) false = true ∧ (1 : W16).toNat ≠ 0 ∧
      (s.seqs.find? (fun x => x.2.state != 0 && x.2.ctx = 0 && x.2.epoch = 2)).map (fun x => x.2.action) = some none ∧
      s.seqs.find? (fun x => x.2.state != 0 && x.2.ctx = 0 && x.2.epoch = 1) = none := by decide +kernel
theorem met_epochTokenApply :
    let s := { drafting .ok 3 with seqs := [(0, { slot1 with epoch := 2, c := 4, a := 7, action := some (true, 3) })] }
    (s.seq 0).epoch ≠ 0 ∧ (s.seq 0).action ≠ none ∧
      (∀ e ∈ s.works, e.2.ctx = (s.seq 0).ctx → e.2.epoch = (s.seq 0).epoch → e.2.ended = true) := by decide +kernel
theorem met_epochAckTimeout :
    let s := { drafting .ok 3 with
      seqs := [(0, { slot1 with acks := [5], tokenAt := 0 })], clk := { up.clk with now := 10000000 } }
    (s.seq 0).acks ≠ [] ∧ (s.seq 0).tokenAt + 10000000 ≤ s.clk.now ∧ (s.runningWork 0).isSome = true := by decide +kernel
theorem met_slotPreempt :
    let s := { opened with seqs := [(0, { slot1 with victim := true })], ctxs := [(0, { walked with swapBase := hostBase, swapSize := 4096 })] }
    (s.seq 0).victim = true ∧ s.runningWork 0 = none ∧ (s.swapDest (s.seq 0)).isSome = true := by decide +kernel
theorem met_slotResume :
    let s := { opened with seqs := [(0, { slot1 with state := 4 })] }
    (s.seq 0).state = 4 ∧ s.firstPreempted (s.partOfSeq (s.seq 0)) = some 0 ∧ s.victimIn (s.partOfSeq (s.seq 0)) = false ∧
      s.owed (s.seq 0) ≤ s.kvFree ((s.partOfSeq (s.seq 0)).getD 0) ∧
      ((NMap.keysOf (s.seq 0).runs (fun _ r => r.pa.isNone)).foldlM (fun (s : State) k => s.runIn 0 k (fun _ => false)) s).isSome = true := by decide +kernel

/-! ### Configuration, firmware, functions, resets, observability -/

/-- The staging area. -/
def staging : Nat := hbmBase + 2 ^ 31

theorem met_configStage : up.cfgFree = true ∧ up.accepts (pk 0) true false true = true ∧
    (0x400000 : W32).toNat ≤ 0x400000 ∧ (up.take (pk 0)).inStaging staging 0x400000 = true ∧
    ((up.take (pk 0)).hbmRead staging 64 up.boot.stagingKey).bad = false := by decide +kernel
theorem met_configSwap :
    let s := { up with cfg := { up.cfg with shadow := some cset } }
    let u := { s with models := [(1, mdl)] }
    up.cfg.shadow = none ∧ s.cfgFree = true ∧ s.accepts (pk 0) true false true = true ∧ s.cfg.shadow = some cset ∧
      s.xfersAtRest = true ∧ (s.take (pk 0)).swapRefused cset = false ∧ (u.take (pk 0)).swapRefused { cset with parts := [] } = true := by decide +kernel
theorem met_configFenceTimeout :
    let s := { up with cfg := { up.cfg with fence := some (pk 0, 960000) } }
    s.cfg.fence = some (pk 0, 960000) ∧ 960000 + 40000 ≤ s.clk.wall := by decide +kernel

/-- A staged image. -/
def staged : State := { up with boot := { up.boot with staged := some ([], 1, 2, false) } }

theorem met_fwActivate : staged.cfgFree = true ∧ staged.accepts (pk 0) true false true = true ∧
    staged.boot.staged = some ([], 1, 2, false) := by decide +kernel
theorem met_commandInterpretationResumes :
    let s := { staged with boot := { staged.boot with pause := some (pk 0) } }
    s.running = true ∧ s.boot.pause = some (pk 0) ∧ s.boot.staged = some ([], 1, 2, false) := by decide +kernel
theorem met_functionDisable : up.accepts (pk 0) true false
      (decide ((3 : Byte).toNat < 4) && decide ((1 : Byte).toNat < 2) && functionIndexOk (3 : Byte).toNat (4095 : W16).toNat) = true ∧
    (4095 : W16).toNat ≠ (pk 0).qp.toNat ∧ up.isDisabled 3 4095 = false ∧
    up.disabling.find? (fun d => d.kind = 3 && d.index = 4095) = none := by decide +kernel
theorem met_functionEnable :
    let s := { up with disabled := [(0, 15)] }
    s.accepts (pk 0) true false (decide ((0 : Byte).toNat < 4) && functionIndexOk (0 : Byte).toNat (15 : W16).toNat) = true ∧
      s.disabling.any (fun d => d.kind = 0 && d.index = 15) = false ∧ s.isDisabled 0 15 = true := by decide +kernel
theorem met_resets : up.tileOff 255 = false ∧ up.accepts (pk 0) true false (decide ((0 : Byte).toNat < 16)) = true ∧
    (NMap.get? up.parts 0).isSome = true ∧ (0 : W32) ≠ 0xC01D0B74 := by decide +kernel

/-- The package with memory space enabled. -/
def bar : State := { up with port := { up.port with memEnable := true } }

theorem met_chipResetWrite : bar.live = true ∧ bar.port.memEnable = true ∧ bar.boot.inReset = false := by decide +kernel

/-- A partition reset of partition 0 with tile 5 that has begun. -/
def reset0 : Reset :=
  { level := .partition, asked := .partition, target := 0, hs := [], ctxs := [], kill := [], begun := true, tiles := [5], since := 0 }

theorem met_verifyingPass :
    let s := { up with resets := [reset0] }
    s.resets.find? (fun r => decide (r.target = 0) && s.readyToVerify r) = some reset0 := by decide +kernel
theorem met_counterSnapshot : up.accepts (pk 0) true false true = true ∧ up.snapPending = none ∧
    up.clk.now + 10000 ≤ (1001000000 : W64).toNat ∧ (1001000000 : W64).toNat ≤ up.clk.now + 1000000000 ∧
    (1009999 : W64).toNat < up.clk.now + 10000 ∧ up.clk.now + 1000000000 < (1001000001 : W64).toNat := by decide +kernel
theorem met_counterSnapshotLatch :
    let s := { up with snapPending := some (pk 0, 1000000) }
    s.snapPending = some (pk 0, 1000000) ∧ 1000000 ≤ s.clk.now := by decide +kernel
theorem met_dumpRead :
    let s := { up with dumps := [{ handle := 1, ctx := 0, bytes := [1, 2] }] }
    s.accepts (pk 0) true false true = true ∧
      s.dumps.find? (fun d => d.handle = 1) = some { handle := 1, ctx := 0, bytes := [1, 2] } ∧
      (s.take (pk 0)).inStaging staging 2 = true ∧ (s.take (pk 0)).targetFails staging true = none := by decide +kernel
theorem met_traceStart : up.accepts (pk 0) true false
      (decide ((0 : Byte).toNat < 2) && traceSizeOk 0x10000 && decide ((hbmBase + 2 ^ 32) % 0x10000 = 0)) = true ∧
    (up.take (pk 0)).traceRingOk false 0 (hbmBase + 2 ^ 32) 0x10000 = true ∧
    (up.take (pk 0)).traceRingOk true 0 staging 0x400000 = true ∧ traceSizeOk 0x400000 = true ∧ up.trace.running = false := by
  decide +kernel

/-! ### Registers, configuration space, CXL memory, SPDM -/

theorem met_barActs : Says.barActs bar ∧ (bar.qp 0).active = true ∧ (bar.qp 0).enable = true ∧ bit (0 : W64).toNat 0 = false ∧
    (15 : W16).toNat < 2 ^ (bar.qp 0).sqLog ∧ 2 ^ (bar.qp 0).sqLog ≤ (16 : W16).toNat ∧ up.port.memEnable = false ∧
    (true && bar.ringOk (bar.qp 0).sqHbm (bar.qp 0).sqBase) = true ∧
    (false && bar.ringOk (bar.qp 0).sqHbm (bar.qp 0).sqBase) = false ∧ (0x3FFFFF8 : BitVec 26).toNat % 8 = 0 ∧
    (0x3FFFFFF : BitVec 26).toNat % 4 ≠ 0 := by
  unfold Says.barActs; decide +kernel

/-- Queue pair 0 disabled, its rings of 16 and of 2^16 entries; and one of 8. -/
def off0 (n : Nat) : State := { bar with qps := [(0, { Qp.reset with sqLog := n, cqLog := 16 })] }

theorem met_qpEnable : bit (9 : W64).toNat 0 = true ∧ ((off0 4).qp 0).enable = false ∧ ringLog ((off0 4).qp 0).sqLog = true ∧
    ringLog ((off0 4).qp 0).cqLog = true ∧ bit (9 : W64).toNat 3 = true ∧ ((off0 4).ctx? (bits (1 : W64).toNat 8 8)).isSome = true ∧
    ringLog ((off0 3).qp 0).sqLog = false ∧ bit (0xFF01 : W64).toNat 3 = false ∧ (off0 4).ctx? (bits (0xFF01 : W64).toNat 8 8) = none := by
  decide +kernel
theorem met_msixCoalesceTimer :
    let s := { up with qps := [(0, { pair true 0 with oldest := some 996000 })] }
    s.running = true ∧ (s.qp 0).oldest = some 996000 ∧ 996000 + 4000 ≤ s.clk.now := by decide +kernel
theorem met_configRequest : up.pins.perstN = true ∧ up.pins.supplies = true ∧ up.live = true ∧ up.boot.retry = false ∧
    up.boot.inReset = false ∧
    (let s := { State.reset with pins := { State.reset.pins with perstN := true } }
     s.pins.supplies = true ∧ s.live = true ∧ s.boot.retry = true) := by decide +kernel

/-- The HDM window open at 1 TiB. -/
def window : State := { bar with port := { bar.port with hdmOn := true, hdmBase := 2 ^ 40 } }

theorem met_cxlMem :
    (match window.hdmAddr (2 ^ 40 + 2 ^ 31) 64 with
      | some pa => decide (pa = staging) && ((window.strikeHbm []).hostOpenKey pa false).isSome &&
          ((window.strikeHbm []).hostOpenKey pa true).isSome && ((window.strikeHbm []).stack (stackOf pa)).available
      | none => false) = true ∧
    (match window.hdmAddr (2 ^ 40) 64 with
      | some pa => ((window.strikeHbm []).hostOpenKey pa false).isNone && ((window.strikeHbm []).hostOpenKey pa true).isNone
      | none => false) = true := by decide +kernel
theorem met_hotReset : up.running = true ∧ up.boot.retry = false ∧ up.boot.testMode = false ∧ (1 : BitVec 3).toNat < 2 ∧
    1 ≤ (7 : Byte).toNat ∧ (7 : Byte).toNat ≤ 7 := by decide +kernel
theorem met_spdmTestMode :
    let s := { up with boot := { up.boot with testMode := true } }
    s.running = true ∧ s.boot.retry = false ∧ s.boot.testMode = true := by decide +kernel

/-! ### Power, pins, boot, JTAG -/

theorem met_smbWrites : up.pins.supplies = true ∧ (1700 : W16).toNat ≤ 1700 ∧ 1700 < (1701 : W16).toNat := by decide +kernel

/-- The partition in efficiency mode, from 0.60 V to 0.80 V. -/
def efficient : State :=
  { up with cfg := { up.cfg with active := some { cset with parts :=
      [(0, { glens := 0xFFFF, present := true, pol := { mode := 3, vMin := 10, vMax := 50, vFixed := 30, cap := 0, margin := 0 } })] } } }

theorem met_rateMonitorWindow : up.running = true ∧ (up.quad 63).window < up.clk.now / 1024 := by decide +kernel
theorem met_governor : (efficient.policy 0).isSome = true ∧ efficient.quadPart 63 = some 0 ∧
    (efficient.policy 0).map (·.mode) = some 3 ∧ (efficient.governed 0).contains 63 = true := by decide +kernel

/-- The package at a measured power, the limiter's last step `ago` back. -/
def hungry (w1 w100 : Nat) (ago : Nat) : State :=
  { up with power := { up.power with w1ms := w1, w100us := w100, limAt := up.clk.wall - ago } }

theorem met_powerLimiterStep :
    (hungry 1701 1701 10000).running = true ∧ (hungry 1701 1701 10000).capNow < (hungry 1701 1701 10000).power.w100us ∧
      (hungry 1701 1701 10000).capNow < (hungry 1701 1701 10000).power.w1ms ∧
      (hungry 1701 1701 10000).power.limAt + 10000 ≤ (hungry 1701 1701 10000).clk.wall ∧
      (hungry 1649 1700 100000).power.w100us ≤ (hungry 1649 1700 100000).capNow ∧
      100 * (hungry 1649 1700 100000).power.w1ms ≤ 97 * (hungry 1649 1700 100000).capNow ∧
      (hungry 1649 1700 100000).power.limAt + 100000 ≤ (hungry 1649 1700 100000).clk.wall ∧
      97 * (hungry 1650 1700 0).capNow < 100 * (hungry 1650 1700 0).power.w1ms := by decide +kernel
theorem met_thermal :
    let s := { up with quads := [(63, { Quad.reset with ceilT := 40 })] }
    s.running = true ∧ (105 : Byte).toNat ≤ 105 ∧ 100 ≤ (100 : Byte).toNat ∧ (s.quad 63).thermAt + 20000 ≤ s.clk.wall ∧
      (97 : Byte).toNat ≤ 97 ∧ (s.quad 63).ceilT < 80 ∧ (s.quad 63).thermAt + 100000 ≤ s.clk.wall ∧ 97 < (98 : Byte).toNat ∧
      (99 : Byte).toNat < 100 ∧ 105 < (106 : Byte).toNat ∧ 115 ≤ (115 : Byte).toNat ∧ (114 : Byte).toNat < 115 ∧
      (s.quad 63).off = false ∧ 10000 < 10001 ∧
      (let q := ({ s with quads := [(63, { Quad.reset with off := true, offCause := 3 })] } : State).quad 63
       q.off = true ∧ ¬(q.offCause = 2 ∧ q.retLost = true)) := by decide +kernel
theorem met_pins : up.pins.supplies = true ∧ up.live = true ∧ up.pins.trayResetN = true ∧ State.reset.pins.trayResetN = false ∧
    (let s := { up with pins := { up.pins with pwrgood := false } }
     s.pins.supplies = true ∧ s.pins.pwrgood = false ∧ s.live = true) ∧
    (let s := { up with pins := { up.pins with supplies := false } }
     s.pins.supplies = false) := by decide +kernel
theorem met_boot : State.reset.boot.inReset = true ∧ State.reset.pins.supplies = true ∧ State.reset.pins.pwrgood = true ∧
    State.reset.live = true ∧ State.reset.pins.jtag ≠ 3 ∧ State.reset.pins.trayResetN = false := by decide +kernel
/-- What a boot of an unowned package with every record absent reads: a good vendor image, or a directory that is not. -/
def firstBoot (dir : Bool) : BootInputs :=
  { (default : BootInputs) with
    dirOk := dir, image := { (default : FlashRec) with present := true, sigOk := true }, imageRoot := Config.vendorRootHash
    identity := true, pufOk := true, certOk := true, colSelfTest := true }
theorem met_bootOutcome : bootError (firstBoot true) false = none ∧ bootError (firstBoot false) false = some 6 := by
  have e : ∀ b, recordBad false b (default : FlashRec) = false := by decide
  simp [bootError, firstBoot, e, show (default : FlashRec).present = false from rfl, show (default : BootInputs).policy = default from rfl,
    show (default : BootInputs).repair = default from rfl, show (default : BootInputs).install = default from rfl]
  decide
theorem met_stewardFirmwareReady :
    let s := { up with boot := { up.boot with devState := 0 } }
    s.running = true ∧ s.boot.devState = 0 := by decide +kernel

/-! ### Faults, scrubbing, links, flows, barriers of a job, time -/

theorem met_faults :
    let s := { up with tiles := [(255, { Tile.reset with core := { Core.reset with run := .running } })] }
    s.boot.inReset = false ∧ (s.tile 255).core.run ≠ .idle ∧ (s.tile 255).inReset = false ∧ (3 : BitVec 3).toNat < 4 ∧
      4 ≤ (4 : BitVec 3).toNat ∧ s.saddleRerouted.contains 0 = false := by decide +kernel

/-- Everything that may stall: tile 5 runs with an array operation, a vector operation and a transfer; a far port; a link. -/
def busy : State :=
  let c : Core := { Core.reset with run := .running }
  let x : Tile := { Tile.reset with ctx := some 0, core := c, aops := [default], vops := [default], xfers := [default] }
  { up with
    tiles := [(5, x)]
    fars := [(1, { Far.reset with present := true, enabled := true })]
    links := { up.links with ports := [(11, { Port.reset with cabled := true, up := true })] } }

theorem met_hang : busy.running = true ∧ ∀ d ∈ [Domain.engine 5, .core 5, .hbm 0, .cxl, .far 1, .ohmist 11, .saddle 7, .colCore, .steward],
    busy.threshold d.kind * 1000 ≤ 200000 ∧ busy.mayStall d 2 = true := by decide +kernel
theorem met_remotePortRequest : up.portRefuses 5 0x11FFFC0 1 true = none ∧ up.portRefuses 5 0x11FFFC0 1 false = none ∧
    up.portRefuses 5 0x1200000 1 true = some .translationFault ∧ (up.quad (quadOf 5)).scrubPass = false := by decide +kernel
theorem met_scrubAccess : (up.quad (quadOf 5)).off = false ∧ up.scrubOff 5 = false ∧ (36863 : W16).toNat < 36864 ∧
    (16383 : W16).toNat < 16384 := by decide +kernel
theorem met_quadReturnScrubPass :
    let s := { up with quads := [(63, { Quad.reset with scrubPass := true })] }
    (s.quad 63).scrubPass = true ∧ (s.quad 63).off = false := by decide +kernel
theorem met_weightReload :
    let s := { up with tiles := [(5, { Tile.reset with resid := [575], reload := [575] })],
                       models := [(1, { mdl with blocks := [(5, 575, hbmBase)] })] }
    (s.tile 5).reload.contains 575 = true ∧ s.tileOff 5 = false ∧ (s.quad (quadOf 5)).scrubPass = false ∧ (s.tile 5).inReset = false ∧
      s.goldenOf 5 575 = some (1, hbmBase, 0) := by decide +kernel
theorem test_channelUnit : [(0, 0), (31, 3), (5, 4), (31, 0xBFFFFF)].all (fun (e : Nat × Nat) =>
    pseudoChannel (hbmBase + 64 * channelUnit e.1 e.2) = e.1) = true ∧ channelUnit 31 0xBFFFFF + 1 = stackSize / 64 := by
  decide +kernel
theorem met_hbmPatrol : (0xBFFFFF : BitVec 24).toNat < stackSize / 64 / 32 ∧ (up.stack 0).available = true := by decide +kernel

theorem crcBit_lt (c : Nat) (b : Bool) (h : c < 2 ^ 32) : crcBit c b < 2 ^ 32 := by
  unfold crcBit; split
  · exact Nat.xor_lt_two_pow (by omega) (by norm_num)
  · omega
theorem foldl_lt {α : Type} (f : Nat → α → Nat) (hf : ∀ c a, c < 2 ^ 32 → f c a < 2 ^ 32) (l : List α) (c : Nat) (h : c < 2 ^ 32) :
    l.foldl f c < 2 ^ 32 := by
  induction l generalizing c with
  | nil => exact h
  | cons a l ih => exact ih _ (hf c a h)
theorem crc32_lt (bs : List Byte) : crc32 bs < 2 ^ 32 :=
  Nat.xor_lt_two_pow (by norm_num) (foldl_lt _ (fun c b h => foldl_lt _ (fun c i h => crcBit_lt c _ h) _ c h) _ _ (by norm_num))

/-- A flit of a kind, its header in its first bytes, with its CRC. -/
def body (kind : Nat) : List Byte := List.replicate 8 0 ++ [BitVec.ofNat 8 (64 * kind)] ++ List.replicate 243 0
def flit (kind : Nat) : List Byte := body kind ++ leBytes 4 (crc32 (body kind))

theorem body_length (k : Nat) : (body k).length = 252 := by
  rw [body, List.length_append, List.length_append, List.length_replicate, List.length_replicate]; rfl
theorem met_flits (k : Nat) (hk : k < 4) : (busy.ohm 11).up = true ∧ (flit k).length = 256 ∧
    crc32 ((flit k).take 252) = leAt (flit k) 252 4 ∧ (flitHdr (flit k)).kind = k := by
  refine ⟨by decide +kernel, by rw [flit, List.length_append, body_length, leBytes_length], ?_, ?_⟩
  · have e : (flit k).take 252 = body k := List.take_left' (body_length k)
    have d : (flit k).drop 252 = leBytes 4 (crc32 (body k)) := List.drop_left' (body_length k)
    rw [e, leAt, d, List.take_of_length_le (by simp), leVal_leBytes]
    exact (Nat.mod_eq_of_lt (crc32_lt _)).symm
  · have h : ∀ l : List Byte, leAt (body k ++ l) 0 12 = leAt (body k) 0 12 := by
      intro l; rw [leAt, leAt, List.drop_zero, List.drop_zero, List.take_append_of_le_length (by rw [body_length]; omega)]
    simp only [flitHdr, flit, h]
    obtain rfl | rfl | rfl | rfl : k = 0 ∨ k = 1 ∨ k = 2 ∨ k = 3 := by omega
    all_goals decide +kernel
theorem met_badFlits : (busy.ohm 11).up = true ∧ (List.replicate 256 (1 : Byte)).length = 256 ∧ ((none : Option Nat) = none ∨ crc32 ((List.replicate 256 (1 : Byte)).take 252) ≠ leAt (List.replicate 256 (1 : Byte)) 252 4) := by
  exact ⟨by decide +kernel, List.length_replicate, Or.inl rfl⟩

/-- Port 11 cabled and down; up with its counts at the limits. -/
def ports (p : Port) : State := { up with links := { up.links with ports := [(11, { p with cabled := true })] } }

theorem met_linkTraining : up.boot.inReset = false ∧ up.live = true ∧ ((ports Port.reset).ohm 11).cabled = true ∧
    ((ports Port.reset).ohm 11).up = false ∧ ((ports Port.reset).ohm 11).disabled = false ∧
    ((ports Port.reset).ohm 11).nextTry ≤ (ports Port.reset).clk.wall := by decide +kernel
theorem met_linkDown : 8 ≤ ((ports { Port.reset with nakCount := 8 }).ohm 11).nakCount ∧
    (let s := ports { Port.reset with nakCount := 7, lastValid := 996000 }
     (s.ohm 11).nakCount < 8 ∧ (s.ohm 11).lastValid + 4000 ≤ s.clk.wall) ∧
    (let s := ports { Port.reset with nakCount := 7, lastValid := 996001 }
     s.clk.wall < (s.ohm 11).lastValid + 4000) := by decide +kernel
theorem met_notices : up.mgmtOk (mg 5) true = true ∧ (managed up).mgmtOk (mg 5) false = true ∧
    ({ mg 5 with tagOk := false } : MgmtHdr).tagOk = false := by decide +kernel

/-- Job 7 in context 0 with a key; port 0 up; a transfer of tile 5 to node 1 with one element issued; one packet unsettled. -/
def job7 : JobKey := { (default : JobKey) with job := 7, ctx := 0, sendId := 1, idA := some 1 }
def sending : Xfer :=
  { (default : Xfer) with hdr := 2 ^ 34, outst := [{ (default : OutW) with kind := 3, pa := 0x40000000, data := [1, 2] }] }
def pkt (ty : BitVec 4) (dst : BitVec 14) : Packet :=
  { ptype := ty, xdir := true, ydir := true, dstNode := dst, srcNode := 1, srcTile := 5, tgen := 1, job := 7, xtag := 0, serial := 3,
    keyId := 1, opened := false, resent := false, dstVa := 0x0003010040000000, birth := 1000000, payload := [1, 2], authOk := true,
    poison := [] }
def sent : SFlow :=
  { tile := 5, node := 1, cls := 0, port := some 0, nextSerial := 4, opened := true, unsettled := [pkt 0 1], sentAt := 950000,
    lastAck := 0, laterAt := some 990000 }
def net (st : Nat) (fs : List SFlow) : State :=
  { hosted with
    cfg := { up.cfg with active := some { cset with jobs := [job7] } }
    tiles := [(5, { Tile.reset with ctx := some 0, xfers := [sending] })]
    links := { up.links with ports := [(0, { Port.reset with cabled := true, up := true })], sflows := fs,
                             flows := if st = 0 then [] else [{ node := 1, tile := 5, cls := 0, expected := st, statuses := [(2, .ok)], last := 0 }] } }

theorem met_packetInject :
    let s := net 0 []
    let f := s.sflow 5 sending.node
    let r := s.flowRoute f 7
    (s.tile 5).headX 0 = some sending ∧ sending.packetPart 1 ≠ [] ∧ s.live = true ∧
      ((s.tile 5).ctx.bind s.jobOf).bind s.jobKey = some job7 ∧ NMap.get 0 s.links.frames (frameKey 7 1 5) + 1 < 2 ^ 64 ∧
      f.unsettled.length < 32 ∧ sending.node ≠ s.links.inst.node ∧ r.2.2 = some 0 ∧
      s.portTakes 0 (s.packetOf 5 sending (sending.packetPart 1) f job7 r.1 r.2.1) true = true := by decide +kernel
theorem met_transitForward :
    let s := net 0 []
    let u := { s with links := { s.links with ports := [(8, { Port.reset with up := true })] } }
    (pkt 0 2).dstNode.toNat ≠ s.links.inst.node ∧ (s.ohm 0).up = true ∧ s.live = true ∧ s.boot.inReset = false ∧
      (s.nextPort 5 2 0 true true).filter s.portOpen = some 0 ∧ s.portTakes 0 (pkt 0 2) false = true ∧
      (pkt 0 0x400).dstNode.toNat ≠ u.links.inst.node ∧ (u.ohm 8).up = true ∧ (u.nextPort 5 0x400 0 true true).filter u.portOpen = none ∧
      (pkt 0 0x400).isRequest = true := by decide +kernel
theorem met_requestFor : ∀ k ∈ [0, 1, 2, 3], Says.requestFor (net 3 []) 0 (pkt (BitVec.ofNat 4 k) 0) k 0 := by
  intro k hk
  simp only [List.mem_cons, List.not_mem_nil, or_false] at hk
  unfold Says.requestFor
  obtain rfl | rfl | rfl | rfl := hk <;> decide +kernel
theorem met_requests : (Says.knownFlow (net 3 []) (pkt 0 0)).isSome = true ∧ (pkt 0 0).opened = false ∧
    Says.knownFlow (net 0 []) { pkt 0 0 with opened := true } = none := by decide +kernel
theorem met_flowOrder :
    let d := fun (e : Nat) => ((pkt 0 0).serial.toNat + 65536 - e) % 65536
    (match (net 3 []).rxCheck 0 { pkt 0 0 with dstVa := 0x40000000 } with | .done _ _ => d 3 = 0 | _ => false) = true ∧ 32768 ≤ d 4 ∧ d 2 ≠ 0 ∧ d 2 < 32768 := by
  decide +kernel
theorem met_answers : ∀ k ∈ [4, 5, 6], Says.answerFor (net 0 [sent]) (pkt (BitVec.ofNat 4 k) 0) k := by
  intro k hk
  simp only [List.mem_cons, List.not_mem_nil, or_false] at hk
  unfold Says.answerFor
  obtain rfl | rfl | rfl := hk <;> decide +kernel
theorem met_answers_status : (Status.ofCode (bits (pkt 4 0).dstVa.toNat 40 8)).isSome = true := by decide +kernel
theorem met_resends :
    let s := net 0 [sent]
    let l := { s with links := { s.links with ports := [] } }
    let f := s.sflow 5 1
    f.unsettled.head? = some (pkt 0 1) ∧ f.laterAt = some 990000 ∧ 990000 + 10000 ≤ s.clk.now ∧ s.portLost f = false ∧
      f.sentAt + 50000 ≤ s.clk.now ∧ (l.sflow 5 1).unsettled.head? = some (pkt 0 1) ∧ l.portLost (l.sflow 5 1) = true := by decide +kernel

/-- Job 7's barrier 1 of two participants, whose home is node 1, an arrival forwarded 10 ms ago. -/
def away : Barrier := { p := 2, arrived := 0, phase := 2 ^ 32 - 1, broken := false, commitBound := false, home := some 1, lastSent := some 0 }
def joined : State :=
  let s := managed (net 0 [])
  { s with
    cfg := { s.cfg with active := some { cset with jobs := [job7, { job7 with job := 0 }] } }
    models := [(1, { mdl with pkgs := [0, 1] })], barriers := [(objKey 0 1, away)], clk := { s.clk with now := 10000000 } }

theorem met_jobBarriers : joined.mgmtOk (mg 1) false = true ∧ joined.ctxOfJob 7 = some 0 ∧
    NMap.get? joined.barriers (objKey 0 1) = some away ∧ joined.isHome away = false ∧ away.broken = false ∧
    joined.partRefuses 0 1 = none ∧ joined.partRefuses 0 2 ≠ none ∧ 0 + 10000000 ≤ joined.clk.now := by decide +kernel
theorem met_time :
    let s := { managed up with clk := { up.clk with master := false, t1 := some 0 } }
    let u := { up with clk := { up.clk with master := false } }
    s.clk.master = false ∧ s.boot.inReset = false ∧ s.live = true ∧ s.clk.t1.getD s.clk.lastEx + 1000000 ≤ s.clk.now ∧
      (u.clk.t1 = none ∧ u.clk.lastEx = 0) ∧ s.mgmtOk (mg 1) true = true ∧ s.clk.t1 = some 0 ∧ up.clk.master = true ∧
      (managed up).mgmtOk (mg 1) false = true ∧ up.clk.now < (1000001 : W64).toNat ∧ (250 : Int).natAbs ≤ 250 ∧ 250 < (-251 : Int).natAbs ∧
      up.clk.peerBad = 0 ∧ ({ up.clk with peerBad := 1 } : Clock).peerBad ≠ 0 := by decide +kernel

/-! ### Tile cores -/

/-- A running core whose store holds some bytes at address 0, and the package with that core in tile 5, of context 0. -/
def coreOf (bs : List Byte) : Core :=
  { Core.reset with run := .running, istore := Bytes.wr [] 0 bs, g := [(1, 12), (2, 5), (3, 2 ^ 64 - 1), (4, 9)] }
def runs (bs : List Byte) : State := { up with tiles := [(5, { Tile.reset with ctx := some 0, core := coreOf bs })] }
def run (w : Nat) : State := runs (leBytes 4 w)

/-- What a statement about the scalar instruction `w` asks: it stands, the core is plain and ahead of nothing, no register is pending. -/
def ready (w : Nat) : Bool :=
  (run w).stands 5 w && (run w).plain 5 && !((run w).tile 5).core.ahead && ((run w).tile 5).core.pend.isEmpty &&
    decide (((run w).tile 5).core.run = .running)

/-- With no register pending a core waits for none. -/
theorem waits_nil (c : Core) (h : c.pend = []) (ds : List Dst) : c.waits ds = false := by
  simp [Core.waits, Core.isPending, h]
theorem run_pend (w : Nat) : ((run w).tile 5).core.pend = [] := rfl

theorem met_integer : ∀ w ∈ [wordRR 0x01 3 1 2 0 0, wordRR 0x01 3 1 2 0 17, wordRR 0x01 3 1 2 7 18, wordRR 0x01 3 1 2 0 19,
    wordRI 0x02 3 1 0x7FFF, wordRI 0x03 3 1 5, wordRI 0x04 3 1 5, wordRI 0x05 3 1 5, wordRI 0x06 3 3 63, wordRI 0x06 3 3 127,
    wordRI 0x06 3 3 191, wordRI 0x06 3 3 192, wordLI 0x07 3 0xFFFFF, wordLI 0x08 3 1], ready w = true := by decide +kernel
theorem met_memory : ∀ w ∈ [wordM 0x10 3 1 4 0, wordM 0x10 3 1 4 6, wordM 0x10 3 1 3 3, wordM 0x11 3 1 4 3, wordM 0x12 15 1 4 0,
    wordM 0x12 15 1 4 1, wordM 0x13 15 1 4 0, wordM 0x13 15 1 4 1], ready w = true := by decide +kernel

/-- The scratchpad of tile 5 at 16 is readable and writable; 15 is not aligned, 2^24 × 2 outside; a latent double error is
uncorrectable. -/
theorem met_access :
    let s := run (wordM 0x10 3 1 4 3)
    let a := effAddr (s.tile 5).core 1 4
    a = 16 ∧ (s.tile 5).accessExc a 8 false = none ∧ (s.load 5 a 8).2.1 = false ∧ (s.tile 5).accessExc a 8 true = none ∧
    a % 8 = 0 ∧ inSp a 8 = true ∧ effAddr (s.tile 5).core 1 3 % 8 ≠ 0 ∧ effAddr (s.tile 5).core 3 1 = 0 ∧
    (let m := run (wordM 0x10 4 3 0 3)
     effAddr (m.tile 5).core 3 0 % 8 ≠ 0 ∧ effAddr (m.tile 5).core 3 0xFF9 % 8 = 0 ∧ inSp (effAddr (m.tile 5).core 3 0xFF9) 8 = false) ∧
    (let u := s.modTile 5 (fun x => { x with poison := [2] })
     u.stands 5 (wordM 0x10 3 1 4 3) = true ∧ (u.load 5 a 8).2.1 = true) := by decide +kernel

theorem met_predicates : ∀ w ∈ [wordRR 0x18 7 1 2 0 5, wordRI 0x19 31 1 0x7FFF, wordRR 0x1A 7 7 7 0 3, wordRR 0x1A 7 7 0 0 4,
    wordB 0x20 0 false false 2, wordB 0x20 0 true false 2, wordB 0x21 0 false false 2, wordB 0x21 0 true false 2,
    wordRR 0x22 0 1 0 0 0, wordRR 0x22 0 2 0 0 0], ready w = true := by decide +kernel
theorem met_targets : ((run 0).tile 5).core.rp 0 = !false ∧ ((run 0).tile 5).core.rp 0 = true ∧ ((run 0).tile 5).core.rg 1 % 4 = 0 ∧
    ((run 0).tile 5).core.rg 2 % 4 ≠ 0 ∧ ((run 0).tile 5).core.isPending (.p 0) = false := by decide +kernel

theorem met_floats : ∀ w ∈ [wordRR 0x28 15 1 2 0 0, wordRR 0x28 15 1 2 0 5, wordRR 0x28 15 1 0 0 8, wordRR 0x29 7 15 2 0 3,
    wordRR 0x2A 15 1 0 0 0, wordRR 0x2A 15 1 0 0 2, wordRR 0x2A 15 1 0 0 5, wordRR 0x2A 31 15 0 0 1, wordRR 0x2A 31 15 0 0 3,
    wordRR 0x2A 31 15 0 0 4], ready w = true := by decide +kernel
theorem met_illegal : ∀ w ∈ [wordRR 0x01 3 1 2 1 0, wordRR 0x18 7 1 2 0 6, wordRR 0x18 8 1 2 0 0, wordRR 0x22 1 1 0 0 0,
    wordRR 0x28 16 1 2 0 0, wordRR 0x28 1 1 2 0 9, wordRR 0x30 3 1 2 4 1, wordRR 0x3C 0 0 0 0 1], ready w = true := by decide +kernel
theorem met_special : ∀ w ∈ [wordRR 0x30 3 1 2 4 0, wordRR 0x34 3 1 0 0 0, wordRR 0x34 3 1 0 0 1, wordRR 0x34 0 1 2 0 2,
    wordRI 0x38 3 0 4, wordRI 0x38 3 0 5, wordRI 0x39 0 1 4, wordRI 0x39 0 1 3, wordRI 0x39 0 1 5, wordRR 0x3A 3 0 0 0 0,
    wordRI 0x3B 0 0 0, wordRI 0x3B 0 0 1, wordRI 0x3B 0 0 2, wordRI 0x3B 0 0 3, wordRR 0x3C 0 0 0 0 0, wordRR 0x3D 2 1 0 0 3,
    wordRR 0x3D 1 2 0 0 0, wordRR 0x3D 3 2 0 0 3, wordRR 0x3E 3 1 0 0 0, wordRR 0x3E 3 0 0 0 2], ready w = true := by decide +kernel
theorem met_special_values :
    let s := run 0
    (s.tile 5).streamBusy (12 % 64) = false ∧ s.csr 5 4 = some 1 ∧ s.csr 5 5 = none ∧ s.boot.devState ≠ 2 ∧
    ((s.modCore 5 (fun c => { c with run := .svc 1 })).nextItem 5) = none ∧ (s.log.recs.length < 64) ∧ (0 : Nat) ≤ ((s.tile 5).tk 0).issued ∧
    ((s.tile 5).tk 0).issued < (s.tile 5).core.rg 1 ∧ (s.tile 5).core.rg 2 < 16 ∧ (s.tile 5).core.rg 1 &&& descRsv 3 = 0 ∧
    16 ≤ 2 ^ 64 - 1 ∧ (s.tile 5).entryAwaited 3 5 = false ∧ (s.tile 5).entryAwaited 0 12 = false ∧
    (s.tile 5).core.rg 2 &&& descRsv 0 = 0 := by decide +kernel

/-- Two steps of context 0, the item of the first running on tile 5 and that of the second ready for it. -/
def item (st : Item) : WItem := { (default : WItem) with tile := 5, st := st }
def step1 (st : Item) : Work := { (default : Work) with ctx := 0, kind := .step, started := true, items := [item st] }
def given2 : State :=
  let c : Core := { coreOf (leBytes 4 (wordRI 0x3B 0 0 1)) with work := some 3 }
  { up with works := [(3, step1 .running), (4, step1 .ready)], tiles := [(5, { Tile.reset with ctx := some 0, core := c })] }
theorem met_workNext : given2.stands 5 (wordRI 0x3B 0 0 1) = true ∧ given2.plain 5 = true ∧
    (given2.modCore 5 (fun c => { c with run := .svc 1, pc := c.pc + 4, commits := c.commits + 1 })).nextItem 5 =
      some (4, step1 .ready, item .ready) := by decide +kernel

/-- A bundle of one scalar slot, of one with a bad header, and of a wait for a signal with a limit. `badEmpty` is
a bad header without slots. -/
def scalarBundle : Nat := 0x7F + 2 ^ 12 + wordRI 0x02 3 1 5 * 2 ^ 224
def badBundle : Nat := 0x7F + 2 ^ 13 + 2 ^ 12
def badEmpty : Nat := 0x7F + 2 ^ 13
def waitBundle : Nat := 0x7F + 2 ^ 11 + (2 * 2 ^ 29 + 1 * 2 ^ 20 + 2 * 2 ^ 15 + 10 * 32) * 2 ^ 192

theorem met_bundles :
    let s := runs (leBytes 32 scalarBundle)
    s.fetches 5 32 = true ∧ scalarBundle % 128 = 0x7F ∧ (s.tile 5).core.pc % 32 = 0 ∧
    leVal (Bytes.rd (s.tile 5).core.istore (s.tile 5).core.pc 32) = scalarBundle ∧ headerBad scalarBundle = false ∧
    hasScalar scalarBundle = true ∧ hasArray scalarBundle = false ∧ hasVector scalarBundle = false ∧ hasDma scalarBundle = false ∧
    hasSync scalarBundle = false ∧ headerBad badBundle = true ∧ (s.tile 5).core.ahead = false ∧ (s.tile 5).core.pend = [] ∧
    headerBad badEmpty = true ∧ hasScalar badEmpty = false ∧ hasScalar badBundle = true ∧
    (match scalarOp 5 false 32 (bnScalar badBundle) s with | .exc _ _ => true | _ => false) = true ∧
    (match scalarOp 5 false 32 (bnScalar scalarBundle) s with | .done _ _ => true | _ => false) = true := by decide +kernel
theorem met_waitExpiry :
    let c : Core := { coreOf (leBytes 32 waitBundle) with run := .syncWait waitBundle 1000 none none }
    let s := { up with tiles := [(5, { Tile.reset with ctx := some 0, core := c })], signals := [(objKey 0 12, { (default : Signal) with count := 4 })] }
    s.waitsIn 5 = some waitBundle ∧ syLim (bnSync waitBundle) = 10 ∧ 1000 + 2 ^ 10 ≤ s.clk.now ∧
      s.syncOver 5 waitBundle none = none := by decide +kernel
theorem met_branchResolve :
    let k : Ckpt := { (default : Ckpt) with p := 1, pred := 0, neg := false, predicted := false, otherPc := 8 }
    let s := { up with tiles := [(5, { Tile.reset with ctx := some 0, core := { coreOf [] with ckpts := [k] } })] }
    (s.tile 5).core.ckpts = k :: [] ∧ k.pend.any (fun e => decide (e.dst = .p k.pred)) = false ∧
      ((k.pred = 0 || bit k.p k.pred) != k.neg) ≠ k.predicted ∧ s.traced 5 = false ∧ (s.tile 5).core.frozen = false := by decide +kernel
theorem met_coreStop : ((run 0).tile 5).ctx = some 0 := by decide +kernel

/-! ### The array and the vector engine -/

/-- An array operation with word `w` and the package with it in tile 5, under a change `f` of the tile. -/
def aop (w d0 d1 : Nat) : AOp := { (default : AOp) with ticket := 1, i := { (default : Issue) with word := w, d0 := d0, d1 := d1 } }
def array (o : AOp) (f : Tile → Tile) : State := { up with tiles := [(5, f { Tile.reset with ctx := some 0, aops := [o] })] }
/-- A trit step of the overwrite kind on two rows, with the check set; a plane step of one plane. -/
def stepWord : Nat := 1 * 2 ^ 33 + 2 ^ 31 + 63 * 2 ^ 25 + 2 ^ 19
def planeWord : Nat := 2 ^ 61 + 2 ^ 31 + 2 ^ 19
def oneBlock : Slot := { Slot.reset with plane := some { first := 0, b := 1, eRef := 0, intact := true, exps := [] } }

theorem met_stepBegin :
    let o := aop stepWord 0 0
    let s := array o (fun x => { x with slots := [(0, { Slot.reset with zero := false })] })
    let z := array o (fun x => { x with slots := [(0, { Slot.reset with zero := true })] })
    let f := array o (fun x => { x with slots := [(0, { Slot.reset with failed := true })] })
    (s.tile 5).nextStep = some o ∧ (s.tile 5).disabled = false ∧ (s.tile 5).stepFails o.i = false ∧ ((s.tile 5).slot 0).zero = false ∧
    (z.tile 5).nextStep = some o ∧ (z.tile 5).stepFails o.i = false ∧ ((z.tile 5).slot (stSlot o.i.word)).zero = true ∧
    stMode o.i.word = 0 ∧ (f.tile 5).nextStep = some o ∧ (f.tile 5).stepFails o.i = true ∧
    ((array o (fun x => { x with disabled := true })).tile 5).disabled = true := by decide +kernel
theorem met_tritStep :
    let o : AOp := { aop stepWord 0 0 with begun := true }
    let s := array o id
    (s.tile 5).stepping = some o ∧ o.sub = 0 ∧ (s.readVectors 5 (adBase o.i.d0 + o.next * adStride o.i.d0) (stG o.i.word) 40).isSome = true ∧
    (match s.readVectors 5 (adBase o.i.d0 + o.next * adStride o.i.d0) (stG o.i.word) 40 with
      | some (vs, _, _) => !(false && vs.any a4Bad) | none => false) = true := by decide +kernel
/-- Vectors beyond the scratchpad; the A4 code 8 in a vector. -/
theorem met_tritStepFails :
    let o : AOp := { aop stepWord (2 ^ 25 - 8) 0 with begun := true }
    let p : AOp := { aop (stepWord + 2 ^ 23) 0 0 with begun := true }
    let s := array p (fun x => { x with sp := [(0, 8)] })
    ((array o id).tile 5).stepping = some o ∧ (array o id).readVectors 5 (adBase o.i.d0 + o.next * adStride o.i.d0) (stG o.i.word) 40 = none ∧
    (s.tile 5).stepping = some p ∧ (match s.readVectors 5 (adBase p.i.d0 + p.next * adStride p.i.d0) (stG p.i.word) 20 with
      | some (vs, _, _) => decide (stTag p.i.word = 1) && vs.any a4Bad | none => false) = true := by decide +kernel
theorem met_outlierDigitStep :
    let o : AOp := { aop (stepWord + 2 ^ 20) (4096 * 2 ^ 64 + 8 * 2 ^ 96 + 2 * 2 ^ 118 + 3 * 2 ^ 124) 0 with begun := true, sub := 1 }
    let s := array o (fun x => { x with sp := [(4096, 0x7F), (4097, 0x7F)] })
    let r := s.spRead 5 (adObase o.i.d0 + o.next * adOstride o.i.d0) (2 * adOcount o.i.d0)
    (s.tile 5).stepping = some o ∧ stMode o.i.word = 0 ∧ o.sub ≠ 0 ∧ inSp (adObase o.i.d0 + o.next * adOstride o.i.d0) (2 * adOcount o.i.d0) = true ∧
    sgn 16 (leAt r.1 0 2) = 32639 ∧
    (List.range 2).any (fun i => decide ((if i < 2 then sgn 16 (leAt (maskBad 4096 r.1 r.2.1) (2 * i) 2) else 0).natAbs > 32639)) = false := by
  decide +kernel
theorem met_planeToken :
    let o : AOp := { aop planeWord 0 0 with begun := true }
    let s := array o (fun x => { x with slots := [(0, oneBlock), (1, oneBlock), (2, oneBlock), (3, oneBlock), (4, oneBlock)] })
    (s.tile 5).stepping = some o ∧ stMode o.i.word = 1 ∧ (s.tile 5).stepFails o.i = false ∧
    (s.readVectors 5 (adBase o.i.d0 + o.next * adStride o.i.d0) (stG o.i.word) 40).isSome = true := by decide +kernel
theorem met_checkComparison :
    let c : Check := { set := 0, entry := 0, slot := 0, ticket := 1, kl := [(5, 5), (-1, -1)] }
    let d : Check := { c with kl := [(5, 5), (-1, 1)] }
    let s := array (aop stepWord 0 0) (fun x => { x with checks := [c, d] })
    (s.tile 5).checks = c :: [d] ∧ c.kl.all (fun p => decide (p.1 = p.2)) = true ∧ d.kl.all (fun p => decide (p.1 = p.2)) = false := by
  decide +kernel
/-- Loads of a trit block in each form, of a slot's copy and of plane blocks. -/
theorem met_loads : (∀ f ∈ [0, 1, 2, 3], let o := aop (2 ^ 62 + f * 2 ^ 39) 0 0
      ((array o id).tile 5).nextLoad = some o ∧ ((array o id).tile 5).disabled = false ∧ stMode o.i.word = 0 ∧ (ldPatch o.i.word && pdFromSlot o.i.d0) = false ∧
      ldForm o.i.word = f ∧ ((array o id).tile 5).reloadHeld o = false) ∧
    (let o := aop (2 ^ 62 + 2 ^ 38) (2 ^ 121) 0
     ((array o id).tile 5).nextLoad = some o ∧ ldPatch o.i.word = true ∧ pdFromSlot o.i.d0 = true ∧ ldForm o.i.word = 0 ∧
      (((array o id).tile 5).slot (pdSrc o.i.d0)).plane = none ∧ ((array o id).tile 5).reloadHeld o = false ∧
      (((array o (fun x => { x with slots := [(pdSrc o.i.d0, oneBlock)] })).tile 5).slot (pdSrc o.i.d0)).plane ≠ none) ∧
    (let o := aop (2 ^ 62 + 2 ^ 61) 0 0
     ((array o id).tile 5).nextLoad = some o ∧ stMode o.i.word = 1 ∧ ldForm o.i.word = 0 ∧
      ((array o id).tile 5).reloadHeld o = false) := by decide +kernel
/-- A plane load with a record of 1,024 exponents, all 100, below its reference exponent of 200. -/
def exponents : AOp := aop (2 ^ 62 + 2 ^ 61 + 2 ^ 39 + 200 * 2 ^ 22) 0 0
def withExps : State := array exponents (fun x => { x with sp := NMap.tab 0 8192 1024 (fun _ => 100) })
theorem tab_bytes (a n : Nat) (v : Byte) :
    Bytes.rd (NMap.tab 0 a n (fun _ => v)) a n = List.replicate n v := by
  unfold Bytes.rd Bytes.rd1
  rw [List.eq_replicate_iff]
  refine ⟨by simp, fun b hb => ?_⟩
  obtain ⟨i, hi, rfl⟩ := List.mem_map.1 hb
  rw [NMap.get_tab, if_pos ⟨by omega, by have := List.mem_range.1 hi; omega⟩]
theorem withExps_bytes : (withExps.spRead 5 8192 1024).1 = List.replicate 1024 100 := by
  have h : (withExps.spRead 5 8192 1024).1 = Bytes.rd (withExps.tile 5).sp 8192 1024 := by
    unfold State.spRead State.spReadQuiet; dsimp only
  have k : (withExps.tile 5).sp = NMap.tab 0 8192 1024 (fun _ => 100) := rfl
  rw [h, k, tab_bytes]
theorem met_planeExponents : ((withExps.tile 5).nextLoad = some exponents ∧ stMode exponents.i.word = 1 ∧ ldForm exponents.i.word = 1 ∧
    (withExps.tile 5).reloadHeld exponents = false ∧ (ldWblock exponents.i.word + planeSlots (stPlaneN exponents.i.word + 1)) * 8192 = 8192 ∧
    ldEref exponents.i.word = 200 ∧ (withExps.spRead 5 8192 1024).2.1 = []) ∧
    (withExps.spRead 5 8192 1024).1.all (fun b => decide (b.toNat ≠ 0 ∧ b.toNat ≠ 255 ∧ b.toNat ≤ 200)) = true ∧
    (withExps.spRead 5 8192 1024).1.length = 1024 := by
  rw [withExps_bytes]
  exact ⟨by decide +kernel, by rw [List.all_replicate]; decide, List.length_replicate⟩
/-- Drains to the scratchpad in int32: with weight scales, without, and of a row that has begun. -/
theorem met_drains :
    let o := aop (2 * 2 ^ 62 + 2 ^ 27) 64 0
    let w := aop (2 * 2 ^ 62 + 2 ^ 27 + 2 ^ 26) 64 0
    let s := array { o with begun := true } id
    ((array o id).tile 5).nextDrain = some o ∧ drFold o.i.word = false ∧ drWscale o.i.word = false ∧ drWscale w.i.word = true ∧
    ((array w id).tile 5).nextDrain = some w ∧ inSp (ddWbase w.i.d0) 2048 = true ∧
    (List.range (drCount o.i.word)).all (fun k => inSp (ddOut o.i.d0 + k * ddStride o.i.d0)
      (rowBytes (drConv ((array o id).refTile 5) o.i.word).1)) = true ∧
    inSp (ddOut (2 ^ 25 - 8)) (rowBytes (drConv ((array o id).refTile 5) o.i.word).1) = false ∧
    (s.tile 5).aops.find? (fun o => decide (arKind o.i.word = 2) && o.begun && decide (o.next < drCount o.i.word)) =
      some { o with begun := true } ∧ drForm o.i.word = 0 ∧ drTscale o.i.word = false ∧ drDest o.i.word = true ∧
    (s.tile 5).disabled = false ∧
    (let f := aop (2 * 2 ^ 62 + 2 ^ 27 + 2 ^ 32) 64 0
     let x := (array f id).tile 5
     x.nextDrain = some f ∧ drFold f.i.word = true ∧ (x.row (drSet f.i.word) (drBase f.i.word + drCount f.i.word)).tag ≠ 3) ∧
    drDraws (s.refTile 5) o.i.word = false ∧ (s.tile 5).checks = [] ∧ (s.tile 5).ftq.length < 16 := by decide +kernel
theorem met_queueRowWrite :
    let o := aop (2 * 2 ^ 62 + 2 ^ 27) 64 0
    let q : QRow := { (default : QRow) with ticket := 1, dest := true, last := true }
    let s := array o (fun x => { x with ftq := [q] })
    (s.tile 5).ftq = q :: [] ∧ q.dest = true ∧ (s.tile 5).aops.find? (fun o => o.ticket = q.ticket) = some o := by decide +kernel

/-- A vector operation with word `w`, a chain of one stage that takes input 1, and its input descriptor. -/
def vop (w d : Nat) (b : Bool) : VOp :=
  { (default : VOp) with
    ticket := 1, begun := b
    i := { (default : Issue) with word := w, chain := [1 * 2 ^ 59 + 1 * 2 ^ 56 + 1 * 2 ^ 53], vdesc := [(0, d)] } }
def vector (o : VOp) (f : Tile → Tile) : State := { up with tiles := [(5, f { Tile.reset with ctx := some 0, vops := [o] })] }

theorem met_chainRunBegin :
    let o := vop 0 0 false
    let p := vop 0 (2 ^ 25 - 8) false
    findV (fun o => vKind o.i.word = 0 && !o.begun) [] ((vector o id).tile 5).vops = some o ∧ o.inside = true ∧
    splitStage (stagesOf o.i.chain) = none ∧ p.inside = false ∧
    findV (fun o => vKind o.i.word = 0 && !o.begun) [] ((vector p id).tile 5).vops = some p := by decide +kernel
/-- A run that splits by a list of two positions at 64: ascending inside the segment, not ascending, unreadable. -/
theorem met_split :
    let g := 12 * 2 ^ 59 + 2 * 2 ^ 25 + 64
    let o : VOp := { vop (7 * 2 ^ 41 + 7 * 2 ^ 29) 0 false with i := { (vop (7 * 2 ^ 41 + 7 * 2 ^ 29) 0 false).i with chain := [g] } }
    let good := vector o (fun x => { x with sp := [(64, 1), (66, 2)] })
    let list := fun (s : State) => let r := s.spRead 5 64 4; [leAt r.1 0 2, leAt r.1 2 2]
    findV (fun o => vKind o.i.word = 0 && !o.begun) [] (good.tile 5).vops = some o ∧ o.inside = true ∧
    splitStage (stagesOf o.i.chain) = some g ∧ sgListAt g = 64 ∧ sgListLen g = 2 ∧ 2 < vSeg o.i.word ∧ list good = [1, 2] ∧
    list (vector o id) = [0, 0] ∧ ((vector o (fun x => { x with poison := [8] })).spRead 5 64 4).2.1.isEmpty = false := by
  decide +kernel
theorem met_vectorBeat :
    let o := vop (127 * 2 ^ 41) 0 true
    let p := vop (128 * 2 ^ 41) 0 true
    ((vector o id).tile 5).running = some o ∧ o.reject = false ∧ (o.usesQueue && o.qrow.isNone) = false ∧ chainStream (stagesOf o.i.chain) = none ∧
    128 * o.beat + min 128 (vCount o.i.word - 128 * o.beat) = vCount o.i.word ∧ ((vector p id).tile 5).running = some p ∧
    128 * p.beat + min 128 (vCount p.i.word - 128 * p.beat) ≠ vCount p.i.word := by decide +kernel
theorem met_queueRowConsume :
    let o := vop (1023 * 2 ^ 41) (2 ^ 90 + 2 ^ 92) true
    let q : QRow := { (default : QRow) with ticket := 1, dest := false, last := true }
    let s := vector o (fun x => { x with ftq := [q] })
    (s.tile 5).running = some o ∧ (s.tile 5).ftq = q :: [] ∧ o.usesQueue = true ∧ o.qrow = none ∧ o.qdone < vCount o.i.word / 1024 ∧
    o.qdone + 1 = vCount o.i.word / 1024 ∧ bit (vdMask (o.inD 0)) 0 = true ∧ bit (vdMask (o.inD 0)) 1 = false := by decide +kernel
theorem met_lookupSlotLoad :
    let o := vop (2 ^ 62) 0 false
    findV (fun o => vKind o.i.word = 1) [] ((vector o id).tile 5).vops = some o ∧ inSp (vAddr o.i.word) 1040 = true ∧
    lutValid 0 = true ∧ lutValid (2 ^ 40) = false ∧ inSp (vAddr (2 ^ 62 + (2 ^ 25 - 1) * 2 ^ 35)) 1040 = false := by decide +kernel

/-! ### Transfers -/

/-- The package with a transfer of tile 5, its page of 1 GiB mapped to HBM or to host memory. -/
def moving (s : State) (q : Xfer) : State := { s with tiles := [(5, { Tile.reset with ctx := some 0, xfers := [q] })] }
/-- A transfer of four bytes: queued, its descriptor at 64; running, tile to tile, from HBM and to HBM. -/
def queued : Xfer := { (default : Xfer) with ticket := 1, i := { (default : Issue) with word := 2 ^ 27 }, st := .queued }
def going (hdr src dst : Nat) : Xfer := { queued with st := .running, hdr := hdr, src := src, dst := dst, cnt := 3, s := [1, 0, 0], d := [1, 0, 0] }
def here : Xfer := going (2 ^ 51 + 2 ^ 50) 0 64
def inward : Xfer := going (2 ^ 50) 0x40000000 64
def outward : Xfer := going (2 ^ 51) 64 0x40000000

/-- A good descriptor, one that sets a reserved bit, and one that cannot be read. -/
theorem met_transferBegin :
    let s := moving mapped queued
    let r := s.spRead 5 (dmaDaddr queued.i.word) 64
    let z := fun (f : Tile → Tile) => (s.modTile 5 f).spRead 5 (dmaDaddr queued.i.word) 64
    (s.tile 5).headX 0 = some queued ∧ queued.st = .queued ∧ s.mayRun 5 = true ∧ r.2.1.isEmpty = true ∧
    ({ queued.load r.1 (fun i => NMap.get 0 (r.2.2.tile 5).sparse i) with st := .running } : Xfer).bad = false ∧
    ({ queued.load (z (fun x => { x with sp := [(64, 1)] })).1 (fun _ => 0) with st := .running } : Xfer).bad = true ∧
    (z (fun x => { x with poison := [8] })).2.1.isEmpty = false := by decide +kernel
theorem met_elementBatch : ((moving mapped here).runningX 5 0) = some here ∧ here.perUnit = 1 ∧ (moving mapped here).inTurn 5 0 = true ∧
    (going (3 * 2 ^ 60) 0 0).perUnit ≠ 1 := by decide +kernel
theorem met_unitIssued : here.op ≠ 3 ∧ here.output here.nextIssue [7] = some [7] ∧
    (match (moving mapped here).dstPlaces 5 here here.nextIssue 1 with | .ok ps => decide (ps.length = 1) | .error _ => false) = true := by
  decide +kernel

/-- The page present; swapped; absent; its table's entry malformed; its table poisoned. -/
theorem met_translationWalk :
    let s := moving mapped outward
    let w := fun (u : State) => ((State.strikeHbm (moving u outward) []).walkTile 5 0 0x40000000).1
    let p := fun (b : Bytes) => { mapped with mem := { mapped.mem with hbm := b } }
    s.walkingX 5 0 = some outward ∧ outward.st = .running ∧ s.nextMiss 5 outward = some (0, 0x40000000, true) ∧ inKv 0x40000000 = false ∧
    (match w mapped with | .leaf _ _ _ => true | _ => false) = true ∧
    w (p (tables.filter (fun e => decide (e.1 < 0x10040002000)))) = .absent ∧
    w (p (Bytes.wr tables 0x10040002008 [0x20])) = .swapped ∧ w (p (Bytes.wr tables 0x10040002008 [0x1F])) = .malformed ∧
    w { mapped with mem := { mapped.mem with hbmPoison := [0x10040002000 / 64] } } = .poisoned := by decide +kernel

/-- Slot 0 open for 40 positions, 7 appended, its model with one attention layer; its run 0 in the data region, or swapped to the
staging area; tile 5 bound to the slot. -/
def layer0 : Attn := { layer := 0, h := 1, d := 1, k4 := true }
def kvSeq (run : Run) : Seq := { slot1 with ctx := 0, maxLen := 41, c := 7, a := 7, runs := [(runKey 0 0, run), (runKey 0 1, { pa := some (hbmBase + layer0.runBytes), shared := false, swap := 0, bad := false })] }
def kvTo (run : Run) (q : Xfer) : State :=
  { mapped with
    seqs := [(0, kvSeq run)], models := [(1, { mdl with attn := [layer0] })]
    tiles := [(5, { Tile.reset with ctx := some 0, core := { Core.reset with slotBound := some 0 }, xfers := [q] })] }
def runHere : Run := { pa := some hbmBase, shared := false, swap := 0, bad := false }
def runAway : Run := { pa := none, shared := false, swap := hbmBase + 2 ^ 31, bad := false }
def toKv : Xfer := going (2 ^ 51) 64 kvBase

theorem met_kvWalk : (kvTo runHere toKv).walkingX 5 0 = some toKv ∧ toKv.st = .running ∧ (kvTo runHere toKv).kvMapBad kvBase = false ∧
    (kvTo { runHere with bad := true } toKv).kvCheck (some 5) 0 kvBase true = .run layer0 0 hbmBase 0 ∧
    (kvTo { runHere with bad := true } toKv).kvMapBad kvBase = true ∧ (kvTo runHere toKv).nextMiss 5 toKv = some (0, kvBase, true) ∧
    inKv kvBase = true ∧ (kvTo runHere toKv).kvCheck (some 5) 0 kvBase true = .run layer0 0 hbmBase 0 ∧
    (kvTo { runHere with shared := true } toKv).kvCheck (some 5) 0 kvBase true = .fails .permission ∧ 0 = toKv.nextIssue := by
  decide +kernel
theorem met_sourceReadReturn :
    let s := (moving mapped inward).tlbAdd 5 0 0x40000000 hbmBase (2 ^ 30) (2 ^ 40 + 15)
    s.runningX 5 0 = some inward ∧ (s.nextSource 5 inward).isSome = true := by decide +kernel
/-- Reads that wait of the far tier and of host memory. -/
theorem met_readTimeouts :
    let r : Region := { base := farBase + farSpan, units := 512, kind := 0, owner := 0, compressed := false, writable := false, tset := 0 }
    let f : State := { mapped with
      fars := [(1, { Far.reset with present := true, enabled := true, units := 4 })]
      cfg := { up.cfg with active := some { cset with regions := [r] } } }
    let s := (moving f inward).tlbAdd 5 0 0x40000000 (farBase + farSpan) (2 ^ 30) 15
    let h := (moving mapped inward).tlbAdd 5 0 0x40000000 hostBase (2 ^ 30) 15
    (match s.zone (farBase + farSpan) with | .far p => decide (p = 1) | _ => false) = true ∧
    (match s.nextSource 5 inward with
      | some (_, ps) => (ps.find? (fun p => match s.zone p.2.1 with | .far _ => true | _ => false)).isSome | none => false) = true ∧
    (match h.nextSource 5 inward with
      | some (_, ps) => (ps.find? (fun p => match h.zone p.2.1 with | .host _ => true | _ => false)).isSome | none => false) = true ∧
    (s.far 1).present = true ∧ (s.far 1).failed = false := by decide +kernel

/-- Running transfers with one write outstanding. -/
def withOut (q : Xfer) (w : OutW) : Xfer := { q with nextIssue := 1, outst := [w] }
def write (kind pa : Nat) (data : List Byte) : OutW := { (default : OutW) with kind := kind, pa := pa, data := data }

theorem met_writeAcknowledged : ∀ kp ∈ [(0, hbmBase), (1, 5 * 0x2000000 + 64)],
    let w := write kp.1 kp.2 [1, 2, 3, 4]
    let q := withOut outward w
    let s := moving mapped q
    (s.tile 5).headX 0 = some q ∧ q.outst.head? = some w ∧ s.ackable q w = true ∧ s.turnedAway 5 w.pa = none ∧
    q.outst.filter (fun v => v.idx = w.idx && v.kind = w.kind) = [w] := by decide +kernel
theorem met_groupAcknowledged :
    let w := write 4 hbmBase (List.replicate 192 1)
    let q := withOut outward w
    let s := moving mapped q
    (s.tile 5).headX 0 = some q ∧ w.kind = 4 ∧ q.outst.head? = some w ∧ s.ackable q w = true ∧
    (let p := withOut outward (write 4 hbmBase [1])
     (moving mapped p).ackable p (write 4 hbmBase [1]) = false ∧ p.st = .running ∧ ({ p with nextIssue := p.units } : Xfer).units ≤ p.units) := by
  decide +kernel
/-- A write to a tile that is off. -/
theorem met_turnedAway : ({ mapped with quads := [(quadOf 9, { Quad.reset with off := true })] } : State).turnedAway 5 (9 * 0x2000000) =
    some .targetOff := by decide +kernel
theorem met_pageSwapIn :
    let s := { mapped with
      mem := { mapped.mem with hbmKey := [((hbmBase + 2 ^ 31) / 64, walked.key)] }
      ctxs := [(0, { walked with swapped := [(0x80000000, hbmBase + 2 ^ 31, 2 ^ 40 + 15, 64)] })] }
    inKv (0x80000000 : W64).toNat = false ∧
    ((s.ctx? 0).bind (fun x => x.swappedAt 0x80000000)) = some (0x80000000, hbmBase + 2 ^ 31, 2 ^ 40 + 15, 64) ∧
    (s.pageIn 0 0x80000000 (fun _ => false)).isSome = true := by decide +kernel
theorem met_runSwapIn :
    let s := kvTo runAway toKv
    s.kvAttn (kvSlot kvBase) (kvLayer kvBase) = some layer0 ∧ (s.seq (kvSlot kvBase)).ctx = 0 ∧
    s.kvCheck none 0 kvBase false = .swapped ∧ (s.runIn 0 (runKey 0 (kvOff kvBase / layer0.runBytes)) (fun _ => false)).isSome = true := by
  decide +kernel
theorem met_intAddOperand :
    let w := write 1 hbmBase [1, 2, 3, 4]
    let q := withOut (going (2 * 2 ^ 60 + 2 ^ 51) 64 0x40000000) w
    (moving mapped q).operandOf 5 0 1 = some (q, w) ∧ (moving mapped q).turnedAway 5 w.pa = none ∧
    ({ moving mapped q with hbms := [] } : State).turnedAway 5 w.pa ≠ none := by decide +kernel

/-- An fp32 operand of a tree of two, of a tree of too many, and an unordered one. -/
def operand (opx : Nat) : Xfer := { withOut (going (2 * 2 ^ 60 + 2 ^ 51) 64 0x40000000) (write 2 hbmBase [0, 0, 0x80, 0x3F]) with opx := opx }
theorem met_fp32Operands :
    (∀ opx ∈ [1, 0x10000, 0xFFFFFFFF], (moving mapped (operand opx)).operandOf 5 0 2 =
      some (operand opx, write 2 hbmBase [0, 0, 0x80, 0x3F])) ∧
    (moving mapped (operand 1)).turnedAway 5 hbmBase = none ∧
    fine (mapped.fp32Operand 0 hbmBase 1 [0, 0, 0x80, 0x3F] 0 false) = true ∧
    fine (mapped.fp32Operand 0 hbmBase 0x10000 [0, 0, 0x80, 0x3F] 0 false) = false ∧
    fine (mapped.fp32Operand 0 hbmBase 0xFFFFFFFF [0, 0, 0x80, 0x3F] 0 false) = true := by decide +kernel
theorem met_treeOperand :
    let r : Tree := { ctx := 0, dst := hbmBase, n := 3, leaves := [(2, (0, false))] }
    let s := mapped.modStack 0 (fun st => { st with trees := [r] })
    bits 2 0 32 ≤ 0xFFFF ∧ bits 2 32 32 < bits 2 0 32 + 1 ∧
    (s.stack (stackOf hbmBase)).trees.find? (fun r => r.ctx = 0 && r.dst = hbmBase && r.n = 3) = some r ∧
    NMap.get? r.leaves 0 = none ∧ (NMap.put r.leaves 0 (leVal [1], false)).length < 3 := by decide +kernel

/-! ### Library entries and windows -/

/-- A core of tile `t` at pc `pc`, with the routing kernel and the KV library loaded in its partition. -/
def libTile (pc : Nat) (g : NMap Nat) : Tile :=
  { Tile.reset with ctx := some 0, core := { Core.reset with run := .running, pc := pc, g := g, slotBound := some 0, appRange := (7, 9) } }
def libModel : Model := { mdl with experts := [(0, 0)], attn := [layer0] }
def lib (pc : Nat) (g : NMap Nat) : State :=
  { kvTo runHere toKv with models := [(1, libModel)], tiles := [(5, libTile pc g)] }

theorem met_route :
    let s := lib 0x1F000 [(7, 1 * 256)]
    let z := lib 0x1F000 [(7, 17 * 256)]
    let two := { s with tiles := [(5, libTile 0x1F000 [(7, 2 * 256)]), (6, libTile 0x1F000 [(7, 2 * 256 + 1)])] }
    two.oneCall [5, 6] = true ∧ s.oneCall [5] = true ∧ s.atEntry 5 0x1F000 = true ∧
    z.atEntry 5 0x1F000 = true ∧ 16 < bits ((z.tile 5).core.rg 7) 8 8 := by decide +kernel
theorem met_combine :
    let s := lib 0x1F800 [(2, 64)]
    let bad := s.modTile 5 (fun x => { x with poison := [8] })
    let far := { s with models := [(1, { libModel with experts := [(9, 64)] })] }
    far.atEntry 5 0x1F800 = true ∧ far.routingTile 5 64 = 9 ∧ far.targetFails (9 * 0x2000000) false = none ∧
    (far.quad (quadOf 9)).scrubPass = false ∧
    ({ far with quads := [(quadOf 9, { Quad.reset with off := true })] } : State).targetFails (9 * 0x2000000) false ≠ none ∧
    s.routingTile 5 64 = 5 ∧ s.atEntry 5 0x1F800 = true ∧ inSp 64 64 = true ∧ inSp (2 ^ 25 - 64) 64 = false ∧
    (s.pull 5 5 64 64).2.1.isEmpty = true ∧ expRec (s.pull 5 5 64 64).1 = none ∧
    bad.atEntry 5 0x1F800 = true ∧ (bad.pull 5 (bad.routingTile 5 64) 64 64).2.1.isEmpty = false := by decide +kernel
theorem met_abandon : (lib 0x1FC00 []).atEntry 5 0x1FC00 = true := by decide +kernel
theorem met_kvAppend :
    let s := lib 0x1E000 [(4, 7), (5, 2), (6, 64), (7, 128)]
    let g := (s.tile 5).core.rg
    let bad := fun (g : Nat → Nat) => g 5 = 0 ∨ 64 < g 5 ∨ 1024 ≤ g 2 ∨
      (s.carriers 5 (g 2)).any (fun e => decide (e.2.1 ≤ g 4 ∧ g 4 + g 5 ≤ e.2.2)) = false
    s.atEntry 5 0x1E000 = true ∧ ¬ bad g ∧ s.kvAttn (g 2) (g 3) = some layer0 ∧ inSp (g 6) (4 * g 5 * layer0.h * layer0.d) = true ∧
    inSp (g 7) (4 * g 5 * layer0.h * layer0.d) = true ∧ (lib 0x1E000 [(4, 7), (5, 3)]).atEntry 5 0x1E000 = true ∧
    bad ((lib 0x1E000 [(4, 7), (5, 3)]).tile 5).core.rg := by decide +kernel
theorem met_kvRecvOpen :
    let s := lib 0x1E800 [(2, 65535), (3, 64), (4, 64), (6, 16383), (7, 65535)]
    let u := { s with ctxs := [(0, { walked with closed := [(65535, 999999)] })] }
    let g := (s.tile 5).core.rg
    s.atEntry 5 0x1E800 = true ∧ ¬ (g 2 = 0 ∨ 65536 ≤ g 2 ∨ 16384 ≤ g 6 ∨ g 7 = 0 ∨ 65535 < g 7 ∨ (s.tile 5).freeArea (g 3) (g 4) = false) ∧
    s.tagBusy 0 (g 2) = false ∧ s.windowFree 0 = true ∧ u.atEntry 5 0x1E800 = true ∧ u.tagBusy 0 (g 2) = true ∧
    (lib 0x1E800 []).atEntry 5 0x1E800 = true := by decide +kernel
/-- A window of tag 9 that closes, with its status byte at 100 and without one. -/
def closing (a : Option Nat) : Window :=
  { ctx := 0, tag := 9, tile := 5, off := 0, len := 64, expect := 64, count := 0, sig := 3, deadline := 0, epoch := 9,
    status := a, closing := some 7 }
theorem met_windowClose : ∀ a ∈ [none, some 100], ({ up with windows := [closing a] } : State).windows.find?
    (fun w => w.ctx = (0 : Byte).toNat && w.tag = (9 : W16).toNat && w.closing.isSome) = some (closing a) ∧
    (up.quad (quadOf 5)).scrubPass = false ∧ up.targetFails (5 * 0x2000000) true = none ∧ (up.tile 5).residentAt 100 1 = false ∧
    ({ up with quads := [(quadOf 5, { Quad.reset with off := true })] } : State).targetFails (5 * 0x2000000) true ≠ none := by decide +kernel

/-! ### The machine as a whole -/

theorem met_legal : (up.pins.straps < 4 ∧ up.pins.jtag < 4) ∧ up.pending = [] ∧ up.running = true ∧ State.reset.pending = [] ∧
    State.reset.running = false ∧ up.clk.slew = 0 := by decide +kernel
theorem met_stepTakesFront : ({ up with pending := [.supplyRemoval, .supplyRemoval] } : State).pending =
    .supplyRemoval :: [.supplyRemoval] := rfl
theorem met_straps : up.pins.supplies = true ∧ up.pending.head? ≠ some .supplyRemoval ∧
    ({ up with pins := { up.pins with supplies := false } } : State).pins.supplies = false := by decide +kernel
theorem met_stopped : ∀ p ∈ [(false, true), (true, false)],
    let s := { up with pins := { up.pins with faultN := p.1, thermtripN := p.2 } }
    (s.pins.faultN = false ∨ s.pins.thermtripN = false) ∧ s.pending.head? ≠ some .supplyRemoval := by decide +kernel

/-- A slot of trit weights with the extreme codes and its check rows; a row after 63 full steps. -/
def trits : Slot := { Slot.reset with bytes := [(0, 0), (8, 242)] }
def fullRow : Row := { Row.reset with acc20 := [(0, 5120 * 63)], acc32 := [(0, 2 ^ 31 - 1)], ctr := 63 }

theorem trits_legal (l k : Nat) : trits.byte l k ≤ 242 := by
  rw [Slot.byte, trits, NMap.get]
  simp only [NMap.get?]
  split
  · decide
  · split
    · decide
    · decide
theorem met_tritSum : (∀ k < 8, trits.byte 0 k ≤ 242) ∧ trits.byte 0 0 = 0 ∧ trits.byte 1 0 = 242 :=
  ⟨fun k _ => trits_legal 0 k, by decide, by decide⟩
def checked : Slot := { trits with sums := colSums (fun l i => trits.trit l i) }
theorem checked_byte (l k : Nat) : checked.byte l k = trits.byte l k := by simp only [Slot.byte, checked]
theorem checked_trit (l i : Nat) : checked.trit l i = trits.trit l i := by simp only [Slot.trit, Slot.byte, checked]
theorem met_checksAgree : (∀ l < 1024, ∀ k < 8, checked.byte l k ≤ 242) ∧ checked.sums = colSums (fun l i => checked.trit l i) := by
  refine ⟨fun l _ k _ => by rw [checked_byte]; exact trits_legal l k, ?_⟩
  simp only [checked_trit]
  simp only [checked]
theorem met_acc20Bounded : fullRow.ctr < 64 ∧ (∀ l, (NMap.get 0 fullRow.acc20 l).natAbs ≤ 5120 * fullRow.ctr) ∧
    ((-5120 : Int).natAbs ≤ 5120) := by
  refine ⟨by decide +kernel, fun l => ?_, by decide +kernel⟩
  rw [fullRow, NMap.get]
  simp only [NMap.get?]
  split <;> decide +kernel
theorem met_promotion : 64 ≤ fullRow.ctr + 1 ∧ Row.reset.ctr + 1 < 64 ∧ -(2 ^ 31) ≤ (2 ^ 31 - 1 : Int) ∧ (2 ^ 31 - 1 : Int) < 2 ^ 31 := by decide
theorem met_integerOps : (2 ^ 63 < 2 ^ 64 ∧ 2 ^ 64 - 1 < 2 ^ 64 ∧ (0 : Nat) < 2 ^ 64) ∧ 2 ^ 64 - 1 ≠ 0 := by decide
theorem met_resultFrame : ready (wordRR 0x01 3 1 2 0 0) = true := by decide +kernel
theorem met_integerSums : [(1 : Byte), 2].length = 2 ∧ (∀ x ∈ [[(3 : Byte), 4], [5, 6]], x.length = 2) ∧
    [[(3 : Byte), 4], [5, 6]].Perm [[5, 6], [3, 4]] ∧ leVal [(1 : Byte), 2] + ([[(3 : Byte), 4], [5, 6]].map leVal).sum < 256 ^ 2 :=
  ⟨rfl, by decide, .swap _ _ _, by decide⟩
theorem met_scratchpadWrite : Bytes.wf (up.tile 5).sp = true := by decide +kernel
theorem met_replyRecord : up.live = true ∧ (up.qp 0).ringHbm = false ∧ (up.qp 0).ringLost = false ∧ (pk 0).replyFails = false := by
  decide +kernel
theorem met_refusals : up.mayTake (pk 0) = true ∧ up.packetReads (pk 0) = true ∧
    up.isDisabled 3 0 = false ∧ ({ up with disabled := [(3, 0)] } : State).mayTake (pk 0) = true ∧
    ({ up with disabled := [(3, 0)] } : State).isDisabled 3 0 = true ∧ up.mayTake { pk 0 with rsvSet := true } = true ∧
    up.mayTake (pk 1) = true ∧ (up.qp 1).devQueue = false ∧ up.isDisabled 3 1 = false ∧ up.mayTake { pk 0 with stray := true } = true ∧
    (up.qp 0).devQueue = true ∧ up.mayTake { pk 0 with ctx := 9 } = true ∧ up.ctx? (up.pktCtx { pk 0 with ctx := 9 }) = none := by
  decide +kernel
theorem met_eventLog :
    let l := up.log
    let f := { l with head := 0, tail := 4095 }
    let a := { l with lostSince := 3 }
    f.full = true ∧ l.full = false ∧ l.lostSince = 0 ∧ a.full = false ∧ a.lostSince ≠ 0 := by decide +kernel
theorem met_signalSaturates :
    let g : Signal := { (default : Signal) with count := 2 ^ 64 - 1 }
    let s := { up with signals := [(objKey 0 3, g)] }
    NMap.get? s.signals (objKey 0 3) = some g ∧ g.count < 2 ^ 64 ∧ (s.ctx? 0).isSome = true ∧ 2 ^ 64 - 1 < g.count + 1 := by decide +kernel
theorem met_generations : (1 ≤ 255 ∧ 255 ≤ 255) ∧ 1 ≤ 1 ∧ 1 < 255 := by decide

/-! ### Well-formedness: a command out of each bound is refused -/

/-- A payload of 4,097 bytes and one of 4,096. -/
def payload (n : Nat) : Packet := { pkt 0 0 with payload := List.replicate n 0 }

theorem payload_length (n : Nat) : (payload n).payload.length = n := List.length_replicate

theorem wf_refuses_packets : ∀ c ∈ [Instr.transitForward 0 (payload 4097), .write 0 (payload 4097), .int32Add 0 (payload 4097),
    .int64Add 0 (payload 4097), .fp32Add 0 (payload 4097), .acknowledgement (payload 4097), .refusal (payload 4097),
    .retryLater (payload 4097)], c.wf = false := by
  intro c hc
  simp only [List.mem_cons, List.not_mem_nil, or_false] at hc
  obtain rfl | rfl | rfl | rfl | rfl | rfl | rfl | rfl := hc <;> simp [Instr.wf, Instr.ranges, payload_length]
theorem wf_accepts_packets : (Instr.write 11 (payload 4096)).wf = true ∧ (Instr.refusal (payload 4096)).wf = true := by
  simp [Instr.wf, Instr.ranges, payload_length]
theorem wf_refuses_ports : ∀ c ∈ [Instr.dataFlit 12 (some 0) [], .retryRequest 12 (some 0) [], .idleFlit 12 (some 0) [], .trainingControl 12 (some 0) [],
    .linkTraining 12 true true, .linkDown 12, .transitForward 12 (pkt 0 0), .write 12 (pkt 0 0), .int32Add 12 (pkt 0 0),
    .int64Add 12 (pkt 0 0), .fp32Add 12 (pkt 0 0), .linkStateNotice (mg 0) 12 true], c.wf = false := by decide
theorem wf_refuses_management :
    let m : MgmtHdr := { via := 12, node := 0, tagOk := true }
    ∀ c ∈ [Instr.epochToken m 0 0 true 0, .epochTokenAcknowledgement m 0, .linkStateNotice m 0 true, .generationNotice m 0 0 0,
      .barrierArrivalForward m 0 0 0, .barrierCompletion m 0 0 true, .timeExchangeReply m 0 0 0, .timeExchangeAtParent m 0 0,
      .timeAheadNotice m 0], c.wf = false := by decide
theorem wf_refuses_lengths : ∀ c ∈ [Instr.dataFlit 0 none (List.replicate 257 0), .cxlMemRead 0 65 false [],
    .cxlMemWrite 0 (List.replicate 65 0) false [], .challenge 0 (List.replicate 31 0), .challenge 0 (List.replicate 33 0),
    .getMeasurements 0 (List.replicate 31 0), .elementBatch 0 0 33 false [], .remotePortRequest 0 true 0 (List.replicate 65 0) 0 [],
    .seqOpen (pk 1) 1 0 0 0 2 [4] 0 0 (asks true), .seqOpen (pk 1) 1 0 0 0 4 [1, 2, 3, 4, 5] 0 0 (asks true),
    .regulatorWindow 0 true 81 0], c.wf = false := by decide +kernel
theorem wf_accepts : ∀ c ∈ [Instr.dataFlit 11 (some 0) (List.replicate 256 0), .cxlMemRead 0 64 false [], .challenge 0 (List.replicate 32 0),
    .elementBatch 0 0 32 false [], .seqOpen (pk 1) 1 0 0 0 4 [1, 2, 3, 4] 0 0 (asks true), .regulatorWindow 0 true 80 0], c.wf = true := by
  decide +kernel

/-! ### Worked examples of the spec -/

/-- 03, T5 codes: the trits (1, 0, -1, -1, 1) are 0xA7, its negation 75, and it contributes -4 against (10, -3, 7, 2, -5). -/
theorem test_t5 : t5 (fun i => [1, 0, -1, -1, 1].getD i 0) = 0xA7 ∧ t5 (fun i => [-1, 0, 1, 1, -1].getD i 0) = 75 ∧
    ((List.range 5).map (fun i => trit 0xA7 i * ([10, -3, 7, 2, -5] : List Int).getD i 0)).sum = -4 := by decide +kernel
/-- 03, B16: 6.0, -0.375 and 0x3A81 share e = 129 with mantissas 24,576, -1,536 and 4. -/
theorem test_b16 : toB16 [0x40C0, 0xBEC0, 0x3A81] = some (129, [24576, -1536, 4]) := by decide +kernel
/-- 03, compressed weights: sign 1, mantissa 64, selector 2 with base 130 and the built-in offsets is 0xC040. -/
theorem test_compressed : decodeWeight 130 (fun j => j) 0b1100000010 = 0xC040 := by decide +kernel
/-- 04, a trit step: byte 0 of lanes 0, 1 and 2 holds 179, 34 and 108. -/
theorem test_tritStep :
    let v : Slot := { Slot.reset with bytes := [(0, 179), (8, 34), (16, 108)] }
    let a : Nat → Int := fun i => [12, -5, 3, 0, -9].getD i 0
    tritLane v a 0 = -2 ∧ tritLane v a 1 = 1 ∧ tritLane v a 2 = -10 ∧ tritLane v a 3 = 0 := by decide +kernel
/-- 05, a token of a plane block of four bits: 54. -/
theorem test_planeToken :
    let p : Plane := { first := 0, b := 4, eRef := 0, intact := true, exps := [] }
    let slot := fun (bs : NMap Nat) => ({ Slot.reset with bytes := bs, plane := some p } : Slot)
    let x := { Tile.reset with slots := [(0, slot ((0, 0x15) :: ((List.range' 1 4).map (fun k => (k, 0)) ++ (5, 3) :: (List.range' 6 2).map (fun k => (k, 0))))),
      (1, slot ((List.range 2).map (fun k => (k, 0)) ++ (2, 6) :: (List.range' 3 4).map (fun k => (k, 0)) ++ [(7, 0x12)])),
      (2, slot ((List.range 8).map (fun k => (k, 0))))] }
    planeLane x 0 4 (fun i => [10, -4, 6, 1, 2].getD i 0) 0 = 54 := by decide +kernel
/-- 05, outlier digits: -1,000 is 24 and -4 times 256. -/
theorem test_outlierDigits : a16Lo (-1000) = 24 ∧ a16Hi (-1000) = -4 := by decide +kernel
/-- 08, the worked bundle: its bytes carry array slot 3, 64 tokens from stream 2, interval 32, and a wait for the ticket in g5. -/
theorem test_bundle :
    let v := leVal ([0x7F, 0x09, 0, 0, 0x08, 0xBE, 0x7E, 0, 0x64, 0] ++ List.replicate 14 0 ++ [0, 0x18, 0x50, 0x30] ++ List.replicate 4 0)
    v % 128 = 0x7F ∧ headerBad v = false ∧ hasArray v = true ∧ hasSync v = true ∧ hasScalar v = false ∧ hasDma v = false ∧
    stSlot (bnArray v) = 3 ∧ stCount (bnArray v) = 64 ∧ stOverwrite (bnArray v) = true ∧ stInterval (bnArray v) = 32 ∧
    stCheck (bnArray v) = true ∧ arKind (bnArray v) = 0 ∧ syKind (bnSync v) = 1 ∧ syMask (bnSync v) = 4 ∧ syGa (bnSync v) = 5 ∧
    syAll (bnSync v) = false := by decide +kernel
/-- 11, a structured lane-row: 0B 80 08 00 00 expands to 70 79 79 CA 79 79 79 79; with 0x1F first it faults. -/
theorem test_structured : expandStructured (leVal [0x0B, 0x80, 0x08, 0, 0]) 1 = some [0x70, 0x79, 0x79, 0xCA, 0x79, 0x79, 0x79, 0x79] ∧
    expandStructured (leVal [0x1F, 0x80, 0x08, 0, 0]) 1 = none := by decide +kernel
/-- 12, entries of the choice table of the worked example. -/
theorem test_choiceEntries : choiceEntry 1 1 2 0 0 = 0x64000000 ∧ choiceEntry 1 1 2 3 1 = 0x64003001 ∧ choiceEntry 3 0 1 2 0 = 0xC2002000 := by
  decide
/-- 13, a run of 8 heads of 128 dimensions in K8 and V8: 93,440 bytes, in pages of 1 MiB that hold 11. -/
theorem test_runBytes :
    let a : Attn := { layer := 3, h := 8, d := 128, k4 := false }
    a.kB = 51200 ∧ a.vB = 40960 ∧ a.runBytes = 93440 ∧ a.page = 2 ^ 20 ∧ a.perPage = 11 := by decide +kernel
/-- 16, three operands 1.0, 2^-24, 2^-24: the tree of R116 gives 1.0. -/
theorem test_fixedSum : (fixedSum [0x3F800000, 0x33800000, 0x33800000]).1 = 0x3F800000 := by decide +kernel
/-- 17, a host read of 64 B at 0x005E_0000_1040 through a decoder at 0x0040_0000_0000. -/
theorem test_hdmAddr : State.hdmAddr { up with port := { up.port with hdmOn := true, hdmBase := 0x4000000000 } } 0x5E00001040 64 =
    some 0x11E00001040 := by decide +kernel
/-- 18, rings of 4 and 3: X+ and Y- over the wraps, X- and Y+ without. -/
theorem test_ringDir : ringDir 4 3 0 true (fun _ => false) = false ∧ ringDir 3 0 2 true (fun _ => false) = true ∧
    ringDir 4 3 0 false (fun _ => false) = true ∧ ringDir 3 0 2 false (fun _ => false) = false := by decide
/-- 18, a time exchange: the child is 10 ns ahead and takes 10 ns away. -/
theorem test_timeExchange :
    let s := { managed up with clk := { up.clk with master := false, now := 1000980, t1 := some 1000000 } }
    (match exec (.timeExchangeReply (mg 1) 1000430 1000530 1000980) s with | .next t => decide (t.clk.slew = -10) | _ => false) = true := by
  decide +kernel
/-! ### The table gives no bits -/

theorem test_decodeTableWord : decodeTableWord 0 0 = none ∧ decodeTableWord 32 0xFFFFFFFF = none ∧ up.withFetchWord 32 0 = up := by
  refine ⟨rfl, rfl, rfl⟩

/-! #### The loading of an adapter -/

/-- The package as ADAPTER_LOAD finds it, and what host memory holds: a BN2 record of one rank and one lane each way, all zeros. -/
def adps : State := (shelf hosted).take (pk 1)
def adCtx : Ctx := { walked with variants := [(1, 3, 0x40000000, 4096)], adapters := [adp] }
def bnRec : Ext := { cells := [(0x100, 2), (0x102, 1), (0x104, 1), (0x108, 1), (0x110, 32), (0x118, 34)], poison := [] }
def bnHdr : Bn2 := { r := 1, dIn := 1, dOut := 1, scale := 0, layer := 0, aOff := 32, bOff := 34 }

theorem adps_reads (k v : Nat) : (k = 4 ∧ v / 2 ^ 48 = 0 → pteAt k 0x10040000000 v = 0x10040000000) ∧
    (k = 3 ∧ v / 2 ^ 39 = 0 → pteAt k 0x10040001000 v = 0x10040001000) ∧
    (k = 2 ∧ v / 2 ^ 30 = 1 → pteAt k 0x10040002000 v = 0x10040002008) := by
  refine ⟨?_, ?_, ?_⟩ <;> rintro ⟨rfl, h⟩ <;> simp only [pteAt, levelShift] <;> norm_num <;> omega

/-- Every address of the page from 1 GiB is in host memory. -/
theorem adps_walk (v : Nat) (h : v / 2 ^ 30 = 1) :
    adps.walk 0 v = (.leaf hostBase (2 ^ 30) (hostBase + 15), adps) := by
  have e5 : adps.hbmRead (pteAt 4 0x10040000000 v) 8 0 = { bytes := [1, 16, 0, 64, 0, 1, 0, 0], bad := false, fault := false, st := adps } := by
    rw [(adps_reads 4 v).1 ⟨rfl, by omega⟩]; rfl
  have e4 : adps.hbmRead (pteAt 3 0x10040001000 v) 8 0 = { bytes := [1, 32, 0, 64, 0, 1, 0, 0], bad := false, fault := false, st := adps } := by
    rw [(adps_reads 3 v).2.1 ⟨rfl, by omega⟩]; rfl
  have e3 : adps.hbmRead (pteAt 2 0x10040002000 v) 8 0 = { bytes := [15, 0, 0, 0, 0, 16, 0, 0], bad := false, fault := false, st := adps } := by
    rw [(adps_reads 2 v).2.2 ⟨rfl, h⟩]; rfl
  have w3 : walkF 3 adps 0x10040002000 v = (.leaf hostBase (2 ^ 30) (hostBase + 15), [], adps) := by
    rw [walkF, e3]; rfl
  have w4 : walkF 4 adps 0x10040001000 v = (.leaf hostBase (2 ^ 30) (hostBase + 15), [(3, 0x10040002000)], adps) := by
    rw [walkF, e4]
    show ((walkF 3 adps 0x10040002000 v).1, (3, 0x10040002000) :: (walkF 3 adps 0x10040002000 v).2.1, (walkF 3 adps 0x10040002000 v).2.2) = _
    rw [w3]
  have w5 : (walkF 5 adps 0x10040000000 v).1 = .leaf hostBase (2 ^ 30) (hostBase + 15) ∧ (walkF 5 adps 0x10040000000 v).2.2 = adps := by
    rw [walkF, e5]
    show (walkF 4 adps 0x10040001000 v).1 = _ ∧ (walkF 4 adps 0x10040001000 v).2.2 = _
    rw [w4]; exact ⟨rfl, rfl⟩
  have hx : adps.ctx? 0 = some adCtx := rfl
  have hr : adCtx.root = 0x10040000000 := rfl
  unfold State.walk
  rw [hx]
  show (if adCtx.root = 0 then (Walk.absent, adps) else ((walkF 5 adps adCtx.root v).1, (walkF 5 adps adCtx.root v).2.2)) = _
  rw [hr, if_neg (by decide), w5.1, w5.2]

theorem adps_zone (v : Nat) (h : v / 2 ^ 30 = 1) : adps.zone (hostBase + v % 2 ^ 30) = .host (v % 2 ^ 30) := by
  have h1 : hostBase = 0x100000000000 := rfl
  have h2 : hbmBase + hbmSize ≤ 0x100000000000 := by decide
  have h3 : farBase + 2 * farSpan ≤ 0x100000000000 := by decide
  unfold State.zone
  rw [if_neg (by omega), if_neg (by omega), if_neg (by omega), if_pos (by omega)]
  rw [Nat.add_sub_cancel_left]

/-- The steward reaches every address of the page, to read and to write. -/
theorem adps_reach (v : Nat) (write : Bool) (bad : Nat → Bool) (h : v / 2 ^ 30 = 1) :
    adps.stewardReach 0 v write bad = (.ok (hostBase + v % 2 ^ 30, adps.leafKey 0 (hostBase + v % 2 ^ 30) (hostBase + 15)), adps) := by
  have h1 : hostBase = 0x100000000000 := rfl
  have h2 : hbmBase + hbmSize ≤ 0x100000000000 := by decide
  have h3 : farBase + 2 * farSpan ≤ 0x100000000000 := by decide
  have hk : inKv v = false := decide_eq_false (by have : kvBase = 0xF000000000000 := rfl; omega)
  have ht : inTiers (hostBase + v % 2 ^ 30) = false := by
    unfold inTiers
    rw [decide_eq_false (p := hostBase + v % 2 ^ 30 < hbmBase + hbmSize) (by omega),
      decide_eq_false (p := hostBase + v % 2 ^ 30 < farBase + 2 * farSpan) (by omega)]
    simp
  have hw : (if write then !pteWrite (hostBase + 15) else !pteRead (hostBase + 15)) = false := by cases write <;> decide
  have hs : decide (hostBase + v % 2 ^ 30 < 0x200000000) = false := decide_eq_false (by omega)
  have hd : adps.leafFails 0 (hostBase + v % 2 ^ 30) (hostBase + 15) write = none := by
    unfold State.leafFails State.denied
    rw [ht, hw, hs, adps_zone v h]
    cases write <;> rfl
  have hx : adps.stewardXlate 0 v write bad = (.ok (hostBase + v % 2 ^ 30, hostBase + 15), adps) := by
    unfold State.stewardXlate
    rw [hk, adps_walk v h]
    show (match adps.leafFails 0 (hostBase + v % 2 ^ 30) (hostBase + 15) write with
      | some st => (Except.error st, adps) | none => (Except.ok (hostBase + v % 2 ^ 30, hostBase + 15), adps)) =
      (Except.ok (hostBase + v % 2 ^ 30, hostBase + 15), adps)
    rw [hd]
  have hf : adps.targetFails (hostBase + v % 2 ^ 30) write = none := by
    unfold State.targetFails
    rw [adps_zone v h]
  unfold State.stewardReach
  rw [hx]
  show (match adps.targetFails (hostBase + v % 2 ^ 30) write with
    | some st => (Except.error st, adps)
    | none => (Except.ok (hostBase + v % 2 ^ 30, adps.leafKey 0 (hostBase + v % 2 ^ 30) (hostBase + 15)), adps)) =
    (Except.ok (hostBase + v % 2 ^ 30, adps.leafKey 0 (hostBase + v % 2 ^ 30) (hostBase + 15)), adps)
  rw [hf]

theorem chunks_in (va n : Nat) : ∀ c ∈ chunks va n, va ≤ c.1 ∧ c.1 < va + n := by
  intro c hc
  simp only [chunks, List.mem_map] at hc
  obtain ⟨u, hu, rfl⟩ := hc
  simp only [unitsOf] at hu
  split at hu
  · simp at hu
  · simp only [List.mem_range'_1] at hu
    dsimp only
    omega

theorem adps_waits (va n : Nat) (h : ∀ c ∈ chunks va n, c.1 / 2 ^ 30 = 1) : adps.stewardWaits 0 va n = false := by
  unfold State.stewardWaits
  rw [List.any_eq_false]
  intro c hc
  rw [adps_walk c.1 (h c hc)]
  show ¬ ((adps.scrubbing (hostBase + c.1 % 2 ^ 30) && _) = true)
  have : adps.scrubbing (hostBase + c.1 % 2 ^ 30) = false := by unfold State.scrubbing; rw [adps_zone c.1 (h c hc)]
  rw [this]; simp

/-- What the steward reads in the page is zeros where host memory answers with none. -/
theorem adps_zeros : ∀ (cs : List (Nat × Nat)) (bs : List Byte), (∀ c ∈ cs, c.1 / 2 ^ 30 = 1) → bs.all (· == 0) = true →
    ∃ bs', cs.foldl (fun (a : Answer (List Byte)) ch => a.ifOk (fun bs s =>
      (s.stewardReach 0 ch.1 false (badFrame quiet)).ifOk (fun x s =>
        let m := s.physRead x.1 ch.2 x.2 quiet
        if m.bad then (.error .poisoned, m.st)
        else if m.fault then (.error .formatFault, m.st)
        else (.ok (bs ++ m.bytes), m.st)))) (.ok bs, adps) = (.ok bs', adps) ∧ bs'.all (· == 0) = true
  | [], bs, _, h => ⟨bs, rfl, h⟩
  | c :: cs, bs, h, hb => by
    have hc := h c (by simp)
    rw [List.foldl_cons]
    have hm : adps.physRead (hostBase + c.1 % 2 ^ 30) c.2 (adps.leafKey 0 (hostBase + c.1 % 2 ^ 30) (hostBase + 15)) quiet =
        { bytes := (List.range c.2).map (fun _ => 0), bad := false, fault := false, st := adps } := by
      unfold State.physRead
      rw [adps_zone c.1 hc]
      simp [quiet, NMap.get, NMap.get?]
    have : Answer.ifOk (.ok bs, adps) (fun bs s =>
      (State.stewardReach s 0 c.1 false (badFrame quiet)).ifOk (fun x s =>
        let m := s.physRead x.1 c.2 x.2 quiet
        if m.bad then (.error .poisoned, m.st)
        else if m.fault then (.error .formatFault, m.st)
        else (.ok (bs ++ m.bytes), m.st))) = (.ok (bs ++ (List.range c.2).map (fun _ => 0)), adps) := by
      unfold Answer.ifOk
      dsimp only
      rw [adps_reach c.1 false (badFrame quiet) hc]
      dsimp only
      rw [hm]
      rfl
    rw [this]
    exact adps_zeros cs _ (fun c' h' => h c' (by simp [h'])) (by rw [List.all_append, hb]; simp)

theorem adps_barred (v n : Nat) (h : v / 2 ^ 30 = 1) : adps.stewardBarred (hostBase + v % 2 ^ 30) n = false := by
  have hr : adps.regionAt (hostBase + v % 2 ^ 30) = none := by
    have hg : adps.regions = cset.regions := rfl
    have hs : ∀ r ∈ cset.regions, r.base + r.size ≤ hostBase := by decide
    unfold State.regionAt
    rw [hg, List.find?_eq_none]
    intro r hm
    have := hs r hm
    rw [Region.holds, decide_eq_false (p := hostBase + v % 2 ^ 30 < r.base + r.size) (by omega)]
    simp
  unfold State.stewardBarred
  rw [adps_zone v h, hr]
  rfl

/-- The steward reaches every piece of a range in the page. -/
theorem adps_pieces (va : Nat) (bs : List Byte) (bad : Nat → Bool) : ∀ (cs : List (Nat × Nat)) (ps : List (Nat × Nat × List Byte)),
    (∀ c ∈ cs, c.1 / 2 ^ 30 = 1) →
    ∃ ps', cs.foldl (fun (a : Answer (List (Nat × Nat × List Byte))) ch => a.ifOk (fun ps s =>
      (s.stewardReach 0 ch.1 true bad).ifOk (fun x s =>
        if s.stewardBarred x.1 ch.2 then (.error .permission, s)
        else (.ok (ps ++ [(x.1, x.2, (bs.drop (ch.1 - va)).take ch.2)]), s)))) (.ok ps, adps) = (.ok ps', adps)
  | [], ps, _ => ⟨ps, rfl⟩
  | c :: cs, ps, h => by
    have hc := h c (by simp)
    rw [List.foldl_cons]
    have : Answer.ifOk (.ok ps, adps) (fun ps s =>
      (State.stewardReach s 0 c.1 true bad).ifOk (fun x s =>
        if s.stewardBarred x.1 c.2 then (.error .permission, s)
        else (.ok (ps ++ [(x.1, x.2, (bs.drop (c.1 - va)).take c.2)]), s))) =
      (.ok (ps ++ [(hostBase + c.1 % 2 ^ 30, adps.leafKey 0 (hostBase + c.1 % 2 ^ 30) (hostBase + 15), (bs.drop (c.1 - va)).take c.2)]), adps) := by
      unfold Answer.ifOk
      dsimp only
      rw [adps_reach c.1 true bad hc]
      dsimp only
      rw [adps_barred c.1 c.2 hc]
      rfl
    rw [this]
    exact adps_pieces va bs bad cs _ (fun c' h' => h c' (by simp [h']))

theorem b16Block_short (lane : Nat → List Nat) : (b16Block lane).length ≤ 2 ^ 17 := by
  unfold b16Block
  simp only [List.length_append, List.length_map, List.length_range, List.length_replicate, List.length_flatMap, List.length_take,
    List.map_map]
  refine le_trans (Nat.add_le_add_right (Nat.add_le_add_right (m := 10 * 8192) ?_ _) _) (by norm_num)
  refine le_trans (List.sum_le_card_nsmul _ 8192 ?_) (by simp)
  intro x hx
  obtain ⟨sl, -, rfl⟩ := List.mem_map.1 hx
  refine le_trans (List.sum_le_card_nsmul _ 8 ?_) (by simp)
  intro x hx
  obtain ⟨b, -, rfl⟩ := List.mem_map.1 hx
  exact min_le_left _ _

theorem bnImage_short (bs : List Byte) : (adapterImage bnHdr bs).length ≤ 2 ^ 18 := by
  have h : ∃ f g, adapterBlocks bnHdr bs = [f, g] := ⟨_, _, rfl⟩
  obtain ⟨f, g, h⟩ := h
  unfold adapterImage
  rw [h]
  simp only [List.flatMap_cons, List.flatMap_nil, List.length_append, List.length_nil]
  have := b16Block_short f
  have := b16Block_short g
  omega

theorem met_variantLoad : ((shelf hosted).accepts (pk 1) false false (decide ((5 : W16).toNat ≠ 0)) = true ∧
      (shelf hosted).modelFor 0 1 = true ∧ (Says.variantsOf (shelf hosted) 0).any (fun e => e.2.1 = 5) = false) ∧
    adps.stewardWaits 0 0x40000000 4096 = false ∧
    ∃ dir s', adps.stewardRead 0 0x40000000 4096 quiet = (.ok dir, s') ∧
      ∀ t < 256, leAt dir (16 * t) 8 + leAt dir (16 * t + 8) 8 ≤ 4096 := by
  have hi : ∀ c ∈ chunks 0x40000000 4096, c.1 / 2 ^ 30 = 1 := by
    intro c hc
    have := chunks_in _ _ c hc
    omega
  obtain ⟨dir, e, h⟩ := adps_zeros _ [] hi rfl
  exact ⟨by decide +kernel, adps_waits _ _ hi, dir, adps, e, fun t _ => by rw [leAt_zeros _ h, leAt_zeros _ h]; decide⟩

theorem met_adapterLoad : ∃ (bs : List Byte) (s' s'' : State),
    (shelf hosted).accepts (pk 1) false false true = true ∧ (shelf hosted).modelFor 0 1 = true ∧
    (Says.adaptersOf (shelf hosted) 0).any (fun e => e.id = 9) = false ∧
    adps.stewardWaits 0 0x40000100 36 = false ∧
    adps.stewardRead 0 0x40000100 36 bnRec = (.ok bs, s') ∧ bn2 bs 36 = some bnHdr ∧
    anyNonFinite bs 32 1 = false ∧ anyNonFinite bs 34 1 = false ∧
    s'.stewardWaits 0 0x40100000 (adapterImage bnHdr bs).length = false ∧
    s'.stewardWrite 0 0x40100000 (adapterImage bnHdr bs) (badFrame bnRec) = (.ok (), s'') := by
  have hr : ∃ bs, adps.stewardRead 0 0x40000100 36 bnRec = (.ok bs, adps) ∧ bn2 bs 36 = some bnHdr ∧ anyNonFinite bs 32 1 = false ∧ anyNonFinite bs 34 1 = false := by
    have hc : chunks 0x40000100 36 = [(0x40000100, 36)] := by decide
    unfold State.stewardRead
    rw [hc]
    simp only [List.foldl_cons, List.foldl_nil, Answer.ifOk]
    rw [adps_reach 0x40000100 false _ (by norm_num)]
    dsimp only
    have hz : adps.zone (hostBase + 0x40000100 % 2 ^ 30) = .host 0x100 := adps_zone 0x40000100 (by norm_num)
    unfold State.physRead
    rw [hz]
    refine ⟨_, rfl, ?_, ?_, ?_⟩ <;> decide +kernel
  obtain ⟨bs, hr, hb, ha, ho⟩ := hr
  have hl := bnImage_short bs
  have hi : ∀ c ∈ chunks 0x40100000 (adapterImage bnHdr bs).length, c.1 / 2 ^ 30 = 1 := by
    intro c hc
    have := chunks_in _ _ c hc
    omega
  have hw : ∃ s'', adps.stewardWrite 0 0x40100000 (adapterImage bnHdr bs) (badFrame bnRec) = (.ok (), s'') := by
    obtain ⟨ps, hp⟩ := adps_pieces 0x40100000 (adapterImage bnHdr bs) (badFrame bnRec) _ [] hi
    unfold State.stewardWrite
    rw [hp]
    exact ⟨_, rfl⟩
  obtain ⟨s'', hw⟩ := hw
  exact ⟨bs, adps, s'', by decide +kernel, by decide +kernel, by decide +kernel,
    adps_waits _ _ (by intro c hc; have := chunks_in _ _ c hc; omega), hr, hb, ha, ho, adps_waits _ _ hi, hw⟩

end Sys2Proof.Tests
end

/-! Proofs for the number formats of chapter 03: T5 codes (R38), the bound of a trit step and the promotion of
accumulator rows (R49, R50). -/

namespace Sys2Proof

/-! ### T5 codes (R38) -/

/-- A trit counted from 0 is the base-3 digit of its code. -/
@[simp] theorem toNat_trit_add_one (p i : Nat) : (trit p i + 1).toNat = p / 3 ^ i % 3 := by
  rw [trit, Int.sub_add_cancel, Int.toNat_natCast]

theorem natAbs_trit_le_one (p i : Nat) : (trit p i).natAbs ≤ 1 := by
  have := Nat.mod_lt (p / 3 ^ i) (by decide : 3 > 0)
  rw [trit]
  omega

/-- The code as a base-3 number of five digits, in Horner's form. -/
theorem t5_eq_horner (t : Nat → Int) :
    t5 t = (t 0 + 1).toNat + 3 * ((t 1 + 1).toNat + 3 * ((t 2 + 1).toNat + 3 * ((t 3 + 1).toNat + 3 * (t 4 + 1).toNat))) := by
  simp only [t5, List.sum_range_succ, List.range_zero, List.map_nil, List.sum_nil]
  omega

theorem trit_zero (p : Nat) : trit p 0 = ((p % 3 : Nat) : Int) - 1 := by simp [trit]

/-- Above a base-3 digit the trits are those of the rest. -/
theorem trit_add_three_mul_succ {d : Nat} (hd : d ≤ 2) (m i : Nat) : trit (d + 3 * m) (i + 1) = trit m i := by
  have hm : (d + 3 * m) / 3 = m := by omega
  rw [trit, trit, Nat.pow_succ', ← Nat.div_div_eq_div_mul, hm]

theorem toNat_add_one_le_two {x : Int} (h : x = -1 ∨ x = 0 ∨ x = 1) : (x + 1).toNat ≤ 2 := by omega

/-- Five trits have a valid code (R40). -/
theorem t5_le (t : Nat → Int) (h : ∀ i < 5, t i = -1 ∨ t i = 0 ∨ t i = 1) : t5 t ≤ 242 := by
  have h0 := toNat_add_one_le_two (h 0 (by decide))
  have h1 := toNat_add_one_le_two (h 1 (by decide))
  have h2 := toNat_add_one_le_two (h 2 (by decide))
  have h3 := toNat_add_one_le_two (h 3 (by decide))
  have h4 := toNat_add_one_le_two (h 4 (by decide))
  rw [t5_eq_horner]
  omega

theorem trit_t5 (t : Nat → Int) (h : ∀ i < 5, t i = -1 ∨ t i = 0 ∨ t i = 1) (i : Nat) (hi : i < 5) :
    trit (t5 t) i = t i := by
  have h0 := h 0 (by decide)
  have h1 := h 1 (by decide)
  have h2 := h 2 (by decide)
  have h3 := h 3 (by decide)
  have h4 := h 4 (by decide)
  have d0 := toNat_add_one_le_two h0
  have d1 := toNat_add_one_le_two h1
  have d2 := toNat_add_one_le_two h2
  have d3 := toNat_add_one_le_two h3
  rw [t5_eq_horner]
  interval_cases i <;> simp only [trit_add_three_mul_succ, d0, d1, d2, d3, trit_zero] <;> omega

theorem t5_trit (p : Nat) (h : p ≤ 242) : t5 (trit p) = p := by
  simp only [t5_eq_horner, toNat_trit_add_one]
  omega

theorem trit_compl (p : Nat) (h : p ≤ 242) (i : Nat) (hi : i < 5) : trit (242 - p) i = -trit p i := by
  simp only [trit]
  interval_cases i <;> omega

theorem trit_zeros (i : Nat) (hi : i < 5) : trit 121 i = 0 := by
  have h : trit 121 i = -trit 121 i := trit_compl 121 (by decide) i hi
  omega

/-- Settles O49: the code is a five-digit base-3 number, and 242 has every digit 2. -/
theorem tritCodes : Obligations.TritCodes :=
  ⟨fun t h => ⟨rfl, t5_le t h, trit_t5 t h⟩,
   fun p h => ⟨t5_trit p h, fun i hi => ⟨rfl, trit_compl p h i hi⟩⟩,
   trit_zeros⟩

/-! ### Saturation to 32 bits (R50) -/

theorem sat32_bounds (x : Int) : -(2 ^ 31) ≤ sat32 x ∧ sat32 x < 2 ^ 31 := by
  unfold sat32
  split_ifs <;> omega

theorem sat32_of_mem {x : Int} (lo : -(2 ^ 31) ≤ x) (hi : x < 2 ^ 31) : sat32 x = x := by
  rw [sat32, if_neg (by omega), if_neg (by omega)]

/-- A sum of `n` terms, each within `b` in magnitude, is within `n * b`. -/
theorem natAbs_sum_range_le (f : Nat → Int) (b : Nat) :
    ∀ n, (∀ i < n, (f i).natAbs ≤ b) → ((List.range n).map f).sum.natAbs ≤ n * b
  | 0, _ => by simp
  | n + 1, h => by
    have ih := natAbs_sum_range_le f b n fun i hi => h i (by omega)
    have hn := h n (by omega)
    rw [List.sum_range_succ, Nat.succ_mul]
    exact (Int.natAbs_add_le _ _).trans (Nat.add_le_add ih hn)

namespace Machine

/-! ### The bound of a trit step (R65, R67, R49) -/

/-- A look-up in a halved table is the sum of the five products of its code: below 121 it negates the entry of the
complement. -/
theorem lookUp_eq_sum (a : Nat → Int) (k p : Nat) (hp : p ≤ 242) :
    lookUp a k p = ((List.range 5).map (fun i => trit p i * a (5 * k + i))).sum := by
  unfold lookUp tableEntry
  split_ifs with h
  · rw [Nat.add_sub_cancel' h]
  · have hc : 121 + (121 - p) = 242 - p := by omega
    rw [hc, List.sum_neg, List.map_map]
    refine congrArg List.sum (List.map_congr_left fun i hi => ?_)
    rw [Function.comp_apply, trit_compl p hp i (List.mem_range.1 hi), neg_mul, neg_neg]

theorem natAbs_lookUp_le (a : Nat → Int) (b k p : Nat) (hp : p ≤ 242) (ha : ∀ i < 5, (a (5 * k + i)).natAbs ≤ b) :
    (lookUp a k p).natAbs ≤ 5 * b := by
  rw [lookUp_eq_sum a k p hp]
  refine natAbs_sum_range_le _ b 5 fun i hi => ?_
  rw [Int.natAbs_mul]
  exact (Nat.mul_le_mul (natAbs_trit_le_one p i) (ha i hi)).trans_eq (Nat.one_mul b)

/-- A lane's trit step on inputs within `b` in magnitude is within `40 * b`. -/
theorem natAbs_tritLane_le (v : Slot) (a : Nat → Int) (l b : Nat) (hv : ∀ k < 8, v.byte l k ≤ 242)
    (ha : ∀ i < 40, (a i).natAbs ≤ b) : (tritLane v a l).natAbs ≤ 40 * b := by
  have h := natAbs_sum_range_le (fun k => lookUp a k (v.byte l k)) (5 * b) 8 fun k hk =>
    natAbs_lookUp_le a b k _ (hv k hk) fun i hi => ha _ (by omega)
  rw [tritLane]
  omega

/-! ### Accumulator rows (R49, R50, R103) -/

theorem get_lanes (f : Nat → Int) (l : Nat) : NMap.get 0 (lanes f) l = if l < 1024 then f l else 0 := by
  simp [lanes, NMap.get_tab]

@[simp] theorem Row.promote_acc20 (r : Row) : r.promote.acc20 = [] := rfl
@[simp] theorem Row.promote_ctr (r : Row) : r.promote.ctr = 0 := rfl

theorem Row.get_promote_acc32 (r : Row) (l : Nat) (hl : l < 1024) :
    NMap.get 0 r.promote.acc32 l = sat32 (NMap.get 0 r.acc32 l + NMap.get 0 r.acc20 l) := by
  rw [Row.promote, Row.addSat, get_lanes, if_pos hl]

/-- A row with a step's result in acc20 and the step counted, before any promotion. -/
def Row.accumulate (r : Row) (y : Nat → Int) : Row :=
  { r with acc20 := lanes (fun l => NMap.get 0 r.acc20 l + y l), ctr := r.ctr + 1 }

theorem Row.step_of_le (r : Row) (y : Nat → Int) {n : Nat} (h : n ≤ r.ctr + 1) :
    r.step y n = (r.accumulate y).promote := if_pos h

theorem Row.step_of_lt (r : Row) (y : Nat → Int) {n : Nat} (h : r.ctr + 1 < n) : r.step y n = r.accumulate y :=
  if_neg (Nat.not_le.2 h)

theorem Row.get_accumulate_acc20 (r : Row) (y : Nat → Int) (l : Nat) :
    NMap.get 0 (r.accumulate y).acc20 l = if l < 1024 then NMap.get 0 r.acc20 l + y l else 0 := by
  rw [Row.accumulate, get_lanes]

/-- A row whose acc20 is within `b` in magnitude for each step since its last promotion. -/
def Row.Within (b : Nat) (r : Row) : Prop := ∀ l, (NMap.get 0 r.acc20 l).natAbs ≤ b * r.ctr

theorem Row.within_promote (b : Nat) (r : Row) : r.promote.Within b := by
  simp [Row.Within, NMap.get, NMap.get?]

theorem Row.Within.natAbs_add_le {b : Nat} {r : Row} {y : Nat → Int} (h : r.Within b) (hy : ∀ l, (y l).natAbs ≤ b)
    (l : Nat) : (NMap.get 0 r.acc20 l + y l).natAbs ≤ b * (r.ctr + 1) :=
  (Int.natAbs_add_le _ _).trans (Nat.add_le_add (h l) (hy l))

theorem Row.Within.accumulate {b : Nat} {r : Row} {y : Nat → Int} (h : r.Within b) (hy : ∀ l, (y l).natAbs ≤ b) :
    (r.accumulate y).Within b := by
  intro l
  rw [Row.get_accumulate_acc20]
  split_ifs
  · exact h.natAbs_add_le hy l
  · exact Nat.zero_le _

/-- A step of any interval keeps the bound: it accumulates one more result, or promotes and starts from zero. -/
theorem Row.Within.step {b : Nat} {r : Row} {y : Nat → Int} (h : r.Within b) (hy : ∀ l, (y l).natAbs ≤ b) (n : Nat) :
    (r.step y n).Within b := by
  obtain hn | hn := Nat.lt_or_ge (r.ctr + 1) n
  · rw [Row.step_of_lt r y hn]
    exact h.accumulate hy
  · rw [Row.step_of_le r y hn]
    exact Row.within_promote b _

/-- After a step the counter is below the step's interval. -/
theorem Row.step_ctr_lt (r : Row) (y : Nat → Int) {n : Nat} (hn : 1 ≤ n) : (r.step y n).ctr < n := by
  obtain h | h := Nat.lt_or_ge (r.ctr + 1) n
  · rw [Row.step_of_lt r y h]
    exact h
  · rw [Row.step_of_le r y h]
    exact hn

theorem acc20Bounded : Says.acc20Bounded := by
  refine ⟨fun v a l hv => ⟨natAbs_tritLane_le v a l 128 hv, natAbs_tritLane_le v a l 7 hv⟩, ?_⟩
  intro r y n hn hn' hr h hy
  have h' : r.Within 5120 := h
  refine ⟨(r.step_ctr_lt y hn).trans_le hn', h'.step hy n, fun l => ?_, by decide⟩
  have := h'.natAbs_add_le hy l
  omega

theorem promotion : Says.promotion := by
  intro r
  refine ⟨r.get_promote_acc32, fun x => ⟨(sat32_bounds x).1, (sat32_bounds x).2, sat32_of_mem⟩, rfl, rfl, rfl, ?_, ?_⟩
  · intro y n hn
    rw [Row.step_of_le r y hn]
    exact ⟨rfl, rfl⟩
  · intro y n hn
    rw [Row.step_of_lt r y hn]
    exact ⟨rfl, rfl, fun l hl => by rw [Row.get_accumulate_acc20, if_pos hl]⟩

/-- Settles O52: a step adds forty products of one trit each, and it accumulates or promotes. -/
theorem accumulatorBounds : Obligations.AccumulatorBounds := ⟨acc20Bounded, promotion⟩

end Machine
end Sys2Proof

/-! Proofs for the integer instructions of chapter 08: what a scalar row whose instruction stands at the pc does, and the
arithmetic modulo 2^64 of R147 and R148. -/

namespace Sys2Proof

/-! ### Two's complement (R3) -/

theorem wrap_lt (w : Nat) (x : Int) : wrap w x < 2 ^ w := by
  have := Int.emod_lt_of_pos x (b := (2 ^ w : Nat)) (by positivity)
  rw [wrap]
  omega

theorem sgn_eq_toInt (w x : Nat) : sgn w x = (BitVec.ofNat w x).toInt := by
  rw [sgn, BitVec.toInt_eq_toNat_cond, BitVec.toNat_ofNat]
  cases w with
  | zero => simp [Nat.mod_one]
  | succ w =>
    rw [Nat.add_sub_cancel]
    congr 1
    rw [Nat.pow_succ']
    simp

theorem ofNat_wrap (w : Nat) (x : Int) : BitVec.ofNat w (wrap w x) = BitVec.ofInt w x := by
  rw [wrap, ← BitVec.toNat_ofInt, BitVec.ofNat_toNat, BitVec.setWidth_eq]

/-- A signed remainder is within the word. -/
theorem sgn_wrap_tmod (w a b : Nat) :
    sgn w (wrap w ((sgn w a).tmod (sgn w b))) = (sgn w a).tmod (sgn w b) := by
  simp only [sgn_eq_toInt, ofNat_wrap]
  rw [← BitVec.toInt_srem, BitVec.ofInt_toInt]

/-- A signed quotient is within the word, unless the smallest value is divided by -1. -/
theorem sgn_wrap_tdiv {w a b : Nat} (h : BitVec.ofNat w a ≠ BitVec.intMin w ∨ BitVec.ofNat w b ≠ -1#w) :
    sgn w (wrap w ((sgn w a).tdiv (sgn w b))) = (sgn w a).tdiv (sgn w b) := by
  simp only [sgn_eq_toInt, ofNat_wrap, BitVec.toInt_ofInt]
  rw [← BitVec.toInt_sdiv, BitVec.toInt_sdiv_of_ne_or_ne _ _ h]

namespace Machine

/-! ### The integer operations (R148) -/

section
variable {a b : Nat}

theorem aluVal_lt (ha : a < 2 ^ 64) (hb : b < 2 ^ 64) (fn : Nat) (p : Bool) : aluVal fn a b p < 2 ^ 64 := by
  have mod_lt (x : Nat) : x % 2 ^ 64 < 2 ^ 64 := Nat.mod_lt x (by decide)
  simp only [aluVal]
  split
  case h_1 | h_2 | h_6 | h_9 => exact mod_lt _
  case h_3 => exact Nat.and_lt_two_pow a hb
  case h_4 => exact Nat.or_lt_two_pow ha hb
  case h_5 => exact Nat.xor_lt_two_pow ha hb
  case h_7 => exact (Nat.div_le_self a _).trans_lt ha
  case h_8 => exact wrap_lt 64 _
  case h_10 => exact Nat.div_lt_of_lt_mul (Nat.mul_lt_mul'' ha hb)
  case h_11 => exact ite_holds (· < 2 ^ 64) (by decide) ((Nat.div_le_self a b).trans_lt ha)
  case h_12 => exact ite_holds (· < 2 ^ 64) ha ((Nat.mod_le a b).trans_lt ha)
  case h_13 => exact ite_holds (· < 2 ^ 64) (by decide) (wrap_lt 64 _)
  case h_14 => exact ite_holds (· < 2 ^ 64) ha (wrap_lt 64 _)
  case h_15 | h_16 | h_19 => exact ite_holds (· < 2 ^ 64) ha hb
  case h_17 => exact (Nat.min_le_left a b).trans_lt ha
  case h_18 => exact max_lt ha hb

theorem aluVal_sub_add (ha : a < 2 ^ 64) (p : Bool) : (aluVal 1 a b p + b) % 2 ^ 64 = a := by
  simp only [aluVal]
  omega

theorem aluVal_mulhu_mul (a b : Nat) (p : Bool) : aluVal 9 a b p * 2 ^ 64 + aluVal 8 a b p = a * b :=
  Nat.div_add_mod' (a * b) (2 ^ 64)

theorem aluVal_shift_mod (a b : Nat) (p : Bool) {fn : Nat} (h : fn = 5 ∨ fn = 6 ∨ fn = 7) :
    aluVal fn a b p = aluVal fn a (b % 64) p := by
  obtain rfl | rfl | rfl := h <;> simp only [aluVal, Nat.mod_mod]

theorem aluVal_divu_of_ne_zero (a : Nat) (p : Bool) (h : b ≠ 0) : aluVal 10 a b p = a / b := if_neg h
theorem aluVal_remu_of_ne_zero (a : Nat) (p : Bool) (h : b ≠ 0) : aluVal 11 a b p = a % b := if_neg h
theorem aluVal_div_of_ne_zero (a : Nat) (p : Bool) (h : b ≠ 0) :
    aluVal 12 a b p = wrap 64 ((sgn 64 a).tdiv (sgn 64 b)) := if_neg h
theorem aluVal_rem_of_ne_zero (a : Nat) (p : Bool) (h : b ≠ 0) :
    aluVal 13 a b p = wrap 64 ((sgn 64 a).tmod (sgn 64 b)) := if_neg h

theorem aluVal_divu_remu (a : Nat) (p : Bool) (h : b ≠ 0) :
    aluVal 10 a b p * b + aluVal 11 a b p = a ∧ aluVal 11 a b p < b := by
  rw [aluVal_divu_of_ne_zero a p h, aluVal_remu_of_ne_zero a p h]
  exact ⟨Nat.div_add_mod' a b, Nat.mod_lt a (Nat.pos_of_ne_zero h)⟩

/-- Only -2^63 by -1 has a quotient beyond the word. -/
theorem ne_intMin_or_ne_neg_one (ha : a < 2 ^ 64) (hb : b < 2 ^ 64) (h : ¬(a = 2 ^ 63 ∧ b = 2 ^ 64 - 1)) :
    BitVec.ofNat 64 a ≠ BitVec.intMin 64 ∨ BitVec.ofNat 64 b ≠ -1#64 := by
  contrapose! h
  obtain ⟨h1, h2⟩ := h
  have e1 := congrArg BitVec.toNat h1
  have e2 := congrArg BitVec.toNat h2
  rw [BitVec.toNat_ofNat, Nat.mod_eq_of_lt ha] at e1
  rw [BitVec.toNat_ofNat, Nat.mod_eq_of_lt hb] at e2
  exact ⟨e1, e2⟩

theorem sgn_aluVal_div_rem (p : Bool) (h : b ≠ 0)
    (hm : BitVec.ofNat 64 a ≠ BitVec.intMin 64 ∨ BitVec.ofNat 64 b ≠ -1#64) :
    sgn 64 (aluVal 12 a b p) = (sgn 64 a).tdiv (sgn 64 b) ∧ sgn 64 (aluVal 13 a b p) = (sgn 64 a).tmod (sgn 64 b) := by
  rw [aluVal_div_of_ne_zero a p h, aluVal_rem_of_ne_zero a p h]
  exact ⟨sgn_wrap_tdiv hm, sgn_wrap_tmod 64 a b⟩

end

theorem integerOps : Says.integerOps := by
  intro a b p ha hb
  refine ⟨fun fn _ => aluVal_lt ha hb fn p, rfl, aluVal_sub_add ha p, aluVal_mulhu_mul a b p,
    fun fn => aluVal_shift_mod a b p, aluVal_divu_remu a p, ?byZero,
    fun h hm => sgn_aluVal_div_rem p h (ne_intMin_or_ne_neg_one ha hb hm), ?overflow⟩
  case byZero =>
    rintro rfl
    exact ⟨rfl, (by decide : sgn 64 (2 ^ 64 - 1) = -1), rfl, rfl⟩
  case overflow =>
    rintro rfl rfl
    exact ⟨(aluVal_div_of_ne_zero _ p (by decide)).trans (by decide),
      (aluVal_rem_of_ne_zero _ p (by decide)).trans (by decide)⟩

/-! ### A scalar row (R157, R168) -/

section
variable {s : State} {t w : Nat}

/-- The row of an instruction whose sources are ready gives its result. -/
theorem State.row_of_res (h : s.stands t w = true) {f : State → SRes} {late : Bool} {d : Dst} {v : Nat}
    (hf : f s = s.res t late [] d v) : s.row t w f = Says.given s t late d v := by
  rw [State.row_stands h, hf]
  rfl

/-- The row of an illegal instruction raises ILLEGAL_INSTRUCTION (R166). -/
theorem State.row_of_illegal (h : s.stands t w = true) {f : State → SRes} (hf : f s = illegal w) :
    s.row t w f = s.exceptAt t 3 w := by
  rw [State.row_stands h, hf]
  rfl

theorem sUnary_of_ready {ra : Nat} (h : (s.tile t).core.waits [.g ra] = false) (late : Bool) (rd : Nat) (f : Nat → Nat) :
    sUnary t late rd ra f s = s.res t late [] (.g rd) (f ((s.tile t).core.rg ra)) := by
  simp only [sUnary, h, Bool.false_eq_true, if_false]

theorem State.row_sUnary (h : s.stands t w = true) {ra : Nat} (hr : (s.tile t).core.waits [.g ra] = false)
    (late : Bool) (rd : Nat) (f : Nat → Nat) :
    s.row t w (sUnary t late rd ra f) = Says.given s t late (.g rd) (f ((s.tile t).core.rg ra)) :=
  State.row_of_res h (sUnary_of_ready hr late rd f)

/-! ### ALU -/

theorem sAlu_of_ready {ra rb fn : Nat} (hr : (s.tile t).core.waits [.g ra, .g rb] = false) (hfn : fn < 18)
    (late : Bool) (rd : Nat) :
    sAlu t late rd ra rb 0 fn w s = s.res t late [] (.g rd)
      (aluVal fn ((s.tile t).core.rg ra) ((s.tile t).core.rg rb) ((s.tile t).core.rp 0)) := by
  have hle : ¬ fn > 18 := by omega
  have hne : fn ≠ 18 := by omega
  simp [sAlu, hle, hne, hr]

theorem sAlu_sel_of_ready {ra rb rc : Nat} (hr : (s.tile t).core.waits [.g ra, .g rb, .p rc] = false) (hrc : rc < 8)
    (late : Bool) (rd : Nat) :
    sAlu t late rd ra rb rc 18 w s = s.res t late [] (.g rd)
      (if (s.tile t).core.rp rc then (s.tile t).core.rg ra else (s.tile t).core.rg rb) := by
  have hle : ¬ rc ≥ 8 := by omega
  simp [sAlu, hle, hr, aluVal]

theorem sAlu_of_unlisted {fn : Nat} (hfn : 18 < fn) (late : Bool) (rd ra rb rc : Nat) :
    sAlu t late rd ra rb rc fn w s = illegal w := by
  simp [sAlu, hfn]

/-! ### SHI -/

/-- A listed kind of SHI is the ALU shift of that kind, by the low six bits. -/
theorem sShi_of_listed {imm : Nat} (h : imm < 192) (late : Bool) (rd ra : Nat) :
    sShi t late rd ra imm w s =
      sUnary t late rd ra (fun a => aluVal (5 + imm / 64) a (imm % 64) false) s := by
  have hz : imm / 256 = 0 := by omega
  have hk : imm / 64 % 4 = imm / 64 := by omega
  have hk3 : imm / 64 ≠ 3 := by omega
  simp [sShi, hz, hk, hk3]

theorem sShi_of_unlisted {imm : Nat} (h : 192 ≤ imm) (late : Bool) (rd ra : Nat) :
    sShi t late rd ra imm w s = illegal w := by
  have hk : imm / 256 ≠ 0 ∨ imm / 64 % 4 = 3 := by omega
  simp only [sShi, ne_eq, Bool.or_eq_true, decide_eq_true_eq]
  exact if_pos hk

theorem State.row_sShi (h : s.stands t w = true) {ra imm : Nat} (hr : (s.tile t).core.waits [.g ra] = false)
    (himm : imm < 192) (late : Bool) (rd : Nat) :
    s.row t w (sShi t late rd ra imm w) = Says.given s t late (.g rd)
      (aluVal (5 + imm / 64) ((s.tile t).core.rg ra) (imm % 64) false) :=
  State.row_of_res h ((sShi_of_listed himm late rd ra).trans (sUnary_of_ready hr late rd _))

end

/-! ### The rows -/

theorem alu : Says.alu := by
  intro t late rd ra rb rc fn s h
  refine ⟨fun hfn hrc hr => congrArg Host.Outcome.next (State.row_of_res h ?listed),
    fun hfn hrc hr => congrArg Host.Outcome.next (State.row_of_res h ?sel),
    fun hfn => congrArg Host.Outcome.next (State.row_of_illegal h (sAlu_of_unlisted hfn late _ _ _ _))⟩
  case listed =>
    subst hrc
    exact sAlu_of_ready hr hfn late rd.toNat
  case sel =>
    subst hfn
    exact sAlu_sel_of_ready hr hrc late rd.toNat

theorem immediates : Says.immediates := by
  intro t late rd ra imm s c hr
  have row {w : Nat} (f : Nat → Nat) (h : s.stands t.toNat w = true) :
      (.next (s.row t.toNat w (sUnary t.toNat late rd.toNat ra.toNat f)) : Host.Outcome State Fault Refusal) =
        .next (Says.given s t.toNat late (.g rd.toNat) (f (c.rg ra.toNat))) :=
    congrArg Host.Outcome.next (State.row_sUnary h hr late rd.toNat f)
  exact ⟨row _, row _, row _, row _⟩

theorem shi : Says.shi := by
  intro t late rd ra imm s h c a n
  have listed (hr : c.waits [.g ra.toNat] = false) (himm : imm.toNat < 192) :
      exec (.shi t late rd ra imm) s =
        .next (Says.given s t.toNat late (.g rd.toNat) (aluVal (5 + imm.toNat / 64) a n false)) :=
    congrArg Host.Outcome.next (State.row_sShi h hr himm late rd.toNat)
  have hn : n % 64 = n := Nat.mod_mod _ _
  refine ⟨fun hr hlt => ?left, fun hr hle hlt _ => ?right, fun hr hle hlt _ => ?signed,
    fun hle => congrArg Host.Outcome.next (State.row_of_illegal h (sShi_of_unlisted hle late _ _))⟩
  case left =>
    rw [listed hr (by omega), show imm.toNat / 64 = 0 by omega]
    simp only [aluVal, hn]
  case right =>
    rw [listed hr (by omega), show imm.toNat / 64 = 1 by omega]
    simp only [aluVal, hn]
  case signed =>
    rw [listed hr hlt, show imm.toNat / 64 = 2 by omega]
    simp only [aluVal, hn]

theorem loadImmediates : Says.loadImmediates := by
  intro t late rd imm s c
  exact ⟨fun h => congrArg Host.Outcome.next (State.row_of_res h rfl),
    fun h hr => congrArg Host.Outcome.next (State.row_sUnary h hr late rd.toNat _)⟩

/-! ### What a result leaves of the core (R141, R157, R168) -/

/-- A register written changes registers only. -/
theorem Core.wr_eq (c : Core) (d : Dst) (v : Nat) : ∃ g f p, c.wr d v = { c with g := g, f := f, p := p } := by
  cases d with
  | f i => exact ⟨_, _, _, rfl⟩
  | g i | p i =>
    simp only [Core.wr]
    split <;> exact ⟨_, _, _, rfl⟩

/-- A result changes registers and pending results only. -/
theorem Core.result_eq (c : Core) (late : Bool) (deps : List Dst) (d : Dst) (v : Nat) :
    ∃ g f p pend, c.result late deps d v = { c with g := g, f := f, p := p, pend := pend } := by
  simp only [Core.result]
  split
  · exact ⟨_, _, _, _, rfl⟩
  · split
    · exact ⟨_, _, _, _, rfl⟩
    · obtain ⟨g, f, p, h⟩ := Core.wr_eq _ d v
      exact ⟨g, f, p, _, h⟩

@[simp] theorem Core.result_frame (c : Core) (late : Bool) (deps : List Dst) (d : Dst) (v : Nat) :
    (c.result late deps d v).run = c.run ∧ (c.result late deps d v).pc = c.pc ∧
      (c.result late deps d v).sticky = c.sticky ∧ (c.result late deps d v).ckpts = c.ckpts := by
  obtain ⟨g, f, p, pend, h⟩ := c.result_eq late deps d v
  rw [h]
  exact ⟨rfl, rfl, rfl, rfl⟩

theorem State.plain_modCore {s : State} {t : Nat} {f : Core → Core}
    (h : (f (s.tile t).core).ckpts = (s.tile t).core.ckpts) : (s.modCore t f).plain t = s.plain t := by
  simp only [State.plain, State.worksOn, State.tile_modCore_self, h, State.traced_modCore, State.works_modCore]

theorem State.running_of_stands {s : State} {t w : Nat} (h : s.stands t w = true) :
    (s.tile t).core.run = .running := by
  simp only [State.stands, State.fetches, State.issues, Bool.and_eq_true, decide_eq_true_eq] at h
  obtain ⟨⟨⟨⟨⟨⟨⟨⟨hrun, _⟩, _⟩, _⟩, _⟩, _⟩, _⟩, _⟩, _⟩ := h
  exact hrun

/-- A result of a plain running core, committed: the core alone changes. -/
theorem State.given_of_plain {s : State} {t : Nat} (hp : s.plain t = true) (hr : (s.tile t).core.run = .running)
    (late : Bool) (d : Dst) (v : Nat) :
    Says.given s t late d v = s.modCore t (fun c =>
      { c.result late [] d v with pc := c.pc + 4, commits := (c.result late [] d v).commits + 1 }) := by
  rw [Says.given, State.commit_plain, State.modCore_modCore]
  · simp
  · rwa [State.plain_modCore (by simp)]
  · simp [hr]

theorem integerQuiet : Says.integerQuiet := by
  intro t late rd ra rb fn s hfn h hp hr
  refine ⟨_, (alu t late rd ra rb 0 fn s h).1 hfn rfl hr, ?_⟩
  rw [State.given_of_plain hp (State.running_of_stands h)]
  simp [State.running_of_stands h]

/-- Settles O32: each row is `State.row` of an operation that, with its sources ready, gives a result; the arithmetic is that of
two's complement words. -/
theorem integerInstructions : Obligations.IntegerInstructions :=
  ⟨alu, immediates, shi, loadImmediates, integerOps, integerQuiet⟩

end Machine
end Sys2Proof

/-! Proofs for the pins of chapter 24: which commands move the straps and the JTAG instruction, and that both stay legal
(R451, R486). -/

namespace Sys2Proof

/-- The commands that write the straps or the JTAG instruction: the two of the supplies (R486) and the four instructions of
the JTAG port (R451). -/
inductive Instr.Latches : Instr → Prop
  | suppliesApplied (strap0 strap1 : Bool) : Latches (.suppliesApplied strap0 strap1)
  | supplyRemoval : Latches .supplyRemoval
  | jtagExtest : Latches .jtagExtest
  | jtagIdcode : Latches .jtagIdcode
  | jtagBypass (code : Byte) : Latches (.jtagBypass code)
  | jtagSamplePreload (pins preload : List Bool) : Latches (.jtagSamplePreload pins preload)

namespace Machine

/-! ### Commands that latch nothing -/

/-- Each command by the frame of its arm, in the order of `exec`. -/
theorem exec_steady {c : Instr} {s r : State} (hc : ¬ c.Latches) (e : exec c s = .next r) : Steady s r := by
  cases c with
  | deviceQuery => exact steady_of_outer (execDeviceQuery_outer _ _ _ e)
  | deviceNop => exact steady_of_outer (execDeviceNop_outer _ _ _ e)
  | ctxCreate => exact steady_of_outer (execCtxCreate_outer _ _ _ _ _ _ _ _ e)
  | ctxDestroy => exact steady_of_outer (execCtxDestroy_outer _ _ _ e)
  | ctxReset => exact steady_of_outer (execCtxReset_outer _ _ _ e)
  | ctxQuery => exact steady_of_outer (execCtxQuery_outer _ _ _ _ e)
  | ctxResume => exact steady_of_outer (execCtxResume_outer _ _ _ e)
  | ctxFaultAbort => exact steady_of_outer (execCtxFaultAbort_outer _ _ _ e)
  | memMap => exact steady_of_outer (execMemMap_outer _ _ _ _ _ _ _ _ e)
  | memUnmap => exact steady_of_outer (execMemUnmap_outer _ _ _ _ _ e)
  | memSwapOut => exact steady_of_outer (execMemSwapOut_outer _ _ _ _ _ _ e)
  | modelPlace => exact steady_of_outer (execModelPlace_outer _ _ _ _ _ _ _ _ e)
  | modelRemove => exact steady_of_outer (execModelRemove_outer _ _ _ _ e)
  | variantLoad => exact steady_of_outer (execVariantLoad_outer _ _ _ _ _ _ _ _ e)
  | variantRemove => exact steady_of_outer (execVariantRemove_outer _ _ _ _ _ e)
  | adapterLoad => exact steady_of_outer (execAdapterLoad_outer _ _ _ _ _ _ _ _ _ e)
  | adapterRemove => exact steady_of_outer (execAdapterRemove_outer _ _ _ _ _ e)
  | seqOpen h model variant maxLen cls nAds ads target pfx adm =>
    exact steady_of_outer (execSeqOpen_outer h model variant maxLen cls nAds ads target pfx adm s r e)
  | seqStep => exact steady_of_outer (execSeqStep_outer _ _ _ _ _ _ _ _ _ _ _ e)
  | seqCancelEpoch => exact steady_of_outer (execSeqCancelEpoch_outer _ _ _ _ e)
  | seqCancelSequence => exact steady_of_outer (execSeqCancelSequence_outer _ _ _ _ e)
  | seqClose => exact steady_of_outer (execSeqClose_outer _ _ _ _ e)
  | prefixSave => exact steady_of_outer (execPrefixSave_outer _ _ _ _ _ _ e)
  | prefixRemove => exact steady_of_outer (execPrefixRemove_outer _ _ _ _ e)
  | seqQuery => exact steady_of_outer (execSeqQuery_outer _ _ _ _ e)
  | frameSubmit => exact steady_of_outer (execFrameSubmit_outer _ _ _ _ _ _ _ _ _ _ _ _ _ e)
  | frameCancel => exact steady_of_outer (execFrameCancel_outer _ _ _ _ e)
  | kernelLoad => exact steady_of_outer (execKernelLoad_outer _ _ _ _ _ _ e)
  | kernelLaunch => exact steady_of_outer (execKernelLaunch_outer _ _ _ _ _ _ _ _ _ e)
  | syncCreate => exact steady_of_outer (execSyncCreate_outer _ _ _ _ _ _ _ _ _ _ e)
  | syncDestroy => exact steady_of_outer (execSyncDestroy_outer _ _ _ _ _ e)
  | signalAdd => exact steady_of_outer (execSignalAdd_outer _ _ _ _ _ e)
  | signalWait => exact steady_of_outer (execSignalWait_outer _ _ _ _ _ _ e)
  | signalWaitLimit => exact steady_of_outer (execSignalWaitLimit_outer (h := e))
  | configStage => exact steady_of_outer (execConfigStage_outer _ _ _ _ _ _ e)
  | configSwap => exact steady_of_outer (execConfigSwap_outer _ _ _ _ e)
  | configFenceTimeout => exact steady_of_outer (execConfigFenceTimeout_outer (h := e))
  | functionDisable => exact steady_of_outer (execFunctionDisable_outer _ _ _ _ _ _ e)
  | functionEnable => exact steady_of_outer (execFunctionEnable_outer _ _ _ _ _ _ _ e)
  | fwStage => exact steady_of_outer (execFwStage_outer _ _ _ _ _ e)
  | fwActivate => exact steady_of_outer (execFwActivate_outer _ _ _ e)
  | engineReset => exact steady_of_outer (execEngineReset_outer _ _ _ _ e)
  | partitionReset => exact steady_of_outer (execPartitionReset_outer _ _ _ _ e)
  | counterSnapshot => exact steady_of_outer (execCounterSnapshot_outer _ _ _ _ e)
  | counterSnapshotLatch => exact steady_of_outer (execCounterSnapshotLatch_outer (h := e))
  | dumpRead => exact steady_of_outer (execDumpRead_outer _ _ _ _ _ _ e)
  | traceStart => exact steady_of_outer (execTraceStart_outer _ _ _ _ _ _ _ e)
  | traceStop => exact steady_of_outer (execTraceStop_outer _ _ _ e)
  | qpEnable => exact steady_of_outer (execQpEnable_outer (h := e))
  | qpDisable => exact steady_of_outer (execQpDisable_outer (h := e))
  | sqTail => exact steady_of_outer (execSqTail_outer (h := e))
  | cqHead => exact steady_of_outer (execCqHead_outer (h := e))
  | msixCoalesceTimer => exact steady_of_outer (execMsixCoalesceTimer_outer (h := e))
  | chipResetWrite => exact steady_of_outer (execChipResetWrite_outer (h := e))
  | commonCountLowRead => exact steady_of_outer (execCommonCountLowRead_outer (h := e))
  | evtHeadWrite => exact steady_of_outer (execEvtHeadWrite_outer (h := e))
  | traceHeadWrite => exact steady_of_outer (execTraceHeadWrite_outer (h := e))
  | registerWrite => exact steady_of_outer (execRegisterWrite_outer (h := e))
  | hdmDecoderCommit => exact steady_of_outer (execHdmDecoderCommit_outer (h := e))
  | configRequest => exact steady_of_outer (execConfigRequest_outer (h := e))
  | cxlMemRead => exact steady_of_outer (execCxlMemRead_outer (h := e))
  | cxlMemWrite => exact steady_of_outer (execCxlMemWrite_outer (h := e))
  | hostSnoop => exact steady_of_outer (execHostSnoop_outer (h := e))
  | hotReset => exact steady_of_outer (execHotReset_outer (h := e))
  | doeAbort => exact steady_of_outer (execDoeAbort_outer (h := e))
  | getVersion => exact steady_of_outer (execGetVersion_outer (h := e))
  | getCapabilities => exact steady_of_outer (execGetCapabilities_outer (h := e))
  | negotiateAlgorithms => exact steady_of_outer (execNegotiateAlgorithms_outer (h := e))
  | getDigests => exact steady_of_outer (execGetDigests_outer (h := e))
  | getCertificate => exact steady_of_outer (execGetCertificate_outer (h := e))
  | challenge => exact steady_of_outer (execChallenge_outer (h := e))
  | getMeasurements => exact steady_of_outer (execGetMeasurements_outer (h := e))
  | spdmUnsupportedRequest code => exact steady_of_outer (execSpdmUnsupportedRequest_outer code _ _ e)
  | pwrNow => exact steady_of_outer (execPwrNow_outer (h := e))
  | tjMax => exact steady_of_outer (execTjMax_outer (h := e))
  | hbmTmax => exact steady_of_outer (execHbmTmax_outer (h := e))
  | trayLimitWRead => exact steady_of_outer (execTrayLimitWRead_outer (h := e))
  | trayLimitWWrite => exact steady_of_outer (execTrayLimitWWrite_outer (h := e))
  | pwrStatus => exact steady_of_outer (execPwrStatus_outer (h := e))
  | alertMaskRead => exact steady_of_outer (execAlertMaskRead_outer (h := e))
  | alertMaskWrite => exact steady_of_outer (execAlertMaskWrite_outer (h := e))
  | jtagExtest => exact absurd .jtagExtest hc
  | jtagIdcode => exact absurd .jtagIdcode hc
  | jtagBypass => exact absurd (.jtagBypass _) hc
  | jtagSamplePreload => exact absurd (.jtagSamplePreload _ _) hc
  | trayResetNRelease => exact execTrayResetNRelease_steady (h := e)
  | perstNAssert => exact execPerstNAssert_steady (h := e)
  | pwrgoodFall => exact execPwrgoodFall_steady (h := e)
  | supplyRemoval => exact absurd .supplyRemoval hc
  | resetEscalation => exact execResetEscalation_steady (h := e)
  | workItemStart => exact steady_of_outer (execWorkItemStart_outer (h := e))
  | frameStart => exact steady_of_outer (execFrameStart_outer (h := e))
  | frameDeadline => exact steady_of_outer (execFrameDeadline_outer (h := e))
  | workCommandComplete => exact steady_of_outer (execWorkCommandComplete_outer (h := e))
  | requestRerun => exact steady_of_outer (execRequestRerun_outer (h := e))
  | slotPreempt => exact steady_of_outer (execSlotPreempt_outer (h := e))
  | slotResume => exact steady_of_outer (execSlotResume_outer (h := e))
  | epochResolve => exact steady_of_outer (execEpochResolve_outer (h := e))
  | epochToken => exact steady_of_outer (execEpochToken_outer (h := e))
  | epochTokenApply => exact steady_of_outer (execEpochTokenApply_outer (h := e))
  | epochAckTimeout => exact steady_of_outer (execEpochAckTimeout_outer (h := e))
  | alu => exact steady_of_outer (execAlu_outer (h := e))
  | addi => exact steady_of_outer (execAddi_outer (h := e))
  | andi => exact steady_of_outer (execAndi_outer (h := e))
  | ori => exact steady_of_outer (execOri_outer (h := e))
  | xori => exact steady_of_outer (execXori_outer (h := e))
  | shi => exact steady_of_outer (execShi_outer (h := e))
  | li => exact steady_of_outer (execLi_outer (h := e))
  | lis => exact steady_of_outer (execLis_outer (h := e))
  | ld => exact steady_of_outer (execLd_outer (h := e))
  | st => exact steady_of_outer (execSt_outer (h := e))
  | ldf => exact steady_of_outer (execLdf_outer (h := e))
  | stf => exact steady_of_outer (execStf_outer (h := e))
  | cmp => exact steady_of_outer (execCmp_outer (h := e))
  | cmpi => exact steady_of_outer (execCmpi_outer (h := e))
  | plog => exact steady_of_outer (execPlog_outer (h := e))
  | br => exact steady_of_outer (execBr_outer (h := e))
  | call => exact steady_of_outer (execCall_outer (h := e))
  | jr => exact steady_of_outer (execJr_outer (h := e))
  | fop => exact steady_of_outer (execFop_outer (h := e))
  | fcmp => exact steady_of_outer (execFcmp_outer (h := e))
  | fmv => exact steady_of_outer (execFmv_outer (h := e))
  | hash => exact steady_of_outer (execHash_outer (h := e))
  | rdraw => exact steady_of_outer (execRdraw_outer (h := e))
  | rctr => exact steady_of_outer (execRctr_outer (h := e))
  | rctw => exact steady_of_outer (execRctw_outer (h := e))
  | csrr => exact steady_of_outer (execCsrr_outer (h := e))
  | csrw => exact steady_of_outer (execCsrw_outer (h := e))
  | cntr => exact steady_of_outer (execCntr_outer (h := e))
  | yield => exact steady_of_outer (execYield_outer (h := e))
  | workNext => exact steady_of_outer (execWorkNext_outer (h := e))
  | eventPost => exact steady_of_outer (execEventPost_outer (h := e))
  | svcUnlisted => exact steady_of_outer (execSvcUnlisted_outer (h := e))
  | halt => exact steady_of_outer (execHalt_outer (h := e))
  | descw => exact steady_of_outer (execDescw_outer (h := e))
  | tkstat => exact steady_of_outer (execTkstat_outer (h := e))
  | bundle => exact steady_of_outer (execBundle_outer (h := e))
  | syncWaitExpiry => exact steady_of_outer (execSyncWaitExpiry_outer (h := e))
  | pendingResultArrival => exact steady_of_outer (execPendingResultArrival_outer (h := e))
  | branchResolve => exact steady_of_outer (execBranchResolve_outer (h := e))
  | coreStop => exact steady_of_outer (execCoreStop_outer (h := e))
  | lockstepMismatch => exact execLockstepMismatch_steady (h := e)
  | stepOperationBegin => exact steady_of_outer (execStepOperationBegin_outer (h := e))
  | tritStep => exact steady_of_outer (execTritStep_outer (h := e))
  | outlierDigitStep => exact steady_of_outer (execOutlierDigitStep_outer (h := e))
  | planeToken => exact steady_of_outer (execPlaneToken_outer (h := e))
  | checkComparison => exact steady_of_outer (execCheckComparison_outer (h := e))
  | blockLoad => exact steady_of_outer (execBlockLoad_outer (h := e))
  | slotCopyLoad => exact steady_of_outer (execSlotCopyLoad_outer (h := e))
  | planeBlockLoad => exact steady_of_outer (execPlaneBlockLoad_outer (h := e))
  | drainBegin => exact steady_of_outer (execDrainBegin_outer (h := e))
  | drainRow => exact steady_of_outer (execDrainRow_outer (h := e))
  | queueRowWrite => exact steady_of_outer (execQueueRowWrite_outer (h := e))
  | chainRunBegin => exact steady_of_outer (execChainRunBegin_outer (h := e))
  | vectorBeat => exact steady_of_outer (execVectorBeat_outer (h := e))
  | queueRowConsume => exact steady_of_outer (execQueueRowConsume_outer (h := e))
  | lookupSlotLoad => exact steady_of_outer (execLookupSlotLoad_outer (h := e))
  | transferBegin => exact steady_of_outer (execTransferBegin_outer (h := e))
  | elementBatch => exact steady_of_outer (execElementBatch_outer (h := e))
  | translationWalk => exact steady_of_outer (execTranslationWalk_outer (h := e))
  | writeAcknowledged => exact steady_of_outer (execWriteAcknowledged_outer (h := e))
  | pageSwapIn => exact steady_of_outer (execPageSwapIn_outer (h := e))
  | remotePortRequest => exact steady_of_outer (execRemotePortRequest_outer (h := e))
  | scrubAccess => exact steady_of_outer (execScrubAccess_outer (h := e))
  | quadReturnScrubPass => exact steady_of_outer (execQuadReturnScrubPass_outer (h := e))
  | verifyingPass => exact steady_of_outer (execVerifyingPass_outer (h := e))
  | weightReload => exact steady_of_outer (execWeightReload_outer (h := e))
  | route => exact steady_of_outer (execRoute_outer (h := e))
  | combine => exact steady_of_outer (execCombine_outer (h := e))
  | abandon => exact steady_of_outer (execAbandon_outer (h := e))
  | kvAppend => exact steady_of_outer (execKvAppend_outer (h := e))
  | kvRecvOpen => exact steady_of_outer (execKvRecvOpen_outer (h := e))
  | windowDeadline => exact steady_of_outer (execWindowDeadline_outer (h := e))
  | windowCloseComplete => exact steady_of_outer (execWindowCloseComplete_outer (h := e))
  | intAddOperand => exact steady_of_outer (execIntAddOperand_outer (h := e))
  | fp32TreeOperand => exact steady_of_outer (execFp32TreeOperand_outer (h := e))
  | unorderedAdd => exact steady_of_outer (execUnorderedAdd_outer (h := e))
  | hbmPatrol => exact steady_of_outer (execHbmPatrol_outer (h := e))
  | hbmStackUnavailable => exact steady_of_outer (execHbmStackUnavailable_outer (h := e))
  | farReadTimeout => exact steady_of_outer (execFarReadTimeout_outer (h := e))
  | farWriteFailure => exact steady_of_outer (execFarWriteFailure_outer (h := e))
  | hostReadTimeout => exact steady_of_outer (execHostReadTimeout_outer (h := e))
  | dataFlit => exact steady_of_outer (execDataFlit_outer (h := e))
  | retryRequest => exact steady_of_outer (execRetryRequest_outer (h := e))
  | idleFlit => exact steady_of_outer (execIdleFlit_outer (h := e))
  | trainingControl => exact steady_of_outer (execTrainingControl_outer (h := e))
  | linkTraining => exact steady_of_outer (execLinkTraining_outer (h := e))
  | linkDown => exact steady_of_outer (execLinkDown_outer (h := e))
  | packetInject => exact steady_of_outer (execPacketInject_outer (h := e))
  | transitForward => exact steady_of_outer (execTransitForward_outer (h := e))
  | write => exact steady_of_outer (execWrite_outer (h := e))
  | int32Add => exact steady_of_outer (execInt32Add_outer (h := e))
  | int64Add => exact steady_of_outer (execInt64Add_outer (h := e))
  | fp32Add => exact steady_of_outer (execFp32Add_outer (h := e))
  | acknowledgement => exact steady_of_outer (execAcknowledgement_outer (h := e))
  | refusal => exact steady_of_outer (execRefusal_outer (h := e))
  | retryLater => exact steady_of_outer (execRetryLater_outer (h := e))
  | retryLaterTimer => exact steady_of_outer (execRetryLaterTimer_outer (h := e))
  | resendTimeout => exact steady_of_outer (execResendTimeout_outer (h := e))
  | flowForget => exact steady_of_outer (execFlowForget_outer (h := e))
  | linkStateNotice => exact steady_of_outer (execLinkStateNotice_outer (h := e))
  | generationNotice m job part gen => exact steady_of_outer (execGenerationNotice_outer m job part gen s r e)
  | barrierArrivalForward => exact steady_of_outer (execBarrierArrivalForward_outer (h := e))
  | barrierCompletion => exact steady_of_outer (execBarrierCompletion_outer (h := e))
  | barrierTimeout => exact steady_of_outer (execBarrierTimeout_outer (h := e))
  | timeExchange => exact steady_of_outer (execTimeExchange_outer (h := e))
  | timeExchangeReply => exact steady_of_outer (execTimeExchangeReply_outer (h := e))
  | timeAheadNotice => exact steady_of_outer (execTimeAheadNotice_outer (h := e))
  | checkPeerExchange => exact steady_of_outer (execCheckPeerExchange_outer (h := e))
  | rateMonitorWindow => exact steady_of_outer (execRateMonitorWindow_outer (h := e))
  | governorEvaluation => exact steady_of_outer (execGovernorEvaluation_outer (h := e))
  | efficiencyMeasurement => exact steady_of_outer (execEfficiencyMeasurement_outer (h := e))
  | powerMeasurement => exact steady_of_outer (execPowerMeasurement_outer (h := e))
  | powerLimiterStep => exact steady_of_outer (execPowerLimiterStep_outer (h := e))
  | thermalLimiterStep => exact steady_of_outer (execThermalLimiterStep_outer (h := e))
  | thermtrip => exact execThermtrip_steady (h := e)
  | regulatorWindow => exact steady_of_outer (execRegulatorWindow_outer (h := e))
  | hang => exact execHang_steady (h := e)
  | saddleFailed => exact steady_of_outer (execSaddleFailed_outer (h := e))
  | trayResetNAssert => exact execTrayResetNAssert_steady (h := e)
  | perstNRelease => exact execPerstNRelease_steady (h := e)
  | pwrgoodRise => exact execPwrgoodRise_steady (h := e)
  | suppliesApplied => exact absurd (.suppliesApplied _ _) hc
  | stewardFirmwareReady => exact steady_of_outer (execStewardFirmwareReady_outer (h := e))
  | commandInterpretationResumes => exact steady_of_outer (execCommandInterpretationResumes_outer (h := e))
  | epochTokenAcknowledgement => exact steady_of_outer (execEpochTokenAcknowledgement_outer (h := e))
  | timeExchangeAtParent => exact steady_of_outer (execTimeExchangeAtParent_outer (h := e))
  | sourceReadReturn => exact steady_of_outer (execSourceReadReturn_outer (h := e))
  | outOfConditions rail => exact steady_of_outer (execOutOfConditions_outer rail s r e)
  | hbmDoubledRefresh => exact steady_of_outer (execHbmDoubledRefresh_outer (h := e))

/-! ### The supplies (R486) -/

theorem execSuppliesApplied_of_supplies {s : State} (hs : s.pins.supplies = true) (strap0 strap1 : Bool) :
    execSuppliesApplied strap0 strap1 s = .next s := by
  rw [execSuppliesApplied, if_pos hs]

theorem execSuppliesApplied_straps {s r : State} {strap0 strap1 : Bool} (hs : s.pins.supplies = false)
    (e : execSuppliesApplied strap0 strap1 s = .next r) :
    r.pins.straps = (if strap0 then 1 else 0) + (if strap1 then 2 else 0) := by
  rw [execSuppliesApplied, if_neg (ne_true_of_eq_false hs)] at e
  cases e
  rfl

/-- Two straps are two bits. -/
theorem straps_lt_four (strap0 strap1 : Bool) : (if strap0 then 1 else 0) + (if strap1 then 2 else 0) < 4 := by
  revert strap0 strap1
  decide

/-- While the supplies are there only their removal moves the straps: to apply them again changes nothing, and a JTAG
instruction writes its own register. -/
theorem exec_straps {c : Instr} {s r : State} (hs : s.pins.supplies = true) (hr : c ≠ .supplyRemoval)
    (e : exec c s = .next r) : r.pins.straps = s.pins.straps := by
  by_cases hc : c.Latches
  · cases hc with
    | suppliesApplied a b =>
      have hn : exec (.suppliesApplied a b) s = .next s := execSuppliesApplied_of_supplies hs a b
      cases hn.symm.trans e
      rfl
    | supplyRemoval => exact absurd rfl hr
    | jtagExtest => exact (execJtagExtest_pins s r e).2.1
    | jtagIdcode => exact (execJtagIdcode_pins s r e).2.1
    | jtagBypass code => exact (execJtagBypass_pins code s r e).2.1
    | jtagSamplePreload ps preload => exact (execJtagSamplePreload_pins ps preload s r e).2.1
  · exact (exec_steady hc e).2.1

/-! ### The legal levels (R451, R486) -/

section
variable {s r : State}

theorem legal_of_eq (hl : Says.Legal s) (hs : r.pins.straps = s.pins.straps) (hj : r.pins.jtag = s.pins.jtag) :
    Says.Legal r := by
  rwa [Says.Legal, hs, hj]

theorem legal_of_jtag {n : Nat} (hl : Says.Legal s) (hs : r.pins.straps = s.pins.straps) (hn : n < 4)
    (hj : r.pins.jtag = s.pins.jtag ∨ r.pins.jtag = n) : Says.Legal r := by
  rcases hj with hj | hj
  · exact legal_of_eq hl hs hj
  · exact ⟨hs ▸ hl.1, hj ▸ hn⟩

theorem execSuppliesApplied_legal {strap0 strap1 : Bool} (hl : Says.Legal s)
    (e : execSuppliesApplied strap0 strap1 s = .next r) : Says.Legal r := by
  rcases (execSuppliesApplied_pins strap0 strap1 s r e).2 with hp | hp
  · exact legal_of_eq hl (by rw [hp]) (by rw [hp])
  · rw [Says.Legal, hp]
    exact ⟨straps_lt_four strap0 strap1, hl.2⟩

theorem execSupplyRemoval_legal (e : execSupplyRemoval s = .next r) : Says.Legal r := by
  rw [Says.Legal, (execSupplyRemoval_pins s r e).2]
  decide

theorem exec_legal {c : Instr} (hl : Says.Legal s) (e : exec c s = .next r) : Says.Legal r := by
  by_cases hc : c.Latches
  · cases hc with
    | suppliesApplied a b => exact execSuppliesApplied_legal hl e
    | supplyRemoval => exact execSupplyRemoval_legal e
    | jtagExtest =>
      obtain ⟨_, hs, _, _, hj⟩ := execJtagExtest_pins s r e
      exact legal_of_jtag hl hs (by decide) hj
    | jtagIdcode =>
      obtain ⟨_, hs, _, _, hj⟩ := execJtagIdcode_pins s r e
      exact legal_of_jtag hl hs (by decide) hj
    | jtagBypass code =>
      obtain ⟨_, hs, _, _, hj⟩ := execJtagBypass_pins code s r e
      exact legal_of_jtag hl hs (by decide) hj
    | jtagSamplePreload ps preload =>
      obtain ⟨_, hs, _, _, hj⟩ := execJtagSamplePreload_pins ps preload s r e
      exact legal_of_jtag hl hs (by decide) hj
  · obtain ⟨_, hs, hj, _⟩ := exec_steady hc e
    exact legal_of_eq hl hs hj

end

/-! ### The step -/

/-- A step is a tick or the command at the front of the queue, run with the command taken. -/
theorem step_cases {s t : State} (e : step s = .next t) :
    (s.pending = [] ∧ t = s.tick) ∨
      ∃ c q, s.pending = c :: q ∧ exec c { s with pending := q } = .next t := by
  unfold step at e
  split at e
  case h_1 hp =>
    cases e
    exact .inl ⟨hp, rfl⟩
  case h_2 c q hp => exact .inr ⟨c, q, hp, e⟩

theorem legalKept : Says.legalKept := by
  intro s t hl e
  rcases step_cases e with ⟨_, rfl⟩ | ⟨c, q, _, ec⟩
  · have hp := (State.tick_outer s).1
    exact legal_of_eq hl (by rw [hp]) (by rw [hp])
  · exact exec_legal (s := { s with pending := q }) hl ec

theorem step_straps {s t : State} (hs : s.pins.supplies = true) (hr : s.pending.head? ≠ some .supplyRemoval)
    (e : step s = .next t) : t.pins.straps = s.pins.straps := by
  rcases step_cases e with ⟨_, rfl⟩ | ⟨c, q, hp, ec⟩
  · rw [(State.tick_outer s).1]
  · have hc : c ≠ .supplyRemoval := by
      rintro rfl
      exact hr (by rw [hp, List.head?_cons])
    exact exec_straps (s := { s with pending := q }) hs hc ec

theorem strapsLatched : Says.strapsLatched :=
  ⟨fun _ _ _ _ hs e => execSuppliesApplied_straps hs e, fun _ _ hs hr e => step_straps hs hr e⟩

theorem smbAddress : Says.smbAddress := by
  intro s hl
  have hstraps : s.pins.straps < 4 := hl.1
  have haddr : s.pins.smbAddr = 0x48 + s.pins.straps := rfl
  omega

/-- Settles O47: a command outside `Instr.Latches` is steady, and the six inside it write legal levels, the straps only as
the supplies come or go. -/
theorem strapsAndSmbusAddress : Obligations.StrapsAndSmbusAddress :=
  ⟨legalKept, strapsLatched, smbAddress⟩

end Machine
end Sys2Proof

/-! Proofs for the machine as a whole: every command answers a next state. -/

namespace Sys2Proof.Machine

/-- The outcome is a next state: no fault and no refusal. -/
def Completes (o : Host.Outcome State Fault Refusal) : Prop := ∃ t, o = .next t

theorem completes_next (t : State) : Completes (.next t) := ⟨t, rfl⟩

theorem execMemUnmap_completes (h va len s) : Completes (execMemUnmap h va len s) := by
  unfold execMemUnmap
  repeat' first | with_reducible exact completes_next _ | split | dsimp only

theorem execMemSwapOut_completes (h va len backing s) : Completes (execMemSwapOut h va len backing s) := by
  unfold execMemSwapOut
  repeat' first | with_reducible exact completes_next _ | split | dsimp only

theorem execSignalWaitLimit_completes (qp cmdId s) : Completes (execSignalWaitLimit qp cmdId s) := by
  unfold execSignalWaitLimit
  repeat' first | with_reducible exact completes_next _ | split

theorem execConfigStage_completes (h source addr len s) : Completes (execConfigStage h source addr len s) := by
  unfold execConfigStage
  repeat' first | with_reducible exact completes_next _ | split

theorem execConfigSwap_completes (h fenceOk s) : Completes (execConfigSwap h fenceOk s) := by
  unfold execConfigSwap
  repeat' first | with_reducible exact completes_next _ | split

theorem execConfigFenceTimeout_completes (s) : Completes (execConfigFenceTimeout s) := by
  unfold execConfigFenceTimeout
  repeat' first | with_reducible exact completes_next _ | split

theorem execFwStage_completes (h pa len s) : Completes (execFwStage h pa len s) := by
  unfold execFwStage
  repeat' first | with_reducible exact completes_next _ | split

theorem execFwActivate_completes (h s) : Completes (execFwActivate h s) := by
  unfold execFwActivate
  repeat' first | with_reducible exact completes_next _ | split

theorem execCounterSnapshotLatch_completes (s) : Completes (execCounterSnapshotLatch s) := by
  unfold execCounterSnapshotLatch
  repeat' first | with_reducible exact completes_next _ | split

theorem execMsixCoalesceTimer_completes (qp s) : Completes (execMsixCoalesceTimer qp s) := by
  unfold execMsixCoalesceTimer
  repeat' first | with_reducible exact completes_next _ | split

theorem execChipResetWrite_completes (key s) : Completes (execChipResetWrite key s) := by
  unfold execChipResetWrite
  repeat' first | with_reducible exact completes_next _ | split

theorem execConfigRequest_completes (write reg value s) : Completes (execConfigRequest write reg value s) := by
  unfold execConfigRequest
  repeat' first | with_reducible exact completes_next _ | split

theorem execCxlMemRead_completes (addr len late upsets s) : Completes (execCxlMemRead addr len late upsets s) := by
  unfold execCxlMemRead
  repeat' first | with_reducible exact completes_next _ | split | dsimp only

theorem execCxlMemWrite_completes (addr data poison upsets s) : Completes (execCxlMemWrite addr data poison upsets s) := by
  unfold execCxlMemWrite
  repeat' first | with_reducible exact completes_next _ | split | dsimp only

theorem execWorkItemStart_completes (work tile s) : Completes (execWorkItemStart work tile s) := by
  unfold execWorkItemStart
  repeat' first | with_reducible exact completes_next _ | split | dsimp only

theorem execFrameStart_completes (work s) : Completes (execFrameStart work s) := by
  unfold execFrameStart
  repeat' first | with_reducible exact completes_next _ | split

theorem execFrameDeadline_completes (work s) : Completes (execFrameDeadline work s) := by
  unfold execFrameDeadline
  repeat' first | with_reducible exact completes_next _ | split

theorem execWorkCommandComplete_completes (work s) : Completes (execWorkCommandComplete work s) := by
  unfold execWorkCommandComplete
  repeat' first | with_reducible exact completes_next _ | split

theorem execRequestRerun_completes (work s) : Completes (execRequestRerun work s) := by
  unfold execRequestRerun
  repeat' first | with_reducible exact completes_next _ | split

theorem execSlotPreempt_completes (slot s) : Completes (execSlotPreempt slot s) := by
  unfold execSlotPreempt
  repeat' first | with_reducible exact completes_next _ | split | dsimp only

theorem execSlotResume_completes (slot tagsOk s) : Completes (execSlotResume slot tagsOk s) := by
  unfold execSlotResume
  repeat' first | with_reducible exact completes_next _ | split | dsimp only

theorem execEpochResolve_completes (slot s) : Completes (execEpochResolve slot s) := by
  unfold execEpochResolve
  repeat' first | with_reducible exact completes_next _ | split | dsimp only

theorem execEpochToken_completes (m ctx epoch commit count s) : Completes (execEpochToken m ctx epoch commit count s) := by
  unfold execEpochToken
  repeat' first | with_reducible exact completes_next _ | split | dsimp only

theorem execEpochTokenApply_completes (slot s) : Completes (execEpochTokenApply slot s) := by
  unfold execEpochTokenApply
  repeat' first | with_reducible exact completes_next _ | split | dsimp only

theorem execEpochAckTimeout_completes (slot s) : Completes (execEpochAckTimeout slot s) := by
  unfold execEpochAckTimeout
  repeat' first | with_reducible exact completes_next _ | split | dsimp only

theorem execSvcUnlisted_completes (t rd ra num s) : Completes (execSvcUnlisted t rd ra num s) := by
  unfold execSvcUnlisted
  repeat' first | with_reducible exact completes_next _ | split

theorem execBundle_completes (t late value upsets s) : Completes (execBundle t late value upsets s) := by
  unfold execBundle
  repeat' first | with_reducible exact completes_next _ | split | dsimp only

theorem execSyncWaitExpiry_completes (t s) : Completes (execSyncWaitExpiry t s) := by
  unfold execSyncWaitExpiry
  repeat' first | with_reducible exact completes_next _ | split | dsimp only

theorem execBranchResolve_completes (t s) : Completes (execBranchResolve t s) := by
  unfold execBranchResolve
  repeat' first | with_reducible exact completes_next _ | split | dsimp only

theorem execCoreStop_completes (t resume s) : Completes (execCoreStop t resume s) := by
  unfold execCoreStop
  repeat' first | with_reducible exact completes_next _ | split

theorem execLockstepMismatch_completes (steward t s) : Completes (execLockstepMismatch steward t s) := by
  unfold execLockstepMismatch
  repeat' first | with_reducible exact completes_next _ | split | dsimp only

theorem execStepOperationBegin_completes (t s) : Completes (execStepOperationBegin t s) := by
  unfold execStepOperationBegin
  repeat' first | with_reducible exact completes_next _ | split | dsimp only

theorem execTritStep_completes (t laneErr upsets s) : Completes (execTritStep t laneErr upsets s) := by
  unfold execTritStep
  repeat' first | with_reducible exact completes_next _ | split | dsimp only

theorem execOutlierDigitStep_completes (t laneErr upsets s) : Completes (execOutlierDigitStep t laneErr upsets s) := by
  unfold execOutlierDigitStep
  repeat' first | with_reducible exact completes_next _ | split | dsimp only

theorem execPlaneToken_completes (t laneErr upsets s) : Completes (execPlaneToken t laneErr upsets s) := by
  unfold execPlaneToken
  repeat' first | with_reducible exact completes_next _ | split | dsimp only

theorem execCheckComparison_completes (t s) : Completes (execCheckComparison t s) := by
  unfold execCheckComparison
  repeat' first | with_reducible exact completes_next _ | split | dsimp only

theorem execBlockLoad_completes (t upsets s) : Completes (execBlockLoad t upsets s) := by
  unfold execBlockLoad
  repeat' first | with_reducible exact completes_next _ | split | dsimp only

theorem execSlotCopyLoad_completes (t upsets s) : Completes (execSlotCopyLoad t upsets s) := by
  unfold execSlotCopyLoad
  repeat' first | with_reducible exact completes_next _ | split | dsimp only

theorem execPlaneBlockLoad_completes (t upsets s) : Completes (execPlaneBlockLoad t upsets s) := by
  unfold execPlaneBlockLoad
  repeat' first | with_reducible exact completes_next _ | split | dsimp only

theorem execDrainBegin_completes (t upsets s) : Completes (execDrainBegin t upsets s) := by
  unfold execDrainBegin
  repeat' first | with_reducible exact completes_next _ | split | dsimp only

theorem execDrainRow_completes (t accErr residue upsets s) : Completes (execDrainRow t accErr residue upsets s) := by
  unfold execDrainRow
  repeat' first | with_reducible exact completes_next _ | split | dsimp only

theorem execQueueRowWrite_completes (t s) : Completes (execQueueRowWrite t s) := by
  unfold execQueueRowWrite
  repeat' first | with_reducible exact completes_next _ | split | dsimp only

theorem execChainRunBegin_completes (t upsets s) : Completes (execChainRunBegin t upsets s) := by
  unfold execChainRunBegin
  repeat' first | with_reducible exact completes_next _ | split | dsimp only

theorem execVectorBeat_completes (t residue upsets s) : Completes (execVectorBeat t residue upsets s) := by
  unfold execVectorBeat
  repeat' first | with_reducible exact completes_next _ | split | dsimp only

theorem execQueueRowConsume_completes (t s) : Completes (execQueueRowConsume t s) := by
  unfold execQueueRowConsume
  repeat' first | with_reducible exact completes_next _ | split | dsimp only

theorem execLookupSlotLoad_completes (t upsets s) : Completes (execLookupSlotLoad t upsets s) := by
  unfold execLookupSlotLoad
  repeat' first | with_reducible exact completes_next _ | split | dsimp only

theorem execTransferBegin_completes (t queue upsets s) : Completes (execTransferBegin t queue upsets s) := by
  unfold execTransferBegin
  repeat' first | with_reducible exact completes_next _ | split | dsimp only

theorem execElementBatch_completes (t queue n checkFault upsets s) : Completes (execElementBatch t queue n checkFault upsets s) := by
  unfold execElementBatch
  repeat' first | with_reducible exact completes_next _ | split | dsimp only

theorem execTranslationWalk_completes (t queue checkFault upsets s) : Completes (execTranslationWalk t queue checkFault upsets s) := by
  unfold execTranslationWalk
  repeat' first | with_reducible exact completes_next _ | split | dsimp only

theorem execWriteAcknowledged_completes (t queue s) : Completes (execWriteAcknowledged t queue s) := by
  unfold execWriteAcknowledged
  repeat' first | with_reducible exact completes_next _ | split | dsimp only

theorem execPageSwapIn_completes (ctx va tagsOk s) : Completes (execPageSwapIn ctx va tagsOk s) := by
  unfold execPageSwapIn
  repeat' first | with_reducible exact completes_next _ | split | dsimp only

theorem execRemotePortRequest_completes (t write off data gen upsets s) : Completes (execRemotePortRequest t write off data gen upsets s) := by
  unfold execRemotePortRequest
  repeat' first | with_reducible exact completes_next _ | split | dsimp only

theorem execScrubAccess_completes (t istore row upsets s) : Completes (execScrubAccess t istore row upsets s) := by
  unfold execScrubAccess
  repeat' first | with_reducible exact completes_next _ | split | dsimp only

theorem execQuadReturnScrubPass_completes (q upsets s) : Completes (execQuadReturnScrubPass q upsets s) := by
  unfold execQuadReturnScrubPass
  repeat' first | with_reducible exact completes_next _ | split | dsimp only

theorem execVerifyingPass_completes (part upsets s) : Completes (execVerifyingPass part upsets s) := by
  unfold execVerifyingPass
  repeat' first | with_reducible exact completes_next _ | split | dsimp only

theorem execWeightReload_completes (t block s) : Completes (execWeightReload t block s) := by
  unfold execWeightReload
  repeat' first | with_reducible exact completes_next _ | split | dsimp only

theorem execRoute_completes (callers s) : Completes (execRoute callers s) := by
  unfold execRoute
  repeat' first | with_reducible exact completes_next _ | split | dsimp only

theorem execCombine_completes (t s) : Completes (execCombine t s) := by
  unfold execCombine
  repeat' first | with_reducible exact completes_next _ | split | dsimp only

theorem execAbandon_completes (t s) : Completes (execAbandon t s) := by
  unfold execAbandon
  repeat' first | with_reducible exact completes_next _ | split | dsimp only

theorem execKvAppend_completes (t s) : Completes (execKvAppend t s) := by
  unfold execKvAppend
  repeat' first | with_reducible exact completes_next _ | split

theorem execKvRecvOpen_completes (t s) : Completes (execKvRecvOpen t s) := by
  unfold execKvRecvOpen
  repeat' first | with_reducible exact completes_next _ | split

theorem execWindowCloseComplete_completes (ctx tag s) : Completes (execWindowCloseComplete ctx tag s) := by
  unfold execWindowCloseComplete
  repeat' first | with_reducible exact completes_next _ | split

theorem execIntAddOperand_completes (t queue checkFault s) : Completes (execIntAddOperand t queue checkFault s) := by
  unfold execIntAddOperand
  repeat' first | with_reducible exact completes_next _ | split | dsimp only

theorem execHbmPatrol_completes (k channel unit upsets s) : Completes (execHbmPatrol k channel unit upsets s) := by
  unfold execHbmPatrol
  repeat' first | with_reducible exact completes_next _ | split | dsimp only

theorem execFarWriteFailure_completes (p errorCompletion addr s) : Completes (execFarWriteFailure p errorCompletion addr s) := by
  unfold execFarWriteFailure
  repeat' first | with_reducible exact completes_next _ | split | dsimp only

theorem execLinkTraining_completes (port low high s) : Completes (execLinkTraining port low high s) := by
  unfold execLinkTraining
  repeat' first | with_reducible exact completes_next _ | split | dsimp only

theorem execLinkDown_completes (port s) : Completes (execLinkDown port s) := by
  unfold execLinkDown
  repeat' first | with_reducible exact completes_next _ | split | dsimp only

theorem execPacketInject_completes (t queue n s) : Completes (execPacketInject t queue n s) := by
  unfold execPacketInject
  repeat' first | with_reducible exact completes_next _ | split | dsimp only

theorem execTransitForward_completes (port pk s) : Completes (execTransitForward port pk s) := by
  unfold execTransitForward
  repeat' first | with_reducible exact completes_next _ | split | dsimp only

theorem execRetryLaterTimer_completes (t node s) : Completes (execRetryLaterTimer t node s) := by
  unfold execRetryLaterTimer
  repeat' first | with_reducible exact completes_next _ | split | dsimp only

theorem execResendTimeout_completes (t node s) : Completes (execResendTimeout t node s) := by
  unfold execResendTimeout
  repeat' first | with_reducible exact completes_next _ | split | dsimp only

theorem execFlowForget_completes (sender t node cls s) : Completes (execFlowForget sender t node cls s) := by
  unfold execFlowForget
  repeat' first | with_reducible exact completes_next _ | split

theorem execLinkStateNotice_completes (m port up s) : Completes (execLinkStateNotice m port up s) := by
  unfold execLinkStateNotice
  repeat' first | with_reducible exact completes_next _ | split

theorem execGenerationNotice_completes (m job part gen s) : Completes (execGenerationNotice m job part gen s) := by
  unfold execGenerationNotice
  repeat' first | with_reducible exact completes_next _ | split

theorem execBarrierArrivalForward_completes (m job ident tgen s) : Completes (execBarrierArrivalForward m job ident tgen s) := by
  unfold execBarrierArrivalForward
  repeat' first | with_reducible exact completes_next _ | split

theorem execBarrierCompletion_completes (m job ident broken s) : Completes (execBarrierCompletion m job ident broken s) := by
  unfold execBarrierCompletion
  repeat' first | with_reducible exact completes_next _ | split

theorem execBarrierTimeout_completes (ctx ident s) : Completes (execBarrierTimeout ctx ident s) := by
  unfold execBarrierTimeout
  repeat' first | with_reducible exact completes_next _ | split

theorem execTimeExchange_completes (s) : Completes (execTimeExchange s) := by
  unfold execTimeExchange
  repeat' first | with_reducible exact completes_next _ | split | dsimp only

theorem execTimeExchangeReply_completes (m t2 t3 t4 s) : Completes (execTimeExchangeReply m t2 t3 t4 s) := by
  unfold execTimeExchangeReply
  repeat' first | with_reducible exact completes_next _ | split

theorem execTimeAheadNotice_completes (m count s) : Completes (execTimeAheadNotice m count s) := by
  unfold execTimeAheadNotice
  repeat' first | with_reducible exact completes_next _ | split

theorem execCheckPeerExchange_completes (offset s) : Completes (execCheckPeerExchange offset s) := by
  unfold execCheckPeerExchange
  repeat' first | with_reducible exact completes_next _ | split

theorem execGovernorEvaluation_completes (part predicted s) : Completes (execGovernorEvaluation part predicted s) := by
  unfold execGovernorEvaluation
  repeat' first | with_reducible exact completes_next _ | split

theorem execEfficiencyMeasurement_completes (q best s) : Completes (execEfficiencyMeasurement q best s) := by
  unfold execEfficiencyMeasurement
  repeat' first | with_reducible exact completes_next _ | split | dsimp only

theorem execPowerLimiterStep_completes (s) : Completes (execPowerLimiterStep s) := by
  unfold execPowerLimiterStep
  repeat' first | with_reducible exact completes_next _ | split | dsimp only

theorem execThermalLimiterStep_completes (q temp s) : Completes (execThermalLimiterStep q temp s) := by
  unfold execThermalLimiterStep
  repeat' first | with_reducible exact completes_next _ | split | dsimp only

theorem execThermtrip_completes (sensor s) : Completes (execThermtrip sensor s) := by
  unfold execThermtrip
  repeat' first | with_reducible exact completes_next _ | split

theorem execRegulatorWindow_completes (q retention code forNs s) : Completes (execRegulatorWindow q retention code forNs s) := by
  unfold execRegulatorWindow
  repeat' first | with_reducible exact completes_next _ | split | dsimp only

theorem execHang_completes (d unit timedNs s) : Completes (execHang d unit timedNs s) := by
  unfold execHang
  repeat' first | with_reducible exact completes_next _ | split | dsimp only

theorem execCommandInterpretationResumes_completes (s) : Completes (execCommandInterpretationResumes s) := by
  unfold execCommandInterpretationResumes
  repeat' first | with_reducible exact completes_next _ | split

theorem execEpochTokenAcknowledgement_completes (m slot s) : Completes (execEpochTokenAcknowledgement m slot s) := by
  unfold execEpochTokenAcknowledgement
  repeat' first | with_reducible exact completes_next _ | split

theorem execTimeExchangeAtParent_completes (m t1 t2 s) : Completes (execTimeExchangeAtParent m t1 t2 s) := by
  unfold execTimeExchangeAtParent
  repeat' first | with_reducible exact completes_next _ | split

theorem execSourceReadReturn_completes (t queue data poison upsets s) : Completes (execSourceReadReturn t queue data poison upsets s) := by
  unfold execSourceReadReturn
  repeat' first | with_reducible exact completes_next _ | split | dsimp only
/-- A command whose meaning is `.next` of an expression completes as it stands; the others by the lemma of their meaning. -/
theorem exec_completes (c : Instr) (s : State) : Completes (exec c s) := by
  cases c with
  | memUnmap => exact execMemUnmap_completes _ _ _ _
  | memSwapOut => exact execMemSwapOut_completes _ _ _ _ _
  | signalWaitLimit => exact execSignalWaitLimit_completes _ _ _
  | configStage => exact execConfigStage_completes _ _ _ _ _
  | configSwap => exact execConfigSwap_completes _ _ _
  | configFenceTimeout => exact execConfigFenceTimeout_completes _
  | fwStage => exact execFwStage_completes _ _ _ _
  | fwActivate => exact execFwActivate_completes _ _
  | counterSnapshotLatch => exact execCounterSnapshotLatch_completes _
  | msixCoalesceTimer => exact execMsixCoalesceTimer_completes _ _
  | chipResetWrite => exact execChipResetWrite_completes _ _
  | configRequest => exact execConfigRequest_completes _ _ _ _
  | cxlMemRead => exact execCxlMemRead_completes _ _ _ _ _
  | cxlMemWrite => exact execCxlMemWrite_completes _ _ _ _ _
  | workItemStart => exact execWorkItemStart_completes _ _ _
  | frameStart => exact execFrameStart_completes _ _
  | frameDeadline => exact execFrameDeadline_completes _ _
  | workCommandComplete => exact execWorkCommandComplete_completes _ _
  | requestRerun => exact execRequestRerun_completes _ _
  | slotPreempt => exact execSlotPreempt_completes _ _
  | slotResume => exact execSlotResume_completes _ _ _
  | epochResolve => exact execEpochResolve_completes _ _
  | epochToken => exact execEpochToken_completes _ _ _ _ _ _
  | epochTokenApply => exact execEpochTokenApply_completes _ _
  | epochAckTimeout => exact execEpochAckTimeout_completes _ _
  | svcUnlisted => exact execSvcUnlisted_completes _ _ _ _ _
  | bundle => exact execBundle_completes _ _ _ _ _
  | syncWaitExpiry => exact execSyncWaitExpiry_completes _ _
  | branchResolve => exact execBranchResolve_completes _ _
  | coreStop => exact execCoreStop_completes _ _ _
  | lockstepMismatch => exact execLockstepMismatch_completes _ _ _
  | stepOperationBegin => exact execStepOperationBegin_completes _ _
  | tritStep => exact execTritStep_completes _ _ _ _
  | outlierDigitStep => exact execOutlierDigitStep_completes _ _ _ _
  | planeToken => exact execPlaneToken_completes _ _ _ _
  | checkComparison => exact execCheckComparison_completes _ _
  | blockLoad => exact execBlockLoad_completes _ _ _
  | slotCopyLoad => exact execSlotCopyLoad_completes _ _ _
  | planeBlockLoad => exact execPlaneBlockLoad_completes _ _ _
  | drainBegin => exact execDrainBegin_completes _ _ _
  | drainRow => exact execDrainRow_completes _ _ _ _ _
  | queueRowWrite => exact execQueueRowWrite_completes _ _
  | chainRunBegin => exact execChainRunBegin_completes _ _ _
  | vectorBeat => exact execVectorBeat_completes _ _ _ _
  | queueRowConsume => exact execQueueRowConsume_completes _ _
  | lookupSlotLoad => exact execLookupSlotLoad_completes _ _ _
  | transferBegin => exact execTransferBegin_completes _ _ _ _
  | elementBatch => exact execElementBatch_completes _ _ _ _ _ _
  | translationWalk => exact execTranslationWalk_completes _ _ _ _ _
  | writeAcknowledged => exact execWriteAcknowledged_completes _ _ _
  | pageSwapIn => exact execPageSwapIn_completes _ _ _ _
  | remotePortRequest => exact execRemotePortRequest_completes _ _ _ _ _ _ _
  | scrubAccess => exact execScrubAccess_completes _ _ _ _ _
  | quadReturnScrubPass => exact execQuadReturnScrubPass_completes _ _ _
  | verifyingPass => exact execVerifyingPass_completes _ _ _
  | weightReload => exact execWeightReload_completes _ _ _
  | route => exact execRoute_completes _ _
  | combine => exact execCombine_completes _ _
  | abandon => exact execAbandon_completes _ _
  | kvAppend => exact execKvAppend_completes _ _
  | kvRecvOpen => exact execKvRecvOpen_completes _ _
  | windowCloseComplete => exact execWindowCloseComplete_completes _ _ _
  | intAddOperand => exact execIntAddOperand_completes _ _ _ _
  | hbmPatrol => exact execHbmPatrol_completes _ _ _ _ _
  | farWriteFailure => exact execFarWriteFailure_completes _ _ _ _
  | linkTraining => exact execLinkTraining_completes _ _ _ _
  | linkDown => exact execLinkDown_completes _ _
  | packetInject => exact execPacketInject_completes _ _ _ _
  | transitForward => exact execTransitForward_completes _ _ _
  | retryLaterTimer => exact execRetryLaterTimer_completes _ _ _
  | resendTimeout => exact execResendTimeout_completes _ _ _
  | flowForget => exact execFlowForget_completes _ _ _ _ _
  | linkStateNotice => exact execLinkStateNotice_completes _ _ _ _
  | generationNotice m job part gen => exact execGenerationNotice_completes m job part gen s
  | barrierArrivalForward => exact execBarrierArrivalForward_completes _ _ _ _ _
  | barrierCompletion => exact execBarrierCompletion_completes _ _ _ _ _
  | barrierTimeout => exact execBarrierTimeout_completes _ _ _
  | timeExchange => exact execTimeExchange_completes _
  | timeExchangeReply => exact execTimeExchangeReply_completes _ _ _ _ _
  | timeAheadNotice => exact execTimeAheadNotice_completes _ _ _
  | checkPeerExchange => exact execCheckPeerExchange_completes _ _
  | governorEvaluation => exact execGovernorEvaluation_completes _ _ _
  | efficiencyMeasurement => exact execEfficiencyMeasurement_completes _ _ _
  | powerLimiterStep => exact execPowerLimiterStep_completes _
  | thermalLimiterStep => exact execThermalLimiterStep_completes _ _ _
  | thermtrip => exact execThermtrip_completes _ _
  | regulatorWindow => exact execRegulatorWindow_completes _ _ _ _ _
  | hang => exact execHang_completes _ _ _ _
  | commandInterpretationResumes => exact execCommandInterpretationResumes_completes _
  | epochTokenAcknowledgement => exact execEpochTokenAcknowledgement_completes _ _ _
  | timeExchangeAtParent => exact execTimeExchangeAtParent_completes _ _ _ _
  | sourceReadReturn => exact execSourceReadReturn_completes _ _ _ _ _ _
  | _ => exact completes_next _


/-! ### The queue of commands and the two stop pins -/

/-- What a JTAG instruction leaves of the pins. -/
theorem exec_jtag_pins {c : Instr} (hj : c = .jtagExtest ∨ c = .jtagIdcode ∨ (∃ code, c = .jtagBypass code) ∨
    ∃ ps preload, c = .jtagSamplePreload ps preload) {s r : State} (e : exec c s = .next r) :
    r.pending = s.pending ∧ r.pins.faultN = s.pins.faultN ∧ r.pins.thermtripN = s.pins.thermtripN := by
  obtain rfl | rfl | ⟨code, rfl⟩ | ⟨ps, preload, rfl⟩ := hj
  · obtain ⟨hq, _, hf, ht, _⟩ := execJtagExtest_pins s r e
    exact ⟨hq, hf, ht⟩
  · obtain ⟨hq, _, hf, ht, _⟩ := execJtagIdcode_pins s r e
    exact ⟨hq, hf, ht⟩
  · obtain ⟨hq, _, hf, ht, _⟩ := execJtagBypass_pins code s r e
    exact ⟨hq, hf, ht⟩
  · obtain ⟨hq, _, hf, ht, _⟩ := execJtagSamplePreload_pins ps preload s r e
    exact ⟨hq, hf, ht⟩

/-- Every command but the removal of the supplies keeps the queue, and raises neither FAULT_N nor THERMTRIP_N (R413, R429). -/
theorem exec_stop {c : Instr} (hc : c ≠ .supplyRemoval) {s r : State} (e : exec c s = .next r) :
    r.pending = s.pending ∧ (s.pins.faultN = false → r.pins.faultN = false) ∧
      (s.pins.thermtripN = false → r.pins.thermtripN = false) := by
  by_cases hl : c.Latches
  · cases hl with
    | supplyRemoval => exact absurd rfl hc
    | suppliesApplied a b =>
      obtain ⟨hq, hp | hp⟩ := execSuppliesApplied_pins a b s r e <;> rw [hp] <;> exact ⟨hq, id, id⟩
    | jtagExtest =>
      obtain ⟨hq, hf, ht⟩ := exec_jtag_pins (.inl rfl) e
      exact ⟨hq, hf.trans, ht.trans⟩
    | jtagIdcode =>
      obtain ⟨hq, hf, ht⟩ := exec_jtag_pins (.inr (.inl rfl)) e
      exact ⟨hq, hf.trans, ht.trans⟩
    | jtagBypass code =>
      obtain ⟨hq, hf, ht⟩ := exec_jtag_pins (.inr (.inr (.inl ⟨code, rfl⟩))) e
      exact ⟨hq, hf.trans, ht.trans⟩
    | jtagSamplePreload ps preload =>
      obtain ⟨hq, hf, ht⟩ := exec_jtag_pins (.inr (.inr (.inr ⟨ps, preload, rfl⟩))) e
      exact ⟨hq, hf.trans, ht.trans⟩
  · obtain ⟨hq, _, _, hf, ht⟩ := exec_steady hl e
    exact ⟨hq, fun h => Bool.eq_false_iff.2 fun k => Bool.false_ne_true (h.symm.trans (hf k)),
      fun h => Bool.eq_false_iff.2 fun k => Bool.false_ne_true (h.symm.trans (ht k))⟩

theorem queueKept : Says.queueKept := by
  intro c s t e
  by_cases hc : c = .supplyRemoval
  · subst hc
    exact (execSupplyRemoval_pins s t e).1
  · exact (exec_stop hc e).1

/-- Settles O46: no arm of `exec` faults or refuses, and no meaning writes the queue. -/
theorem everyCommandCompletes : Obligations.EveryCommandCompletes := ⟨exec_completes, queueKept⟩

/-! ### A package that has asserted FAULT_N or THERMTRIP_N (R413, R429) -/

theorem stopPinsLatched : Says.stopPinsLatched := by
  intro s t hr e
  rcases step_cases e with ⟨_, rfl⟩ | ⟨c, q, hp, ec⟩
  · rw [(State.tick_outer s).1]
    exact ⟨id, id⟩
  · have hc : c ≠ .supplyRemoval := by
      rintro rfl
      exact hr (by rw [hp, List.head?_cons])
    exact (exec_stop (s := { s with pending := q }) hc ec).2

theorem State.live_eq_false_iff {s : State} : s.live = false ↔ s.pins.faultN = false ∨ s.pins.thermtripN = false := by
  rw [State.live, Bool.and_eq_false_iff]

theorem State.mayTake_of_not_live {s : State} (h : s.live = false) (p : Pkt) : s.mayTake p = false := by
  simp [State.mayTake, h]

/-- A command that the steward may not take has no effect (R287, R290). -/
theorem State.host_of_not_mayTake {s : State} {h : Pkt} (hm : s.mayTake h = false) (d work ok : Bool)
    (body : Nat → State → State) : s.host h d work ok body = s := by
  simp [State.host, hm]

theorem State.reply_of_not_live {s : State} (hl : s.live = false) (h : Pkt) (st : Status) (r0 r1 : Nat) :
    s.reply h st r0 r1 = s := by
  simp [State.reply, State.replyLate, hl]

theorem stoppedTakesNothing : Says.stoppedTakesNothing := by
  intro h st r0 r1 s hp
  have hl : s.live = false := State.live_eq_false_iff.2 hp
  have host (d work ok : Bool) (body : Nat → State → State) :
      (.next (s.host h d work ok body) : Host.Outcome State Fault Refusal) = .next s :=
    congrArg _ (State.host_of_not_mayTake (State.mayTake_of_not_live hl h) d work ok body)
  exact ⟨host _ _ _ _, host _ _ _ _, host _ _ _ _, host _ _ _ _, host _ _ _ _, ite_holds (· = _) rfl (host _ _ _ _),
    State.reply_of_not_live hl h st r0 r1⟩

/-- Settles O48: of the commands only the removal of the supplies raises a stop pin, and a package that is not live takes nothing. -/
theorem stopPinsStay : Obligations.StopPinsStay := ⟨stopPinsLatched, stoppedTakesNothing⟩

/-! ### The step, and the state at reset -/

/-- Settles O1: `step` reads the queue and calls `exec`. -/
theorem stepTakesTheFrontCommand : Obligations.StepTakesTheFrontCommand := by
  intro c r s h
  rw [step, h]

theorem step_of_empty {s : State} (h : s.pending = []) : step s = .next s.tick := by
  rw [step, h]

theorem Clock.tick_now_of_aligned {c : Clock} (h : c.slew = 0) : c.tick.now = c.now + 1 := by
  simp [Clock.tick, h]

/-- Settles O2: a step on an empty queue is the tick, by whether the package runs. -/
theorem stepOnEmptyQueue : Obligations.StepOnEmptyQueue := by
  intro s h
  refine ⟨fun hr => ?_, fun hr => ?_, Clock.tick_now_of_aligned⟩ <;> rw [step_of_empty h, State.tick, hr]
  · rfl
  · rfl

theorem State.tile_reset (t : Nat) : State.reset.tile t = Tile.reset := rfl

/-- Settles O3: every tile reads as `Tile.reset`, and the rest is `State.reset` as it is written. -/
theorem resetState : Obligations.ResetState := by
  refine ⟨fun t n l k => ?_, fun t set e => ?_, rfl, rfl, rfl, rfl, rfl, fun t e => ?_, fun t => ⟨rfl, rfl⟩, rfl, rfl, rfl, rfl,
    rfl, rfl, rfl, rfl, rfl, (by decide : _ < 4 ∧ _ < 4)⟩
  · rw [State.tile_reset]
    exact ⟨rfl, rfl⟩
  · rw [State.tile_reset, Tile.row]
    split_ifs <;> rfl
  · rw [State.tile_reset, Tile.tk]
    split_ifs <;> rfl

end Sys2Proof.Machine

/-! Proofs for the arithmetic of the array and of the integer reductions: sums of products, check values, sums in any order. -/

namespace Sys2Proof

/-! ### Sums over ranges -/

/-- A sum over `m * n` places, by `m` blocks of `n`. -/
theorem sum_range_mul (f : Nat → Int) (n : Nat) : ∀ m, ((List.range (m * n)).map f).sum =
    ((List.range m).map (fun k => ((List.range n).map (fun i => f (n * k + i))).sum)).sum
  | 0 => by simp
  | m + 1 => by
    rw [Nat.succ_mul, List.range_add, List.map_append, List.sum_append, sum_range_mul f n m, List.sum_range_succ, List.map_map,
      Nat.mul_comm m n]
    rfl

theorem sum_range_congr {f g : Nat → Int} {n : Nat} (h : ∀ i < n, f i = g i) :
    ((List.range n).map f).sum = ((List.range n).map g).sum :=
  congrArg List.sum (List.map_congr_left fun i hi => h i (List.mem_range.1 hi))

theorem sum_range_mul_right (f : Nat → Int) (c : Int) (n : Nat) :
    ((List.range n).map (fun i => f i * c)).sum = ((List.range n).map f).sum * c := by
  rw [List.sum_map_mul_right]

theorem sum_range_add (f g : Nat → Int) (n : Nat) :
    ((List.range n).map (fun i => f i + g i)).sum = ((List.range n).map f).sum + ((List.range n).map g).sum := by
  rw [List.sum_map_add]

theorem sum_range_sub (f g : Nat → Int) : ∀ n,
    ((List.range n).map (fun i => f i - g i)).sum = ((List.range n).map f).sum - ((List.range n).map g).sum
  | 0 => rfl
  | n + 1 => by
    simp only [List.sum_range_succ, sum_range_sub f g n]
    ring

theorem sum_range_comm (f : Nat → Nat → Int) (m : Nat) : ∀ n,
    ((List.range m).map (fun i => ((List.range n).map (f i)).sum)).sum =
      ((List.range n).map (fun j => ((List.range m).map (fun i => f i j)).sum)).sum
  | 0 => by simp
  | n + 1 => by
    simp only [List.sum_range_succ, sum_range_add, sum_range_comm f m n]

namespace Machine

/-! ### The trit step (R65, R67) -/

/-- A lane's trit step as the sum of its forty products. -/
theorem tritLane_eq_sum (v : Slot) (a : Nat → Int) (l : Nat) (hv : ∀ k < 8, v.byte l k ≤ 242) :
    tritLane v a l = ((List.range 40).map (fun i => v.trit l i * a i)).sum := by
  rw [tritLane, show 40 = 8 * 5 from rfl, sum_range_mul]
  refine sum_range_congr fun k hk => (lookUp_eq_sum a k _ (hv k hk)).trans (sum_range_congr fun i hi => ?_)
  have hd : (5 * k + i) / 5 = k := by omega
  have hm : (5 * k + i) % 5 = i := by omega
  rw [Slot.trit, hd, hm]

/-- Settles O50: a look-up is the sum of its five products, and eight of them make up the forty. -/
theorem tritStepIsTheWeightedSum : Obligations.TritStepIsTheWeightedSum := tritLane_eq_sum

/-! ### The check values (R80, R81, R98) -/

/-- The low `n` bits of a number, each at its weight. -/
theorem sum_bits (x : Nat) : ∀ n,
    ((List.range n).map (fun j => if bit x j then ((2 ^ j : Nat) : Int) else 0)).sum = (x % 2 ^ n : Nat)
  | 0 => by simp [Nat.mod_one]
  | n + 1 => by
    rw [List.sum_range_succ, sum_bits x n, Nat.mod_pow_succ, ← Nat.toNat_testBit, bit]
    cases x.testBit n <;> simp

/-- Bits of a two's complement number, the top one negative, are its value. -/
theorem sum_signed_bits {w : Nat} {c : Int} (lo : -(2 ^ w : Nat) ≤ c) (hi : c < (2 ^ w : Nat)) :
    ((List.range w).map (fun j => if bit (wrap (w + 1) c) j then ((2 ^ j : Nat) : Int) else 0)).sum -
      (if bit (wrap (w + 1) c) w then ((2 ^ w : Nat) : Int) else 0) = c := by
  have hpow : 2 ^ (w + 1) = 2 * 2 ^ w := Nat.pow_succ'
  have hx := Nat.mod_pow_succ (x := wrap (w + 1) c) (b := 2) (k := w)
  rw [Nat.mod_eq_of_lt (wrap_lt (w + 1) c), ← Nat.toNat_testBit] at hx
  have hlow : wrap (w + 1) c % 2 ^ w < 2 ^ w := Nat.mod_lt _ (by positivity)
  rw [sum_bits, bit]
  have hw : (wrap (w + 1) c : Int) = if c < 0 then c + 2 * (2 ^ w : Nat) else c := by
    rw [wrap, hpow, Int.toNat_of_nonneg (Int.emod_nonneg _ (by positivity))]
    split_ifs with h
    · rw [← Int.add_emod_right, Int.emod_eq_of_lt (by omega) (by omega)]
      rfl
    · rw [Int.emod_eq_of_lt (by omega) (by omega)]
  generalize wrap (w + 1) c % 2 ^ w = low at *
  cases hb : (wrap (w + 1) c).testBit w
  · rw [hb, Bool.toNat_false] at hx
    rw [if_neg Bool.false_ne_true]
    split_ifs at hw <;> omega
  · rw [hb, Bool.toNat_true] at hx
    rw [if_pos rfl]
    split_ifs at hw <;> omega

/-- K is the sum of the inputs by the column sums, where these fit their width. -/
theorem checkK_eq_sum {w : Nat} {c a : Nat → Int} (h : ∀ i < 40, -(2 ^ w : Nat) ≤ c i ∧ c i < (2 ^ w : Nat)) :
    checkK (w + 1) c a = ((List.range 40).map (fun i => c i * a i)).sum := by
  have term (j : Nat) : ((List.range 40).map (fun i => if bit (wrap (w + 1) (c i)) j then a i else 0)).sum * ((2 ^ j : Nat) : Int) =
      ((List.range 40).map (fun i => (if bit (wrap (w + 1) (c i)) j then ((2 ^ j : Nat) : Int) else 0) * a i)).sum := by
    rw [← sum_range_mul_right]
    refine sum_range_congr fun i _ => ?_
    split_ifs
    · exact Int.mul_comm _ _
    · simp
  have low : ((List.range w).map (fun j =>
      let s := ((List.range 40).map (fun i => if bit (wrap (w + 1) (c i)) j then a i else 0)).sum * (2 ^ j : Nat)
      if j + 1 = w + 1 then -s else s)).sum = ((List.range w).map (fun j =>
        ((List.range 40).map (fun i => (if bit (wrap (w + 1) (c i)) j then ((2 ^ j : Nat) : Int) else 0) * a i)).sum)).sum :=
    sum_range_congr fun j hj => (if_neg (by omega)).trans (term j)
  rw [checkK, List.sum_range_succ, low, sum_range_comm, if_pos rfl, term, ← sub_eq_add_neg, ← sum_range_sub]
  refine sum_range_congr fun i hi => ?_
  rw [sum_range_mul_right, ← sub_mul, sum_signed_bits (h i hi).1 (h i hi).2]

theorem get_colSums (wt : Nat → Nat → Int) {n : Nat} (h : n < 320) :
    NMap.get 0 (colSums wt) n = ((List.range 128).map (fun l => wt (128 * (n / 40) + l) (n % 40))).sum := by
  rw [colSums, NMap.get_tab, if_pos ⟨Nat.zero_le n, by omega⟩]

/-- The column sum of a group is the sum of the weights of its lanes. -/
theorem colSum_eq_sum {v : Slot} (hv : v.sums = colSums (fun l i => v.trit l i)) {gs n g i : Nat} (hn : gs * n = 8)
    (hg : g < gs) (hi : i < 40) :
    v.colSum g gs i = ((List.range (n * 128)).map (fun l => v.trit (g * (n * 128) + l) i)).sum := by
  have hgs : 0 < gs := by omega
  have hdiv : 8 / gs = n := by rw [← hn, Nat.mul_div_cancel_left n hgs]
  rw [Slot.colSum, hdiv, hv, sum_range_mul]
  refine sum_range_congr fun h hh => ?_
  have hb : g * n + n ≤ 8 := by
    rw [← hn, ← Nat.succ_mul]
    exact Nat.mul_le_mul_right n hg
  have hq : (40 * (g * n + h) + i) / 40 = g * n + h := by omega
  have hr : (40 * (g * n + h) + i) % 40 = i := by omega
  rw [get_colSums _ (by omega), hq, hr]
  refine sum_range_congr fun l _ => ?_
  congr 1
  ring

theorem natAbs_slot_trit_le (v : Slot) (l i : Nat) : (v.trit l i).natAbs ≤ 1 := natAbs_trit_le_one _ _

/-- K equals L in a group: both are the forty inputs by the sums of the group's weights. -/
theorem checkK_eq_laneSum {v : Slot} (hb : ∀ l < 1024, ∀ k < 8, v.byte l k ≤ 242)
    (hv : v.sums = colSums (fun l i => v.trit l i)) {gs n g : Nat} (hn : gs * n = 8) (hg : g < gs) (a : Nat → Int) :
    checkK 12 (v.colSum g gs) a = ((List.range (n * 128)).map (fun l => tritLane v a (g * (n * 128) + l))).sum := by
  have hlane : g * (n * 128) + n * 128 ≤ 1024 := by
    have : (g + 1) * (n * 128) ≤ gs * (n * 128) := Nat.mul_le_mul_right _ hg
    rw [← Nat.mul_assoc gs, hn] at this
    rw [← Nat.succ_mul]
    exact this
  have hfit (i : Nat) (hi : i < 40) : -(2 ^ 11 : Nat) ≤ v.colSum g gs i ∧ v.colSum g gs i < (2 ^ 11 : Nat) := by
    have := natAbs_sum_range_le (fun l => v.trit (g * (n * 128) + l) i) 1 (n * 128) fun l _ => natAbs_slot_trit_le v _ i
    rw [← colSum_eq_sum hv hn hg hi] at this
    omega
  rw [checkK_eq_sum hfit]
  have hlanes : ((List.range (n * 128)).map (fun l => tritLane v a (g * (n * 128) + l))).sum =
      ((List.range (n * 128)).map (fun l => ((List.range 40).map (fun i => v.trit (g * (n * 128) + l) i * a i)).sum)).sum :=
    sum_range_congr fun l hl => tritLane_eq_sum v a _ (hb _ (by omega))
  rw [hlanes, sum_range_comm]
  refine sum_range_congr fun i hi => ?_
  rw [sum_range_mul_right, colSum_eq_sum hv hn hg hi]

/-- The group counts of R94 divide the eight eighths. -/
theorem groups_mul_eq {gs : Nat} (h : gs = 1 ∨ gs = 2 ∨ gs = 4 ∨ gs = 8) : gs * (8 / gs) = 8 ∧ 1024 / gs = 8 / gs * 128 := by
  obtain rfl | rfl | rfl | rfl := h <;> decide

/-- Settles O51: K and L are the same double sum of weights times inputs, summed by inputs and by lanes. -/
theorem checksAgreeWithoutFaults : Obligations.ChecksAgreeWithoutFaults := by
  intro v gs a hgs hb hv
  obtain ⟨hn, hlanes⟩ := groups_mul_eq hgs
  rw [List.all_eq_true]
  intro p hp
  obtain ⟨g, hg, rfl⟩ := List.mem_map.1 hp
  rw [decide_eq_true_eq]
  dsimp only
  rw [hlanes, checkK_eq_laneSum hb hv hn (List.mem_range.1 hg)]
  refine sum_range_congr fun l hl => ?_
  have hg' : (g * (8 / gs * 128) + l) / (8 / gs * 128) = g := by
    rw [Nat.mul_comm, Nat.mul_add_div (by omega), Nat.div_eq_of_lt hl, Nat.add_zero]
  rw [hg']

/-! ### Integer sums (R115, R346) -/

theorem addBytes_length (a b : List Byte) : (addBytes a b).length = a.length := leBytes_length _ _

theorem leVal_addBytes (a b : List Byte) : leVal (addBytes a b) = (leVal a + leVal b) % 256 ^ a.length := by
  rw [addBytes, leVal_leBytes, Nat.mod_mod]

/-- Bytes of one length are the same when their values are. -/
theorem leBytes_leVal (bs : List Byte) : leBytes bs.length (leVal bs) = bs := by
  induction bs with
  | nil => rfl
  | cons b bs ih =>
    have hb := b.isLt
    have hq : (b.toNat + 256 * leVal bs) / 256 = leVal bs := by omega
    have hr : BitVec.ofNat 8 (b.toNat + 256 * leVal bs) = b := BitVec.eq_of_toNat_eq (by rw [BitVec.toNat_ofNat]; omega)
    rw [List.length_cons, leVal, leBytes, hq, hr, ih]

theorem foldl_addBytes_length (xs : List (List Byte)) : ∀ d, (xs.foldl addBytes d).length = d.length := by
  induction xs with
  | nil => exact fun _ => rfl
  | cons x xs ih => exact fun d => (ih _).trans (addBytes_length d x)

/-- The partials of one width added to a destination, in value. -/
theorem leVal_foldl_addBytes (xs : List (List Byte)) :
    ∀ d, leVal (xs.foldl addBytes d) = (leVal d + (xs.map leVal).sum) % 256 ^ d.length := by
  induction xs with
  | nil => exact fun d => (Nat.mod_eq_of_lt (leVal_lt d)).symm
  | cons x xs ih =>
    intro d
    rw [List.foldl_cons, ih, addBytes_length, leVal_addBytes, Nat.mod_add_mod, List.map_cons, List.sum_cons, Nat.add_assoc]

theorem integerSums : Says.integerSums := by
  rintro n d xs ys rfl _ hp
  have hx := leVal_foldl_addBytes xs d
  have hy := leVal_foldl_addBytes ys d
  rw [← (hp.map leVal).sum_eq, ← hx] at hy
  refine ⟨?_, hx, fun h => hx.trans (Nat.mod_eq_of_lt h)⟩
  rw [← leBytes_leVal (xs.foldl addBytes d), ← leBytes_leVal (ys.foldl addBytes d), hy, foldl_addBytes_length,
    foldl_addBytes_length]

/-- Settles O54: the fold's value is the sum modulo the width, and bytes are their value; the mark of the sum is in `applyAdd`. -/
theorem integerSumsAnyOrder : Obligations.IntegerSumsAnyOrder := ⟨integerSums, fun _ _ _ _ _ => rfl⟩

end Machine
end Sys2Proof

/-! Proofs of what shared operations leave unchanged: the result of an instruction, scratchpad writes, replies, events, and the
counts of the capacity pass. -/

namespace Sys2Proof.Machine

/-! ### A register written (R140) -/

/-- A bit of a number replaced: the bits below stay in `p % 2 ^ i`, those above in `p / 2 ^ i / 2`. -/
theorem replaceBit_eq (p i : Nat) (v : Bool) : (if bit p i then p - 2 ^ i else p) + (if v then 2 ^ i else 0) =
    2 ^ i * (2 * (p / 2 ^ i / 2) + v.toNat) + p % 2 ^ i := by
  have hp := Nat.div_add_mod p (2 ^ i)
  have hq := Nat.div_add_mod (p / 2 ^ i) 2
  rw [← Nat.toNat_testBit] at hq
  rw [bit, Nat.mul_add]
  generalize p / 2 ^ i / 2 = q at *
  cases hb : p.testBit i <;> rw [hb] at hq <;> simp only [Bool.toNat_true, Bool.toNat_false, Nat.add_zero] at hq <;>
    rw [← hq] at hp <;> cases v <;>
    simp only [Bool.false_eq_true, if_false, if_true, Bool.toNat_true, Bool.toNat_false, Nat.mul_add, Nat.mul_one] at hp ⊢ <;> omega

theorem bit_replaceBit (p i j : Nat) (v : Bool) : bit ((if bit p i then p - 2 ^ i else p) + (if v then 2 ^ i else 0)) j =
    if j = i then v else bit p j := by
  have hlow := Nat.mod_lt p (Nat.two_pow_pos i)
  have hp : bit p j = bit (2 ^ i * (p / 2 ^ i) + p % 2 ^ i) j := by rw [Nat.div_add_mod]
  rw [replaceBit_eq, hp, bit, bit, Nat.testBit_two_pow_mul_add _ hlow, Nat.testBit_two_pow_mul_add _ hlow]
  obtain h | rfl | h := Nat.lt_trichotomy j i
  · rw [if_pos h, if_pos h, if_neg (by omega)]
  · rw [if_neg (Nat.lt_irrefl j), if_pos rfl, Nat.sub_self, Nat.testBit_zero]
    cases v <;> simp
  · obtain ⟨k, rfl⟩ := Nat.exists_eq_add_of_lt h
    have hk : i + k + 1 - i = k + 1 := by omega
    rw [if_neg (by omega), if_neg (by omega), if_neg (by omega), hk, Nat.testBit_succ, Nat.testBit_succ]
    congr 1
    cases v <;> simp only [Bool.toNat_true, Bool.toNat_false] <;> omega

theorem Core.rg_wr (c : Core) (d : Dst) (v i : Nat) :
    (c.wr d v).rg i = if d = .g i ∧ i ≠ 0 then v % 2 ^ 64 else c.rg i := by
  cases d with
  | f j => simp [Core.wr, Core.rg]
  | p j => simp only [Core.wr]; split <;> simp [Core.rg]
  | g j =>
    obtain rfl | hj := eq_or_ne j 0
    · obtain rfl | hi := eq_or_ne i 0 <;> simp [Core.wr, *, Ne.symm]
    · obtain rfl | hij := eq_or_ne j i
      · simp [Core.wr, Core.rg, hj]
      · simp [Core.wr, Core.rg, hj, hij, NMap.get_set_ne]

theorem Core.rf_wr (c : Core) (d : Dst) (v i : Nat) : (c.wr d v).rf i = if d = .f i then v % 2 ^ 32 else c.rf i := by
  cases d with
  | g j | p j => simp only [Core.wr]; split <;> simp [Core.rf]
  | f j =>
    obtain rfl | hij := eq_or_ne j i
    · simp [Core.wr, Core.rf]
    · simp [Core.wr, Core.rf, hij, NMap.get_set_ne]

theorem Core.rp_wr (c : Core) (d : Dst) (v i : Nat) :
    (c.wr d v).rp i = if d = .p i ∧ i ≠ 0 then decide (v % 2 = 1) else c.rp i := by
  cases d with
  | f j => simp [Core.wr, Core.rp]
  | g j => simp only [Core.wr]; split <;> simp [Core.rp]
  | p j =>
    obtain rfl | hj := eq_or_ne j 0
    · obtain rfl | hi := eq_or_ne i 0 <;> simp [Core.wr, *, Ne.symm]
    · obtain rfl | hi := eq_or_ne i 0
      · simp [Core.rp]
      · have h := bit_replaceBit c.p j i (decide (v % 2 = 1))
        simp only [decide_eq_true_eq] at h
        simp only [Core.wr, Core.rp, hj, hi, if_false, h, Dst.p.injEq, eq_comm (a := i), ne_eq, not_false_eq_true, and_true]

theorem Core.wr_of_fixed {d : Dst} (h : dstFixed d = true) (c : Core) (v : Nat) : c.wr d v = c := by
  cases d with
  | f i => cases h
  | g i | p i => exact if_pos (of_decide_eq_true h)

theorem Core.wr_pend (c : Core) (pend : List Pend) (d : Dst) (v : Nat) :
    Core.wr { c with pend := pend } d v = { c.wr d v with pend := pend } := by
  cases d with
  | f i => rfl
  | g i | p i => simp only [Core.wr]; split <;> rfl

/-- A result that is at hand is written to its register; beside it only the list of pending results changes. -/
theorem Core.result_now (c : Core) (d : Dst) (v : Nat) :
    ∃ pend, c.result false [] d v = { c.wr d v with pend := pend } := by
  simp only [Core.result]
  split
  case isTrue h => exact ⟨_, by rw [Core.wr_of_fixed h]⟩
  case isFalse => exact ⟨_, Core.wr_pend c _ d v⟩

@[simp] theorem Core.wr_frame (c : Core) (d : Dst) (v : Nat) : (c.wr d v).sticky = c.sticky ∧
    (c.wr d v).runahead = c.runahead ∧ (c.wr d v).istore = c.istore := by
  obtain ⟨g, f, p, h⟩ := c.wr_eq d v
  rw [h]
  exact ⟨rfl, rfl, rfl⟩

/-- Settles O53: the result of a plain core is one register write and the commit, and both are changes of its core alone. -/
theorem resultFrame : Obligations.ResultFrame := by
  intro s t v d hp hr u c k
  have hu : u = s.modCore t _ := State.given_of_plain hp hr false d v
  obtain ⟨pend, hres⟩ := c.result_now d v
  have hk : k = { c.wr d v with pend := pend, pc := c.pc + 4, commits := (c.wr d v).commits + 1 } := by
    simp only [k, hu, State.tile_modCore_self]
    rw [hres]
  obtain ⟨hsticky, hahead, histore⟩ := c.wr_frame d v
  refine ⟨fun i => ?g, fun i => ?f, fun i => ?p, by rw [hk]; exact hsticky, by rw [hk]; exact hahead, by rw [hk],
    by rw [hk]; exact histore, by rw [hu, State.tile_modCore_self], fun j hj => ?tile, by rw [hu]; rfl, by rw [hu]; rfl,
    by rw [hu]; rfl⟩
  case g => rw [hk]; exact c.rg_wr d v i
  case f => rw [hk]; exact c.rf_wr d v i
  case p => rw [hk]; exact c.rp_wr d v i
  case tile => rw [hu, State.tile_modCore_ne _ _ _ _ hj.symm]

/-! ### Events (R361, R394) -/

/-- An interrupt changes the port only. -/
theorem State.raiseMsix_eq (s : State) (v : Nat) : ∃ port, s.raiseMsix v = { s with port := port } := by
  unfold State.raiseMsix
  split
  · exact ⟨s.port, rfl⟩
  · split <;> exact ⟨_, rfl⟩

/-- An event changes the log and the port only. -/
theorem State.raise_eq (s : State) (e : Ev) : ∃ log port, s.raise e = { s with log := log, port := port } := by
  simp only [State.raise]
  split
  · exact ⟨_, _, rfl⟩
  split
  · exact ⟨_, _, rfl⟩
  split
  · obtain ⟨p, h⟩ := State.raiseMsix_eq { s with log := s.log.add s.clk.now e } s.log.msix
    exact ⟨_, p, h⟩
  · obtain ⟨p, h⟩ := State.raiseMsix_eq { s with log := s.log.add s.clk.now e } s.log.msix
    obtain ⟨p', h'⟩ := State.raiseMsix_eq { s with log := s.log.add s.clk.now e, port := p } s.log.msix
    exact ⟨_, p', by rw [h, h']⟩

theorem State.raiseAll_eq (es : List Ev) : ∀ s : State, ∃ log port, s.raiseAll es = { s with log := log, port := port } := by
  induction es with
  | nil => exact fun s => ⟨_, _, rfl⟩
  | cons e es ih =>
    intro s
    obtain ⟨l, p, h⟩ := s.raise_eq e
    obtain ⟨l', p', h'⟩ := ih (s.raise e)
    exact ⟨l', p', by rw [State.raiseAll, List.foldl_cons, ← State.raiseAll, h', h]⟩

/-! ### Scratchpad bytes (R184 to R188) -/

/-- The bytes of every scratchpad and the other memories are the same in both states. -/
def State.SameBytes (s u : State) : Prop := (∀ j, (u.tile j).sp = (s.tile j).sp) ∧ u.mem = s.mem

theorem State.SameBytes.refl (s : State) : s.SameBytes s := ⟨fun _ => rfl, rfl⟩

theorem State.SameBytes.trans {s u v : State} (h : s.SameBytes u) (k : u.SameBytes v) : s.SameBytes v :=
  ⟨fun j => (k.1 j).trans (h.1 j), k.2.trans h.2⟩

theorem State.SameBytes.setTile {s : State} {t : Nat} {x : Tile} (h : x.sp = (s.tile t).sp) : s.SameBytes (s.setTile t x) := by
  refine ⟨fun j => ?_, rfl⟩
  obtain rfl | hj := eq_or_ne t j
  · rw [State.tile_setTile_self, h]
  · rw [State.tile_setTile_ne _ _ _ _ hj]

theorem State.SameBytes.raise (s : State) (e : Ev) : s.SameBytes (s.raise e) := by
  obtain ⟨l, p, h⟩ := s.raise_eq e
  rw [h]
  exact ⟨fun _ => rfl, rfl⟩

theorem State.SameBytes.raiseAll (s : State) (es : List Ev) : s.SameBytes (s.raiseAll es) := by
  obtain ⟨l, p, h⟩ := State.raiseAll_eq es s
  rw [h]
  exact ⟨fun _ => rfl, rfl⟩

theorem State.SameBytes.markReload (s : State) (t cell : Nat) : s.SameBytes (s.markReload t cell) := by
  simp only [State.markReload]
  split
  · exact .refl s
  · have hset := State.SameBytes.setTile (s := s) (t := t)
      (x := { s.tile t with reload := insertNat (s.tile t).reload (cell / 4096) }) rfl
    split
    · exact hset
    · exact hset.trans (.raiseAll _ _)

theorem CellRead.cell_sp (r : CellRead) (c : Nat) : (r.cell c).tile.sp = r.tile.sp := by
  simp only [CellRead.cell]
  split
  · rfl
  · split <;> rfl

theorem CellRead.foldl_cell_sp (cs : List Nat) : ∀ r : CellRead, (cs.foldl CellRead.cell r).tile.sp = r.tile.sp := by
  induction cs with
  | nil => exact fun _ => rfl
  | cons c cs ih => exact fun r => (ih _).trans (r.cell_sp c)

theorem State.SameBytes.foldl {α : Type} {f : State → α → State} (h : ∀ (s : State) a, s.SameBytes (f s a)) (l : List α) :
    ∀ s : State, s.SameBytes (l.foldl f s) := by
  induction l with
  | nil => exact .refl
  | cons a l ih => exact fun s => (h s a).trans (ih _)

theorem State.SameBytes.afterRead {s : State} {t : Nat} {r : CellRead} (h : r.tile.sp = (s.tile t).sp) (scrub : Bool) :
    s.SameBytes (s.afterRead t r scrub) := by
  refine ((State.SameBytes.setTile h).trans (.raiseAll _ _)).trans (.foldl ?_ _ _)
  exact fun s c => (State.SameBytes.raise s _).trans (.markReload _ t c)

theorem State.SameBytes.countSp (s : State) (t a n : Nat) (w : Bool) : s.SameBytes (s.countSp t a n w) := by
  simp only [State.countSp]
  (repeat' split) <;> exact ⟨fun _ => rfl, rfl⟩

/-- A write to a scratchpad, up to what its cells' marks and the counters become. -/
theorem State.spWrite_bytes (s : State) (t a : Nat) (bs : List Byte) (p : Bool) :
    ((s.spWrite t a bs p).tile t).sp = Bytes.wr (s.tile t).sp a bs ∧
      (∀ j, j ≠ t → ((s.spWrite t a bs p).tile j).sp = (s.tile j).sp) ∧ (s.spWrite t a bs p).mem = s.mem := by
  unfold State.spWrite
  extract_lets cs r
  obtain ⟨hsp, hmem⟩ := State.SameBytes.afterRead (s := s) (t := t) (r := r) (CellRead.foldl_cell_sp _ _) false
  obtain ⟨csp, cmem⟩ := State.SameBytes.countSp ((s.afterRead t r false).modTile t fun x => x.storeBytes a bs p) t a bs.length true
  refine ⟨?_, fun j hj => ?_, cmem.trans hmem⟩
  · rw [csp, State.tile_modTile_self, Tile.storeBytes, hsp]
  · rw [csp, State.tile_modTile_ne _ _ _ _ hj.symm, hsp]

/-- Settles O55: the bytes are `Bytes.wr`, whatever the reads of partly written cells find. -/
theorem scratchpadWrites : Obligations.ScratchpadWrites := by
  intro s t a bs p u
  obtain ⟨hsp, hother, hmem⟩ := s.spWrite_bytes t a bs p
  refine ⟨fun i h => ?_, fun c h => ?_, fun h => ?_, hother, hmem⟩ <;> rw [hsp]
  · exact Bytes.rd1_wr_inside _ _ _ _ h
  · exact Bytes.rd1_wr_outside _ _ _ _ h
  · exact Bytes.wf_wr _ _ _ h

/-! ### A reply in its ring (R287, R291) -/

theorem leAt_append_right {xs ys : List Byte} {lo : Nat} (h : xs.length ≤ lo) (n : Nat) :
    leAt (xs ++ ys) lo n = leAt ys (lo - xs.length) n := by
  rw [leAt, leAt, List.drop_append, List.drop_eq_nil_of_le h, List.nil_append]

theorem leAt_leBytes_append (n v : Nat) (ys : List Byte) : leAt (leBytes n v ++ ys) 0 n = v % 256 ^ n := by
  rw [leAt, List.drop_zero, List.take_left' (leBytes_length n v), leVal_leBytes]

theorem status_code_lt (st : Status) : st.code < 256 := by cases st <;> decide


/-- The 32 bytes of a reply that is not late, field by field (R291). -/
theorem Reply.bytes_fields (r : Reply) (hl : r.late = false) (hc : r.cmdId < 2 ^ 32) :
    r.bytes.length = 32 ∧ leVal (r.bytes.take 4) = r.cmdId ∧ leAt r.bytes 4 1 = r.status.code ∧
      leAt r.bytes 5 1 = (if r.phase then 1 else 0) ∧ leAt r.bytes 6 2 = r.sqHead % 2 ^ 16 ∧
      leAt r.bytes 8 8 = r.result0 % 2 ^ 64 ∧ leAt r.bytes 16 8 = r.result1 % 2 ^ 64 ∧ leAt r.bytes 24 8 = r.doneNs % 2 ^ 64 := by
  have hcode := status_code_lt r.status
  have hphase : (if r.phase then 1 else 0) < 256 := by cases r.phase <;> decide
  have h0 : leVal (r.bytes.take 4) = leAt r.bytes 0 4 := by rw [leAt, List.drop_zero]
  have hlast (n v : Nat) : leAt (leBytes n v) 0 n = v % 256 ^ n := by
    have := leAt_leBytes_append n v []
    rwa [List.append_nil] at this
  rw [h0]
  refine ⟨by simp [Reply.bytes], ?_, ?_, ?_, ?_, ?_, ?_, ?_⟩ <;>
    simp only [Reply.bytes, List.append_assoc, hl, leAt_append_right, leBytes_length, leAt_leBytes_append, hlast, Nat.reduceLeDiff,
      Nat.reduceSub, Bool.false_eq_true, if_false, Nat.zero_add, Nat.reducePow]
  · exact Nat.mod_eq_of_lt hc
  · exact Nat.mod_eq_of_lt hcode
  · exact Nat.mod_eq_of_lt hphase

/-- The record of a reply that is fixed now. -/
def State.replyRec (s : State) (h : Pkt) (st : Status) (r0 r1 : Nat) : Reply :=
  { cmdId := h.cmdId.toNat, status := st, late := false, phase := (s.qp h.qp.toNat).phase, sqHead := (s.qp h.qp.toNat).sqHead,
    result0 := r0 % 2 ^ 64, result1 := r1 % 2 ^ 64, doneNs := s.clk.now }

/-- The reply's record in host memory and its queue pair moved on, before any interrupt. -/
def State.replied (s : State) (h : Pkt) (r : Reply) : State :=
  (s.hostWrite ((s.qp h.qp.toNat).cqBase + 32 * (s.qp h.qp.toNat).cqTail) r.bytes false).modQp h.qp.toNat
    (fun q => (q.push r s.clk.now).answered)

theorem State.reply_host {s : State} {h : Pkt} (hl : s.live = true) (hr : (s.qp h.qp.toNat).ringHbm = false)
    (hlost : (s.qp h.qp.toNat).ringLost = false) (hf : h.replyFails = false) (st : Status) (r0 r1 : Nat) :
    s.reply h st r0 r1 =
      let u := s.replied h (s.replyRec h st r0 r1)
      if h.irq || decide ((s.qp h.qp.toNat).coalesce < (u.qp h.qp.toNat).since) then u.raiseQp h.qp.toNat else u := by
  simp only [State.reply, State.replyLate, hl, hr, hlost, hf, State.ringOk, Bool.not_true, Bool.not_false,
    Bool.or_false, Bool.and_true, Bool.false_eq_true, if_false]
  rfl

/-- A queue pair whose vector has just been raised (R289). -/
def Qp.raised (q : Qp) : Qp := { q with since := 0, oldest := none }

/-- The raising of a queue pair's vector changes its coalescing and the port only. -/
theorem State.raiseQp_eq (s : State) (n : Nat) : ∃ port,
    s.raiseQp n = { s.modQp n Qp.raised with port := port } :=
  State.raiseMsix_eq _ _

theorem Qp.answered_frame (q : Qp) : q.answered.cqTail = q.cqTail ∧ q.answered.phase = q.phase ∧ q.answered.sqHead = q.sqHead ∧
    q.answered.taken = q.taken - 1 := by
  simp only [Qp.answered]
  split <;> exact ⟨rfl, rfl, rfl, rfl⟩

theorem State.qp_raiseQp_self (s : State) (n : Nat) : (s.raiseQp n).qp n = (s.qp n).raised := by
  obtain ⟨port, h⟩ := s.raiseQp_eq n
  rw [h]
  exact State.qp_modQp_self s n Qp.raised

/-- A reply in a ring in host memory: beside the host memory, queue pairs and the port change; the pair of the reply has its
tail, phase and counts as `Qp.push` leaves them. -/
theorem State.reply_host_frame {s : State} {h : Pkt} (hl : s.live = true) (hr : (s.qp h.qp.toNat).ringHbm = false)
    (hlost : (s.qp h.qp.toNat).ringLost = false) (hf : h.replyFails = false) (st : Status) (r0 r1 : Nat) :
    ∃ qps port, s.reply h st r0 r1 = { s.hostWrite ((s.qp h.qp.toNat).cqBase + 32 * (s.qp h.qp.toNat).cqTail)
        (s.replyRec h st r0 r1).bytes false with qps := qps, port := port } ∧
      ∃ since oldest, (s.reply h st r0 r1).qp h.qp.toNat =
        { ((s.qp h.qp.toNat).push (s.replyRec h st r0 r1) s.clk.now).answered with since := since, oldest := oldest } := by
  rw [State.reply_host hl hr hlost hf]
  have hq : (s.replied h (s.replyRec h st r0 r1)).qp h.qp.toNat =
      ((s.qp h.qp.toNat).push (s.replyRec h st r0 r1) s.clk.now).answered := State.qp_modQp_self _ _ _
  dsimp only
  split
  · obtain ⟨port, hp⟩ := (s.replied h (s.replyRec h st r0 r1)).raiseQp_eq h.qp.toNat
    refine ⟨_, port, hp, 0, none, ?_⟩
    rw [State.qp_raiseQp_self, hq, Qp.raised]
  · exact ⟨_, _, rfl, _, _, hq⟩

/-- Settles O56: `Reply.bytes` stands at the ring's tail, and what follows it touches queue pairs and the port. -/
theorem replyRecords : Obligations.ReplyRecords := by
  intro h st r0 r1 s hl q hr hlost hf u a v
  obtain ⟨hlen, hid, hcode, hphase, hhead, hres0, hres1, hdone⟩ := (s.replyRec h st r0 r1).bytes_fields rfl h.cmdId.isLt
  obtain ⟨wtail, wphase, whead, wtaken⟩ := Qp.answered_frame (q.push (s.replyRec h st r0 r1) s.clk.now)
  obtain ⟨qps, port, hu, since, oldest, hv⟩ := State.reply_host_frame hl hr hlost hf st r0 r1
  have hu : u = { s.hostWrite a (s.replyRec h st r0 r1).bytes false with qps := qps, port := port } := hu
  have hv : v = { (q.push (s.replyRec h st r0 r1) s.clk.now).answered with since := since, oldest := oldest } := hv
  refine ⟨(s.replyRec h st r0 r1).bytes, hlen, hid, hcode, hphase, hhead, ?res0, ?res1, hdone, fun i hi => ?inside,
    fun c hc => ?outside, by rw [hu]; rfl, by rw [hu]; rfl, by rw [hu]; rfl, by rw [hu]; rfl, by rw [hu]; rfl, by rw [hu]; rfl,
    by rw [hu]; rfl, by rw [hu]; rfl, ?tail, ?phase, by rw [hv]; exact whead, by rw [hv]; exact wtaken⟩
  case res0 => exact hres0.trans (Nat.mod_mod _ _)
  case res1 => exact hres1.trans (Nat.mod_mod _ _)
  case inside =>
    rw [hu]
    exact Bytes.rd1_wr_inside _ _ _ _ hi
  case outside =>
    rw [hu]
    exact Bytes.rd1_wr_outside _ _ _ _ (by rwa [hlen])
  case tail =>
    rw [hv]
    exact wtail
  case phase =>
    rw [hv]
    exact wphase.trans (by rw [wtail]; rfl)


/-! ### The capacity pass of ROUTE (R249, R250) -/

/-- A pass that has taken `n` choices: each is kept by its own expert, dropped or a duplicate, those kept by a probe are counted
both as kept and as replaced, and no expert is over its capacity. -/
structure RouteAcc.Counts (r : ExpRec) (a : RouteAcc) (n : Nat) : Prop where
  total : a.kept + a.dropped + a.dup = n + a.replaced
  room : ∀ x, NMap.get 0 a.fill x ≤ r.cap

variable {r : ExpRec} {a : RouteAcc} {n : Nat}

/-- A bucket with room takes one more token. -/
theorem RouteAcc.room_keep (h : ∀ x, NMap.get 0 a.fill x ≤ r.cap) {y : Nat} (hy : NMap.get 0 a.fill y < r.cap) (b x : Nat) :
    NMap.get 0 (a.keep b y).fill x ≤ r.cap := by
  obtain rfl | hx := eq_or_ne y x
  · rw [RouteAcc.keep, NMap.get_put_self]
    exact hy
  · rw [RouteAcc.keep, NMap.get_put_ne _ _ _ _ _ hx]
    exact h x

/-- A probe answers an expert with room. -/
theorem probeF_room {tok nx i y : Nat} {chosen : List Nat} {fill : NMap Nat} :
    ∀ {fuel : Nat}, (probeF r tok chosen fill fuel nx).1 = some (i, y) → NMap.get 0 fill y < r.cap := by
  intro fuel
  induction fuel generalizing nx with
  | zero => exact fun h => nomatch h
  | succ fuel ih =>
    simp only [probeF]
    intro h
    split at h
    · cases h
    · split at h
      case isTrue hok =>
        cases h
        exact of_decide_eq_true (Bool.and_eq_true_iff.1 hok).2
      case isFalse => exact ih h

/-- Each choice is counted once. -/
theorem RouteAcc.Counts.choice {tok b j nx : Nat} {chosen es : List Nat} (h : a.Counts r n) :
    (choice r tok b (a, chosen, nx, es) j).1.Counts r (n + 1) := by
  obtain ⟨total, room⟩ := h
  simp only [Machine.choice]
  split
  case isTrue => exact ⟨by dsimp only; omega, room⟩
  case isFalse =>
    split
    case isTrue hroom => exact ⟨by simp only [RouteAcc.keep]; omega, room_keep room hroom b⟩
    case isFalse =>
      split
      case h_1 i y nx' hp =>
        have hy : NMap.get 0 a.fill y < r.cap := by
          split at hp
          · exact probeF_room (congrArg Prod.fst hp)
          · cases hp
        exact ⟨by simp only [RouteAcc.keep]; omega, room_keep room hy b⟩
      case h_2 => exact ⟨by dsimp only; omega, room⟩

theorem RouteAcc.Counts.foldl_choice {tok b : Nat} (js : List Nat) :
    ∀ {st : RouteAcc × List Nat × Nat × List Nat} {n : Nat}, st.1.Counts r n →
      (js.foldl (Machine.choice r tok b) st).1.Counts r (n + js.length) := by
  induction js with
  | nil => exact fun h => h
  | cons j js ih =>
    intro st n h
    rw [List.foldl_cons, List.length_cons, Nat.add_comm js.length, ← Nat.add_assoc]
    exact ih h.choice

/-- One token of the pass (R249). -/
def routeToken (r : ExpRec) (a : RouteAcc) (e : Nat × Nat) : RouteAcc :=
  let t := (List.range r.k).foldl (Machine.choice r e.1 e.2) (a, [], r.k, [])
  let a' := { t.1 with ents := t.1.ents ++ t.2.2.2 ++ List.replicate (8 - r.k) 0 }
  if a'.kept = a.kept then { a' with empty := a'.empty + 1 } else a'

theorem RouteAcc.Counts.routeToken (h : a.Counts r n) (e : Nat × Nat) : (routeToken r a e).Counts r (n + r.k) := by
  have ht := RouteAcc.Counts.foldl_choice (tok := e.1) (b := e.2) (List.range r.k) (st := (a, [], r.k, [])) h
  rw [List.length_range] at ht
  simp only [Machine.routeToken]
  split <;> exact ⟨ht.total, ht.room⟩

theorem RouteAcc.Counts.foldl_routeToken (l : List (Nat × Nat)) :
    ∀ {a : RouteAcc} {n : Nat}, a.Counts r n → (l.foldl (Machine.routeToken r) a).Counts r (n + r.k * l.length) := by
  induction l with
  | nil => exact fun h => h
  | cons e l ih =>
    intro a n h
    have := ih (h.routeToken e)
    rwa [Nat.add_assoc, Nat.add_comm r.k, ← Nat.mul_succ] at this

/-- Settles O59: the pass folds over the tokens and each token over its choices, of which each is counted once. -/
theorem routingCounts : Obligations.RoutingCounts := by
  intro r toks
  have hstart : RouteAcc.Counts r { fill := [], lists := [], ents := [], kept := 0, dropped := 0, replaced := 0, dup := 0, empty := 0 } 0 :=
    ⟨rfl, fun _ => Nat.zero_le _⟩
  have h := RouteAcc.Counts.foldl_routeToken toks.zipIdx hstart
  rw [List.length_zipIdx, Nat.zero_add] at h
  exact ⟨h.total, h.room⟩

end Sys2Proof.Machine

/-! Proofs for the host commands of the device, contexts, memory, variants, adapters, signals and barriers (14, 15): each is accepted,
and its body has one branch left. -/

namespace Sys2Proof.Machine

/-- A command that is accepted answers what its body makes of the state with the command taken. -/
theorem host_next {s r : State} {h : Pkt} {d work ok : Bool} (ha : s.accepts h d work ok = true)
    {body : Nat → State → State} (hb : body (s.pktCtx h) (s.take h) = r) :
    (.next (s.host h d work ok body) : Host.Outcome State Fault Refusal) = .next r :=
  congrArg _ ((State.host_accepted ha body).trans hb)

/-! ### The device and its contexts (R294 to R297, R401) -/

theorem deviceQuery : Says.deviceQuery := fun _ _ ha => host_next ha rfl

theorem deviceNop : Says.deviceNop := fun _ _ ha => host_next ha rfl

/-- The state with a command taken has the resets, partitions and contexts of the state before. -/
@[simp] theorem State.partInReset_take (s : State) (h : Pkt) (p : Nat) : (s.take h).partInReset p = s.partInReset p := rfl
@[simp] theorem State.parts_take (s : State) (h : Pkt) : (s.take h).parts = s.parts := rfl
@[simp] theorem State.ctxInReset_take (s : State) (h : Pkt) (c : Nat) : (s.take h).ctxInReset c = s.ctxInReset c := rfl

/-- The first number of a range that passes a test. -/
theorem find?_range_eq_some {p : Nat → Bool} {n c : Nat} (hc : c < n) (hp : p c = true) (hb : ∀ b < c, p b = false) :
    (List.range n).find? p = some c := by
  rw [List.find?_range_eq_some]
  exact ⟨hp, List.mem_range.2 hc, fun b h => by rw [hb b h]; rfl⟩

theorem find?_range_eq_none {p : Nat → Bool} {n : Nat} (hb : ∀ b < n, p b = false) : (List.range n).find? p = none := by
  rw [List.find?_eq_none]
  exact fun b hm => ne_true_of_eq_false (hb b (List.mem_range.1 hm))

theorem isNone_eq_false_of_ne_none {α : Type} {o : Option α} (h : o ≠ none) : o.isNone = false := by
  rwa [Bool.eq_false_iff, ne_eq, Option.isNone_iff_eq_none]

theorem ctxCreate : Says.ctxCreate := by
  intro h seed part ref base size c s ha ht hr hp hc hnone hbelow
  refine host_next ha ?_
  have hfind : (List.range 256).find? (fun c => (s.ctx? c).isNone) = some c :=
    find?_range_eq_some hc (by rw [hnone]; rfl) fun b hb => isNone_eq_false_of_ne_none (hbelow b hb)
  have hparts : (NMap.get? s.parts part.toNat).isNone = false := by
    rw [← Option.not_isSome, hp]
    rfl
  simp only [State.partInReset_take, hr, State.boot_take, ht, State.ctx?_take, hfind, State.parts_take, hparts, Bool.false_eq_true,
    if_false]
  rfl

theorem ctxCreateFull : Says.ctxCreateFull := by
  intro h seed part ref base size s ha ht hr hfull
  refine host_next ha ?_
  have hfind : (List.range 256).find? (fun c => (s.ctx? c).isNone) = none :=
    find?_range_eq_none fun b hb => isNone_eq_false_of_ne_none (hfull b hb)
  simp only [State.partInReset_take, hr, State.boot_take, ht, State.ctx?_take, hfind, Bool.false_eq_true, if_false]

theorem isNone_ctx?_take {s : State} {c : Nat} (hc : (s.ctx? c).isSome = true) (h : Pkt) : ((s.take h).ctx? c).isNone = false := by
  rw [State.ctx?_take, ← Option.not_isSome, hc]
  rfl

theorem ctxDestroy : Says.ctxDestroy := by
  intro h s ha hc
  exact host_next ha (if_neg (ne_true_of_eq_false (isNone_ctx?_take hc h)))

theorem ctxReset : Says.ctxReset := by
  intro h s ha hc
  exact host_next ha (if_neg (ne_true_of_eq_false (isNone_ctx?_take hc h)))

theorem ctxQuery : Says.ctxQuery := by
  intro h clear x s ha hx
  refine host_next ha ?_
  simp only [State.ctx?_take, hx, State.seqs_take]

theorem ctxResume : Says.ctxResume := fun _ _ ha => host_next ha rfl

theorem ctxFaultAbort : Says.ctxFaultAbort := by
  intro h x s ha hx hf
  refine host_next ha ?_
  have hp : (s.take h).faultPending (s.pktCtx h) = true := by
    rw [State.faultPending, State.ctx?_take, hx]
    exact hf
  simp only [hp, Bool.not_true, Bool.false_eq_true, if_false, State.ctx?_take, hx, Option.map_some, Option.getD_some] <;>
    rfl

/-- Settles O4: each command is accepted, and the state's part it looks at decides its one branch. -/
theorem deviceAndContextCommands : Obligations.DeviceAndContextCommands :=
  ⟨deviceQuery, deviceNop, ctxCreate, ctxCreateFull, ctxDestroy, ctxReset, ctxQuery, ctxResume, ctxFaultAbort⟩

/-! ### Mappings (R202, R298) -/

theorem memMap : Says.memMap := by
  intro h va pa len ps leaf s s' ha hc hlen hkv hdenied hfree hmap
  refine host_next ha ?_
  have hlen' : len.toNat ≠ 0 := fun e => hlen (BitVec.eq_of_toNat_eq e)
  simp only [Says.pageBytes] at hmap
  simp only [isNone_ctx?_take hc, hlen', hdenied, hfree, Nat.not_lt.2 hkv, decide_false, Bool.or_self, Bool.false_eq_true, if_false,
    hmap]

theorem memMapTwice : Says.memMapTwice := by
  intro h va pa len ps leaf s ha hc hlen hkv hdenied hover
  refine host_next ha ?_
  have hlen' : len.toNat ≠ 0 := fun e => hlen (BitVec.eq_of_toNat_eq e)
  simp only [isNone_ctx?_take hc, hlen', hdenied, hover, Nat.not_lt.2 hkv, decide_false, Bool.or_self, Bool.false_eq_true, if_false,
    if_true]

theorem memUnmap : Says.memUnmap := by
  intro h va len s ha hr hc hpart
  refine (if_neg (by simp [hr])).trans (host_next ha ?_)
  simp only [isNone_ctx?_take hc, hpart, Bool.false_eq_true, if_false]

theorem memUnmapPart : Says.memUnmapPart := by
  intro h va len s ha hr hc hpart
  refine (if_neg (by simp [hr])).trans (host_next ha ?_)
  simp only [isNone_ctx?_take hc, hpart, Bool.false_eq_true, if_false, if_true]

theorem memSwapOut : Says.memSwapOut := by
  intro h va len b s ha hr hc hback hpart htiers
  refine (if_neg (by simp [hr])).trans (host_next ha ?_)
  have htiers' : ((s.take h).leavesIn (s.pktCtx h) va.toNat len.toNat).any (fun e => !inTiers (pteAddr e.2.2)) = false := by
    rw [List.any_eq_false]
    intro e he
    rw [List.all_eq_true.1 htiers e he]
    decide
  simp only [isNone_ctx?_take hc, hback, hpart, htiers', Bool.false_eq_true, if_false]

/-- Settles O5: the hypotheses decide each check of the command, in the order of R298. -/
theorem mappingCommands : Obligations.MappingCommands := ⟨memMap, memMapTwice, memUnmap, memUnmapPart, memSwapOut⟩

end Sys2Proof.Machine

namespace Sys2Proof.Machine

/-! ### Variants and adapters (R238, R239, R300) -/

/-- What a command makes of a value that memory gave it. -/
theorem State.orStatus_ok {α : Type} {h : Pkt} {x : Answer α} {a : α} {s : State} (hx : x = (.ok a, s))
    (f : α → State → State) : State.orStatus h x f = f a s := by
  rw [hx]
  rfl

@[simp] theorem State.modelFor_take (s : State) (h : Pkt) (c m : Nat) : (s.take h).modelFor c m = s.modelFor c m := rfl
@[simp] theorem State.named_take (s : State) (h : Pkt) (c m v : Nat) (k : Bool) :
    (s.take h).named c m v k = s.named c m v k := rfl

theorem variantLoad : Says.variantLoad := by
  intro h model variant va len ext dir s s' ha hm hv hlen hw hread hdir
  have hall : (List.range 256).any (fun t => decide (len.toNat < leAt dir (16 * t) 8 + leAt dir (16 * t + 8) 8)) = false := by
    rw [List.any_eq_false]
    intro t ht
    rw [decide_eq_true_eq, Nat.not_lt]
    exact hdir t (List.mem_range.1 ht)
  refine host_next ha ?_
  simp only [Says.variantsOf] at hv
  simp only [State.modelFor_take, hm, State.ctx?_take, hv, Nat.not_lt.2 hlen, hw, State.orStatus_ok hread, hall, Bool.not_true,
    Bool.or_self, Bool.false_eq_true, if_false]

theorem variantRemove : Says.variantRemove := by
  intro h model variant s ha hv hn
  refine host_next ha ?_
  simp only [Says.variantsOf] at hv
  simp only [State.ctx?_take, hv, State.named_take, hn, Bool.not_true, Bool.or_self, Bool.false_eq_true, if_false]

theorem adapterLoad : Says.adapterLoad := by
  intro h model adapter va len out ext bs x s s' s'' ha hm hv hlen hw hread hbn hfa hfb hfits hwo hwrite
  refine host_next ha ?_
  simp only [Says.adaptersOf] at hv
  simp only [State.modelFor_take, hm, State.ctx?_take, hv, Nat.not_lt.2 hlen, hw, State.orStatus_ok hread, hbn, hfa, hfb, hfits, hwo,
    State.orStatus_ok hwrite, Bool.not_true, Bool.or_self, Bool.false_eq_true, if_false]

theorem adapterRemove : Says.adapterRemove := by
  intro h model adapter s ha hv hn
  refine host_next ha ?_
  simp only [Says.adaptersOf] at hv
  simp only [State.ctx?_take, hv, State.named_take, hn, Bool.not_true, Bool.or_self, Bool.false_eq_true, if_false]

theorem removeNamed : Says.removeNamed := by
  intro h m v s ha
  constructor <;> intro hn <;> refine host_next ha ?_ <;>
    simp only [State.named_take, hn, Bool.or_true, if_true]

/-- Settles O6: a load goes on through its reads and checks, a removal has the one check of R300. -/
theorem variantAndAdapterCommands : Obligations.VariantAndAdapterCommands :=
  ⟨variantLoad, variantRemove, adapterLoad, adapterRemove, removeNamed⟩

/-! ### Signals and barriers (R317 to R327) -/

@[simp] theorem State.homeFor_take (s : State) (h : Pkt) (m n : Nat) : (s.take h).homeFor m n = s.homeFor m n := rfl
@[simp] theorem State.hasObject_take (s : State) (h : Pkt) (c k i : Nat) : (s.take h).hasObject c k i = s.hasObject c k i := rfl

theorem bit_one_of_lt_two {f : Nat} (h : f < 2) : bit f 1 = false := by
  rw [bit, Nat.testBit_eq_false_of_lt (by omega)]

/-- The operands of SYNC_CREATE that make a signal are in range (R325). -/
theorem syncBad_signal {flags ident initial : Nat} (hf : flags < 2) (hi : ident < 16384) :
    syncBad 0 flags ident 0 initial 0 0 = false := by
  have h3 : ¬ 3 < flags := by omega
  simp [syncBad, kindLimit, h3, hi, bit_one_of_lt_two hf]

/-- The operands of SYNC_CREATE that make a barrier are in range (R325). -/
theorem syncBad_barrier {flags ident count home model : Nat} (hf : flags < 4) (hi : ident < 4096) (hc : count < 2 ^ 20)
    (hj : bit flags 1 = false → home = 0 ∧ model = 0) : syncBad 1 flags ident count 0 home model = false := by
  have h3 : ¬ 3 < flags := by omega
  have hc' : ¬ 1048575 < count := by omega
  cases hb : bit flags 1
  · obtain ⟨rfl, rfl⟩ := hj hb
    simp [syncBad, kindLimit, h3, hi, hc', hb]
  · simp [syncBad, kindLimit, h3, hi, hc', hb]

theorem syncCreateSignal : Says.syncCreateSignal := by
  intro h flags ident initial s hf hi ha hfree hroom
  have hok := syncBad_signal (initial := initial.toNat) hf hi
  refine host_next (ok := !syncBad 0 flags.toNat ident.toNat 0 initial.toNat 0 0) (by rwa [hok]) ?_
  have hroom' : ¬ kindLimit 0 ≤ s.signals.length := Nat.not_le.2 hroom
  simp [hfree, bit_one_of_lt_two hf, hroom']

theorem syncCreateBarrier : Says.syncCreateBarrier := by
  intro h flags ident count home model s hf hi hc ha hj hhome hfree hroom
  have hok := syncBad_barrier (home := home.toNat) (model := model.toNat) hf hi hc fun hb => by
    obtain ⟨rfl, rfl⟩ := hj hb
    exact ⟨rfl, rfl⟩
  refine host_next (ok := !syncBad 1 flags.toNat ident.toNat count.toNat 0 home.toNat model.toNat) (by rwa [hok]) ?_
  have hroom' : ¬ kindLimit 1 ≤ s.barriers.length := Nat.not_le.2 hroom
  have hhome' : (bit flags.toNat 1 && (s.homeFor model.toNat home.toNat).isNone) = false := by
    cases hb : bit flags.toNat 1
    · rfl
    · rw [← Option.not_isSome, hhome hb]
      rfl
  simp [hfree, hhome', hroom']

theorem syncDestroy : Says.syncDestroy := by
  intro h kind ident s hk hi ha hobj hslot hwait hheld
  refine host_next (ok := decide (kind.toNat < 2) && decide (ident.toNat < kindLimit kind.toNat)) (by simpa [hk, hi] using ha) ?_
  have hwait' : (decide (kind.toNat = 0) && s.waits.any (fun w => w.ctx = s.pktCtx h && w.ident = ident.toNat)) = false := by
    by_cases hz : kind.toNat = 0
    · rw [hwait (BitVec.eq_of_toNat_eq hz), Bool.and_false]
    · simp [hz]
  simp only [State.hasObject_take, hobj, hslot, State.waits_take, hwait', State.held_take, hheld, Bool.not_true, Bool.or_self,
    Bool.false_eq_true, if_false]
  rfl

theorem State.hasObject_signal {s : State} {c i : Nat} {g : Signal} (hg : NMap.get? s.signals (objKey c i) = some g) :
    s.hasObject c 0 i = true := by
  simp [State.hasObject, hg]

theorem State.hasObject_no_signal {s : State} {c i : Nat} (hg : NMap.get? s.signals (objKey c i) = none) :
    s.hasObject c 0 i = false := by
  simp [State.hasObject, hg]

theorem signalAdd : Says.signalAdd := by
  intro h ident amount g s hi ha hg
  refine host_next (ok := decide (ident.toNat < 16384)) (by rwa [decide_eq_true hi]) ?_
  simp only [State.hasObject_take, State.hasObject_signal hg, if_true, State.signalAdd, State.signals_take, hg]

theorem signalWait : Says.signalWait := by
  intro h ident target limit g s hi ha hg hroom
  refine host_next (ok := decide (ident.toNat < 16384)) (by rwa [decide_eq_true hi]) ?_
  have hlimit : limit.toNat = 0 ↔ limit = 0 := ⟨fun e => BitVec.eq_of_toNat_eq e, fun e => by rw [e]; rfl⟩
  simp only [State.signals_take, hg, State.waits_take, Nat.not_le.2 hroom, State.clk_take, hlimit, if_false]

theorem signalWaitLimit : Says.signalWaitLimit := by
  intro w g s hw hg
  show execSignalWaitLimit w.h.qp w.h.cmdId s = _
  simp only [execSignalWaitLimit, hw, hg, Option.map_some, Option.getD_some]

theorem noObject : Says.noObject := by
  intro h ident x limit s hi ha hg
  have hmissing : (s.take h).hasObject (s.pktCtx h) 0 ident.toNat = false := State.hasObject_no_signal hg
  refine ⟨host_next (ok := decide (ident.toNat < 16384)) (by rwa [decide_eq_true hi]) ?_,
    host_next (ok := decide (ident.toNat < 16384)) (by rwa [decide_eq_true hi]) ?_,
    host_next (ok := decide (0 < 2) && decide (ident.toNat < kindLimit 0)) (by simpa [kindLimit, hi] using ha) ?_⟩
  · exact if_neg (ne_true_of_eq_false hmissing)
  · simp only [State.signals_take, hg]
  · exact if_pos (by simp [hmissing])

/-! ### What an access of memory and a reply leave (R276, R287, R329 to R332) -/

/-- The second state is the first but for what an access of the HBM and a reply write: memory, log, port, queue pairs, the prefixes
and slots that an uncorrectable error strikes, and free values. -/
def State.Served (s u : State) : Prop := ∃ mem log port qps prefixes seqs freeCtr,
  u = { s with mem := mem, log := log, port := port, qps := qps, prefixes := prefixes, seqs := seqs, freeCtr := freeCtr }

theorem State.Served.refl (s : State) : s.Served s := ⟨_, _, _, _, _, _, _, rfl⟩

theorem State.Served.trans {s u v : State} (h : s.Served u) (k : u.Served v) : s.Served v := by
  obtain ⟨_, _, _, _, _, _, _, rfl⟩ := h
  obtain ⟨_, _, _, _, _, _, _, rfl⟩ := k
  exact ⟨_, _, _, _, _, _, _, rfl⟩

theorem State.Served.foldl {α β : Type} {P : β → State} {f : β → α → β} (h : ∀ (b : β) a, (P b).Served (P (f b a))) (l : List α) :
    ∀ b : β, (P b).Served (P (l.foldl f b)) := by
  induction l with
  | nil => exact fun b => .refl _
  | cons a l ih => exact fun b => (h b a).trans (ih _)

theorem State.Served.raise (s : State) (e : Ev) : s.Served (s.raise e) := by
  obtain ⟨log, port, h⟩ := s.raise_eq e
  exact ⟨_, log, port, _, _, _, _, h⟩

theorem State.Served.kvStruck (s : State) (pa : Nat) : s.Served (s.kvStruck pa) := by
  unfold State.kvStruck
  split
  · exact .refl s
  · exact ⟨_, _, _, _, _, _, _, rfl⟩

theorem State.Served.withMem (s : State) (m : Mem) : s.Served { s with mem := m } := ⟨_, _, _, _, _, _, _, rfl⟩

theorem State.Served.hbmUnit (s : State) (n : Nat) (patrol : Bool) : s.Served (s.hbmUnit n patrol).2 := by
  simp only [State.hbmUnit]
  split
  · exact .refl s
  split
  · exact .kvStruck s _
  split
  · exact .refl s
  split
  · exact (State.Served.withMem s _).trans (.raise _ _)
  · exact ((State.Served.withMem s _).trans (.raise _ _)).trans (.kvStruck _ _)

theorem State.Served.copiesDiffer (s : State) (n : Nat) : s.Served (s.copiesDiffer n).2 := by
  simp only [State.copiesDiffer]
  split
  · exact .refl s
  · exact (State.Served.withMem s _).trans (.raise _ _)

theorem State.Served.decrypt (s : State) (m : List (Nat × Byte)) (keys : NMap Nat) (lost : List Nat) (pa n key : Nat) :
    s.Served (s.decrypt m keys lost pa n key).2 := by
  simp only [State.decrypt]
  split <;> exact ⟨_, _, _, _, _, _, _, rfl⟩

theorem State.Served.hbmMerge (s : State) (u key : Nat) : s.Served (s.hbmMerge u key) :=
  ((State.Served.hbmUnit s u false).trans (.decrypt _ _ _ _ _ _ _)).trans (.withMem _ _)

theorem State.Served.hbmWrite (s : State) (pa : Nat) (bs : List Byte) (key : Nat) (poison : Bool) :
    s.Served (s.hbmWrite pa bs key poison) :=
  ((State.Served.foldl (P := id) (fun s u => State.Served.hbmMerge s u key) _ s).trans
    (State.Served.foldl (P := id) (fun s u => State.Served.copiesDiffer s u) _ _)).trans (.withMem _ _)

theorem State.Served.modQp (s : State) (n : Nat) (f : Qp → Qp) : s.Served (s.modQp n f) := ⟨_, _, _, _, _, _, _, rfl⟩

theorem State.Served.raiseQp (s : State) (n : Nat) : s.Served (s.raiseQp n) := by
  obtain ⟨port, h⟩ := s.raiseQp_eq n
  exact ⟨_, _, port, _, _, _, _, h⟩

theorem State.Served.hostWrite (s : State) (a : Nat) (bs : List Byte) (poison : Bool) : s.Served (s.hostWrite a bs poison) :=
  ⟨_, _, _, _, _, _, _, rfl⟩

theorem State.Served.replyLate (s : State) (h : Pkt) (st : Status) (r0 r1 : Nat) (late : Bool) :
    s.Served (s.replyLate h st r0 r1 late) := by
  simp only [State.replyLate]
  split
  · exact .refl s
  split
  · exact .modQp s _ _
  split
  · exact .modQp s _ _
  · have hw (r : Reply) (a : Nat) :
        s.Served (if (s.qp h.qp.toNat).ringHbm then s.hbmWrite a r.bytes s.boot.stagingKey false else s.hostWrite a r.bytes false) :=
      ite_holds _ (.hbmWrite s _ _ _ _) (.hostWrite s _ _ _)
    exact ite_holds _ (((hw _ _).trans (.modQp _ _ _)).trans (.raiseQp _ _)) ((hw _ _).trans (.modQp _ _ _))

theorem State.Served.reply (s : State) (h : Pkt) (st : Status) (r0 r1 : Nat) : s.Served (s.reply h st r0 r1) :=
  .replyLate s h st r0 r1 false

/-! ### What the wakes of a signal leave (R318, R320) -/

/-- The signals and the contexts are the same in both states. -/
def State.SameObjects (s u : State) : Prop := u.signals = s.signals ∧ u.ctxs = s.ctxs

theorem State.SameObjects.trans {s u v : State} (h : s.SameObjects u) (k : u.SameObjects v) : s.SameObjects v :=
  ⟨k.1.trans h.1, k.2.trans h.2⟩

theorem State.SameObjects.foldl {α : Type} {f : State → α → State} (h : ∀ (s : State) a, s.SameObjects (f s a)) (l : List α) :
    ∀ s : State, s.SameObjects (l.foldl f s) := by
  induction l with
  | nil => exact fun _ => ⟨rfl, rfl⟩
  | cons a l ih => exact fun s => (h s a).trans (ih _)

theorem State.SameObjects.reply (s : State) (h : Pkt) (st : Status) (r0 r1 : Nat) : s.SameObjects (s.reply h st r0 r1) := by
  obtain ⟨_, _, _, _, _, _, _, h⟩ := State.Served.reply s h st r0 r1
  rw [h]
  exact ⟨rfl, rfl⟩

theorem State.SameObjects.decideWait (s : State) (t : Nat) : s.SameObjects (s.decideWait t) := by
  unfold State.decideWait
  (repeat' split) <;> exact ⟨rfl, rfl⟩

/-- The waits that a signal's new count decides leave the signals and the contexts. -/
theorem State.SameObjects.wakes (s : State) (c i n : Nat) : s.SameObjects ((s.wakeWaits c i n).decideWaits c) := by
  refine State.SameObjects.trans ?_ (.foldl .decideWait _ _)
  exact State.SameObjects.foldl (fun s (w : SigWait) => .reply s w.h .ok n 0) _ _

/-- A signal with its count after an add, and the col die's part of its context's status (R318). -/
def State.counted (s : State) (c i : Nat) (g : Signal) (n : Nat) : State :=
  let u := { s with signals := NMap.put s.signals (objKey c i) { g with count := min (g.count + n) (2 ^ 64 - 1) } }
  if 2 ^ 64 - 1 < g.count + n then u.modCtx c (fun x => { x with stickyCol := true }) else u

theorem State.signalAdd_eq {s : State} {c i : Nat} {g : Signal} (hg : NMap.get? s.signals (objKey c i) = some g) (n : Nat) :
    s.signalAdd c i n = ((s.counted c i g n).wakeWaits c i (min (g.count + n) (2 ^ 64 - 1))).decideWaits c := by
  simp only [State.signalAdd, hg]
  rfl

theorem State.signals_counted (s : State) (c i : Nat) (g : Signal) (n : Nat) : (s.counted c i g n).signals =
    NMap.put s.signals (objKey c i) { g with count := min (g.count + n) (2 ^ 64 - 1) } :=
  ite_holds (fun u : State => u.signals = _) (State.signals_modCtx _ _ _) rfl

theorem State.ctx?_counted (s : State) (c i : Nat) (g : Signal) {n : Nat} (h : 2 ^ 64 - 1 < g.count + n) :
    (s.counted c i g n).ctx? c = (s.ctx? c).map (fun x => { x with stickyCol := true }) := by
  simp only [State.counted, if_pos h]
  exact State.ctx?_modCtx_self _ _ _

theorem signalSaturates : Says.signalSaturates := by
  intro s c i n g hg hlt
  obtain ⟨hsig, hctx⟩ := State.SameObjects.wakes (s.counted c i g n) c i (min (g.count + n) (2 ^ 64 - 1))
  rw [← State.signalAdd_eq hg] at hsig hctx
  rw [hsig, State.signals_counted]
  refine ⟨_, NMap.get?_put_self _ _ _, rfl, ?_, fun j hj => NMap.get?_put_ne _ _ _ _ hj.symm, fun x hx hover => ?_⟩
  · show g.count ≤ min (g.count + n) (2 ^ 64 - 1)
    omega
  · refine ⟨{ x with stickyCol := true }, ?_, rfl⟩
    rw [State.ctx?, hctx]
    exact (s.ctx?_counted c i g hover).trans (by rw [hx]; rfl)

/-- Settles O7: each command on an object that exists or not; a signal's count is written once, and what it wakes leaves it. -/
theorem synchronisationObjects : Obligations.SynchronisationObjects :=
  ⟨syncCreateSignal, syncCreateBarrier, syncDestroy, signalAdd, signalWait, signalWaitLimit, noObject, signalSaturates⟩

end Sys2Proof.Machine

/-! Proofs for the host commands of models, kernel images and sequence slots (14): R299, R301 to R309. -/

namespace Sys2Proof.Machine

/-! ### Models and kernel images (R299, R301) -/

theorem isNone_of_isSome {α : Type} {o : Option α} (h : o.isSome = true) : o.isNone = false := by
  rw [← Option.not_isSome, h]
  rfl

theorem modelPlace : Says.modelPlace := by
  intro h pa len part model ext bs r as s s' ha ht hr hp hread hparse hcheck hscrub
  refine host_next ha ?_
  simp only [State.partInReset_take, hr, State.boot_take, ht, State.parts_take, isNone_of_isSome hp, State.orStatus_ok hread, hparse,
    hcheck, hscrub, Bool.false_eq_true, if_false]

@[simp] theorem State.modelUsed_take (s : State) (h : Pkt) (m : Nat) : (s.take h).modelUsed m = s.modelUsed m := rfl

theorem modelRemove : Says.modelRemove := by
  intro h model x s ha hx hused hw
  refine host_next ha ?_
  simp only [State.models_take, hx, State.modelUsed_take, hused, State.ctxs_take, hw, Bool.false_eq_true, if_false]

theorem modelRemoveUsed : Says.modelRemoveUsed := by
  intro h model x s ha hx hused
  refine host_next ha ?_
  simp only [State.models_take, hx, State.modelUsed_take, hused, if_true]

@[simp] theorem State.imageLimit_take (s : State) (h : Pkt) (p : Nat) (a b : Bool) :
    (s.take h).imageLimit p a b = s.imageLimit p a b := rfl

theorem kernelLoad : Says.kernelLoad := by
  intro h va len ext bs x s s' ha hx hlen hw hread
  refine host_next ha ?_
  simp only [State.ctx?_take, hx, Option.map_some, Option.getD_some, State.imageLimit_take, Nat.not_lt.2 hlen, hw,
    State.orStatus_ok hread, Bool.false_eq_true, if_false]

/-- Settles O8: the record, the model and the image pass each check in turn. -/
theorem modelsAndKernelImages : Obligations.ModelsAndKernelImages := ⟨modelPlace, modelRemove, modelRemoveUsed, kernelLoad⟩

/-! ### SEQ_OPEN (R303 to R306) -/

@[simp] theorem State.seq_take (s : State) (h : Pkt) (n : Nat) : (s.take h).seq n = s.seq n := rfl
@[simp] theorem State.slotFor_take (s : State) (h : Pkt) (c k : Nat) : (s.take h).slotFor c k = s.slotFor c k := rfl

/-- The lowest slot that is free. -/
theorem find?_freeSlot {s : State} {n : Nat} (hn : n < 1024) (hfree : (s.seq n).state = 0) (hbelow : ∀ m < n, (s.seq m).state ≠ 0) :
    (List.range 1024).find? (fun n => decide ((s.seq n).state = 0)) = some n :=
  find?_range_eq_some hn (decide_eq_true hfree) fun m hm => decide_eq_false (hbelow m hm)

/-- The prefix that SEQ_OPEN goes on with, by what it names. -/
theorem namesPrefix_find? {s : State} {c : Nat} {pfx : W64} {p : Option Prefix} (hp : Says.namesPrefix s c pfx p) :
    (decide (pfx ≠ 0) && (s.prefixes.find? (fun p => p.ctx = c && decide (p.handle = pfx.toNat))).isNone) = false ∧
      (if pfx = 0 then none else s.prefixes.find? (fun p => p.ctx = c && decide (p.handle = pfx.toNat))) = p := by
  rw [Says.namesPrefix] at hp
  split at hp
  case isTrue hz =>
    rw [if_pos hz, hp]
    exact ⟨by simp [hz], rfl⟩
  case isFalse hz =>
    obtain ⟨hsome, hfind⟩ := hp
    rw [if_neg hz, hfind, isNone_of_isSome hsome, Bool.and_false]
    exact ⟨rfl, rfl⟩

theorem seqOpen : Says.seqOpen := by
  intro h model variant maxLen cls nAds ads target pfx adm p n x s ha hx hr hcr hn hfree hbelow hp as q need v room hrej
  obtain ⟨hgone, hpfx⟩ := namesPrefix_find? (s := s.take h) hp
  have hslot := find?_freeSlot (s := s.take h) hn hfree hbelow
  have hx' : (s.take h).ctx? (s.pktCtx h) = some x := hx
  have hr' : (s.take h).partInReset x.part = false := hr
  have hcr' : (s.take h).ctxInReset (s.pktCtx h) = false := hcr
  refine ⟨fun hroom => host_next ha ?_, fun s3 s4 hroom hmap => host_next ha ?_⟩
  · simp only [hx', hr', hcr', hslot, hgone, hpfx, Option.map_some, Option.getD_some, Bool.or_self, Bool.false_eq_true, if_false]
    refine (if_neg (ne_true_of_eq_false hrej)).trans ?_
    generalize hd : ite (adm.feasible = true) _ _ = o
    obtain rfl : o = none := hd.symm.trans hroom
    rfl
  · simp only [hx', hr', hcr', hslot, hgone, hpfx, Option.map_some, Option.getD_some, Bool.or_self, Bool.false_eq_true, if_false]
    refine (if_neg (ne_true_of_eq_false hrej)).trans ?_
    generalize hd : ite (adm.feasible = true) _ _ = o
    obtain rfl : o = some s3 := hd.symm.trans hroom
    dsimp only
    generalize hm : State.mapStores _ _ _ = o
    obtain rfl : o = some s4 := hm.symm.trans hmap
    rfl

theorem seqOpenFull : Says.seqOpenFull := by
  intro h model variant maxLen cls nAds ads target pfx adm x s ha hx hr hcr hfull
  refine host_next ha ?_
  have hslot : (List.range 1024).find? (fun n => decide (((s.take h).seq n).state = 0)) = none :=
    find?_range_eq_none fun m hm => decide_eq_false (hfull m hm)
  simp only [State.ctx?_take, hx, Option.map_some, Option.getD_some, State.partInReset_take, hr, State.ctxInReset_take, hcr,
    hslot, Bool.or_self, Bool.false_eq_true, if_false]

theorem noSlot : Says.noSlot := by
  intro h handle len pfx s ha hn
  refine ⟨host_next ha ?_, host_next ha ?_, host_next ha ?_, host_next ha ?_, host_next ha ?_⟩ <;>
    simp only [State.slotFor_take, hn]

/-- Settles O9: the slot is the lowest free one, its prefix the one named, and room decides between the two answers. -/
theorem sequenceOpening : Obligations.SequenceOpening := ⟨seqOpen, seqOpenFull, noSlot⟩

/-! ### The commands of a slot (R302, R307 to R309) -/

theorem seqStep : Says.seqStep := by
  intro h handle posM1 drafts tok out arg plan ext n x bs s s' ha hx hr hcr hn q verify ts htiles h5 h6 hbusy hw hread
  have hx' : (s.take h).ctx? (s.pktCtx h) = some x := hx
  have hr' : (s.take h).partInReset x.part = false := hr
  have hcr' : (s.take h).ctxInReset (s.pktCtx h) = false := hcr
  have hn' : (s.take h).slotFor (s.pktCtx h) handle.toNat = some n := hn
  have htiles' : (s.take h).tilesRefuse ts = none := htiles
  have hbusy' : (s.take h).streamBusy h (s.pktCtx h) n ts = false := hbusy
  refine host_next ha ?_
  simp only [hx', hr', hcr', hn', Option.map_some, Option.getD_some, Bool.or_self, Bool.false_eq_true, if_false]
  generalize hd : State.tilesRefuse _ _ = o
  obtain rfl : o = none := hd.symm.trans htiles'
  refine (if_neg h5).trans ((if_neg h6).trans ((if_neg (ne_true_of_eq_false hbusy')).trans
    ((if_neg (ne_true_of_eq_false hw)).trans ?_)))
  exact State.orStatus_ok hread _

theorem seqQuery : Says.seqQuery := by
  intro h handle n s ha hn h5
  refine host_next ha ?_
  simp only [State.slotFor_take, hn, State.seq_take, h5, if_false]

theorem seqCancelEpoch : Says.seqCancelEpoch := by
  intro h handle n s ha hn
  refine host_next ha ?_
  simp only [State.slotFor_take, hn]
  exact if_congr ((Bool.or_eq_true _ _).to_iff.trans (or_congr decide_eq_true_iff Iff.rfl)) rfl rfl

theorem seqCancelSequence : Says.seqCancelSequence := by
  intro h handle n s ha hn
  refine host_next ha ?_
  simp only [State.slotFor_take, hn]
  cases State.runningWork _ n <;> rfl

theorem seqClose : Says.seqClose := by
  intro h handle n s ha hn
  refine host_next ha ?_
  simp only [State.slotFor_take, hn]

theorem prefixSave : Says.prefixSave := by
  intro h handle len pfx n s ha hn
  refine host_next ha ?_
  simp only [State.slotFor_take, hn]

theorem prefixRemove : Says.prefixRemove := by
  intro h pfx s ha
  refine host_next ha ?_
  by_cases hz : pfx = 0
  · simp only [hz, decide_true, Bool.true_or, if_true, ne_eq, not_true_eq_false, false_and, if_false]
  · cases hany : s.prefixes.any (fun p => p.ctx = s.pktCtx h && decide (p.handle = pfx.toNat)) <;>
      simp only [State.prefixes_take, hany, hz, decide_false, Bool.false_or, Bool.not_true, Bool.not_false, Bool.false_eq_true, ne_eq,
        not_false_eq_true, and_true, and_false, if_true, if_false]

/-- Settles O10: the handle names the slot, and what each command does there follows from the slot's state. -/
theorem sequenceSteps : Obligations.SequenceSteps :=
  ⟨seqStep, seqQuery, seqCancelEpoch, seqCancelSequence, seqClose, prefixSave, prefixRemove⟩

end Sys2Proof.Machine

/-! Proofs for frames, launches, work items (08, 14): R143, R295, R301, R310, R311, R415; and for the epochs and the pre-emption of
slots (13): R278 to R283. -/

namespace Sys2Proof.Machine

/-! ### Frames (R310, R311) -/

theorem frameSubmit : Says.frameSubmit := by
  intro h model cls late frame deadline inVa outVa argVa predicted plan x s s' ha hx hr hcr verify ts hts hm hlate hroom hbusy hmap
  have hx' : (s.take h).ctx? (s.pktCtx h) = some x := hx
  have hr' : (s.take h).partInReset x.part = false := hr
  have hcr' : (s.take h).ctxInReset (s.pktCtx h) = false := hcr
  have hbusy' : (s.take h).streamBusy h (s.pktCtx h) 1024 ts = false := hbusy
  have htime : (!late && (decide (deadline.toNat < s.clk.now) || decide (deadline.toNat < predicted.toNat))) = false := by
    obtain rfl | ⟨hnow, hpred⟩ := hlate
    · rfl
    · rw [decide_eq_false (Nat.not_lt.2 hnow), decide_eq_false (Nat.not_lt.2 hpred), Bool.or_false, Bool.and_false]
  refine host_next ha ?_
  simp only [hx', hr', hcr', Option.map_some, Option.getD_some, Bool.or_self, Bool.false_eq_true, if_false]
  generalize hd : State.tilesRefuse _ _ = o
  obtain rfl : o = none := hd.symm.trans hts
  dsimp only
  refine (if_neg ?_).trans ((if_neg (Nat.not_le.2 hroom)).trans ((if_neg (ne_true_of_eq_false hbusy')).trans ?_))
  · rw [State.modelFor_take, hm]
    exact ne_true_of_eq_false htime
  · generalize hd : State.mapStores _ _ _ = o
    obtain rfl : o = some s' := hd.symm.trans hmap
    rfl

theorem frameTooLate : Says.frameTooLate := by
  intro h model cls frame deadline inVa outVa argVa predicted plan x s ha hx hr hcr hts hlate
  have hx' : (s.take h).ctx? (s.pktCtx h) = some x := hx
  have hr' : (s.take h).partInReset x.part = false := hr
  have hcr' : (s.take h).ctxInReset (s.pktCtx h) = false := hcr
  have htime : (decide (deadline.toNat < s.clk.now) || decide (deadline.toNat < predicted.toNat)) = true := by
    rwa [Bool.or_eq_true, decide_eq_true_iff, decide_eq_true_iff]
  refine host_next ha ?_
  simp only [hx', hr', hcr', Option.map_some, Option.getD_some, Bool.or_self, Bool.false_eq_true, if_false]
  generalize hd : State.tilesRefuse _ _ = o
  obtain rfl : o = none := hd.symm.trans hts
  refine if_pos ?_
  rw [Bool.or_eq_true]
  exact .inr htime

theorem frameStart : Says.frameStart := by
  intro n w s hw hk hst hfirst
  simp only [exec, execFrameStart, hw, hk, hst, hfirst, decide_true, Bool.not_false, Bool.and_self, if_true]

theorem frameDeadline : Says.frameDeadline := by
  intro n w s hw hk hst hd
  simp only [exec, execFrameDeadline, hw, hk, hst, Nat.not_lt.2 hd]
  cases w.runLate <;> rfl

theorem frameCancel : Says.frameCancel := by
  intro h frame s ha
  refine host_next ha ?_
  simp only [State.works_take]
  generalize List.find? _ _ = o
  cases o <;> rfl

/-! ### KERNEL_LAUNCH and work items (R143, R301) -/

theorem kernelLaunch : Says.kernelLaunch := by
  intro h glens tiles entry argsVa resVa ext x bs s s' ha hx hr hcr hts hglens hbusy hw hread
  have hx' : (s.take h).ctx? (s.pktCtx h) = some x := hx
  have hr' : (s.take h).partInReset x.part = false := hr
  have hcr' : (s.take h).ctxInReset (s.pktCtx h) = false := hcr
  have hglens' : (List.range 16).any (fun g => bit glens.toNat g && decide ((s.take h).partOfGlen g ≠ some x.part)) = false := by
    rw [List.any_eq_false]
    intro g hg hbad
    obtain ⟨hbit, hpart⟩ := (Bool.and_eq_true _ _).mp hbad
    exact of_decide_eq_true hpart (hglens g (List.mem_range.1 hg) hbit)
  refine host_next ha ?_
  simp only [hx', hr', hcr', Option.map_some, Option.getD_some, Bool.or_self, Bool.false_eq_true, if_false]
  generalize hd : State.tilesRefuse _ _ = o
  obtain rfl : o = none := hd.symm.trans hts
  exact (if_neg (ne_true_of_eq_false hglens')).trans ((if_neg (ne_true_of_eq_false hbusy)).trans
    ((if_neg (ne_true_of_eq_false hw)).trans (State.orStatus_ok hread _)))

theorem workItemStart : Says.workItemStart := by
  intro n t w i s hw hst hi ⟨hidle, hquiet, hreset, hruns, hcr, hscrub, hsusp, hearlier⟩
  obtain ⟨x, hx, hxs⟩ := Option.map_eq_some_iff.1 hsusp
  simp only [exec, execWorkItemStart, hw, hi, hx, hst, hidle, hquiet, hreset, hruns, hcr, hscrub, hxs, hearlier, ne_eq,
    not_true_eq_false, decide_false, Bool.not_true, Bool.or_self, Bool.false_eq_true, if_false]

theorem workCommandComplete : Says.workCommandComplete := by
  intro n w s hw hover hrerun
  refine ⟨fun hk => ?_, fun hk => ?_, fun s' hk hwait hres => ?_⟩
  · simp only [exec, execWorkCommandComplete, hw, hover, hrerun, hk, Bool.not_true, Bool.or_self, Bool.false_eq_true, if_false]
  · simp only [exec, execWorkCommandComplete, hw, hover, hrerun, hk, Bool.not_true, Bool.or_self, Bool.false_eq_true, if_false]
  · simp only [exec, execWorkCommandComplete, hw, hover, hrerun, hk, hwait, hres, Bool.not_true, Bool.or_self, Bool.false_eq_true,
      if_false]

theorem requestRerun : Says.requestRerun := by
  intro n w s hw hover hrerun hreload
  have hnone : w.items.any (fun i => !(s.tile i.tile).reload.isEmpty) = false := by
    rw [List.any_eq_false]
    intro i hi
    rw [hreload i hi]
    exact Bool.false_ne_true
  simp only [exec, execRequestRerun, hw, hover, hrerun, hnone, Bool.not_true, Bool.or_self, Bool.false_eq_true, if_false]

/-- Settles O11: each command passes its checks, and each work item or work command that is ready takes the branch of its kind. -/
theorem framesAndKernelWork : Obligations.FramesAndKernelWork :=
  ⟨frameSubmit, frameTooLate, frameStart, frameDeadline, frameCancel, kernelLaunch, workItemStart, workCommandComplete,
    requestRerun⟩

/-! ### Epochs (R280 to R283) -/

theorem epochResolve : Says.epochResolve := by
  intro slot k w s hrun hep hact hwe
  refine ⟨fun hfail => ?_, fun st j hf ht hv => ?_⟩
  · have hfail' : (w.failure.isSome || w.tokSt.isSome) = true := by rwa [Bool.or_eq_true]
    simp only [exec, execEpochResolve, hrun, hep, hact, hwe, hfail', Option.isSome_none, ne_eq, not_true_eq_false, decide_false,
      Bool.or_self, Bool.false_eq_true, if_false, if_true]
  · simp only [exec, execEpochResolve, hrun, hep, hact, hwe, hf, ht, hv, Option.isSome_none, ne_eq, not_true_eq_false,
      decide_false, Bool.or_self, Bool.false_eq_true, if_false]
    split <;> rfl

theorem epochToken : Says.epochToken := by
  intro m ctx e commit count s hm he
  refine ⟨fun n q hq hact => ?_, fun hq => ?_⟩
  · simp only [exec, execEpochToken, hm, he, hq, hact, Option.isSome_none, Bool.not_true, Bool.false_eq_true, if_false]
  · simp only [exec, execEpochToken, hm, he, hq, Bool.not_true, Bool.false_eq_true, if_false]

theorem epochTokenApply : Says.epochTokenApply := by
  intro slot s hep hact hended
  have hnone : s.works.any (fun e => decide (e.2.ctx = (s.seq slot.toNat).ctx) && decide (e.2.epoch = (s.seq slot.toNat).epoch) &&
      !e.2.ended) = false := by
    rw [List.any_eq_false]
    intro e he hbad
    simp only [Bool.and_eq_true, decide_eq_true_eq, Bool.not_eq_true'] at hbad
    obtain ⟨⟨hctx, hepoch⟩, hnot⟩ := hbad
    rw [hended e he hctx hepoch] at hnot
    cases hnot
  have hact' : (s.seq slot.toNat).action.isNone = false := isNone_of_isSome (Option.isSome_iff_ne_none.2 hact)
  simp only [exec, execEpochTokenApply, hep, hact', hnone, decide_false, Bool.or_self, Bool.false_eq_true, if_false]

theorem epochTokenAcknowledgement : Says.epochTokenAcknowledgement := by
  intro m slot s hm
  refine ⟨s.modSeq slot.toNat (fun q => { q with acks := q.acks.filter (fun n => n ≠ m.node.toNat) }), ?_, ?_,
    fun n hn => State.seq_modSeq_ne s _ _ _ hn.symm, rfl⟩
  · simp only [exec, execEpochTokenAcknowledgement, hm, Bool.not_true, Bool.false_eq_true, if_false]
  · rw [State.seq_modSeq_self]

theorem epochAckTimeout : Says.epochAckTimeout := by
  intro slot k w s hacks htime
  have hrun (f : Seq → Seq) : (s.modSeq slot.toNat f).runningWork slot.toNat = s.runningWork slot.toNat := rfl
  have hsome : (s.seq slot.toNat).acks.isEmpty = false := List.isEmpty_eq_false_iff.2 hacks
  constructor <;> intro hw <;>
    simp only [exec, execEpochAckTimeout, hsome, Nat.not_lt.2 htime, hrun, hw, decide_false, Bool.or_self, Bool.false_eq_true,
      if_false]

/-! ### Pre-emption (R278, R279) -/

theorem slotPreempt : Says.slotPreempt := by
  intro slot dst s hv hrun hdst
  simp only [exec, execSlotPreempt, hv, hrun, hdst, Option.isSome_none, Bool.not_true, Bool.or_self, Bool.false_eq_true, if_false]
  rfl

theorem slotResume : Says.slotResume := by
  intro slot ok s s' h4 hfirst hv howed hruns
  simp only [exec, execSlotResume, h4, hfirst, hv, Nat.not_lt.2 howed, hruns, ne_eq, not_true_eq_false, decide_false, Bool.or_self,
    Bool.false_eq_true, if_false]

/-- Settles O12: each event of a slot finds the slot in the state the statement names and takes that branch. -/
theorem epochsAndPreemption : Obligations.EpochsAndPreemption :=
  ⟨epochResolve, epochToken, epochTokenApply, epochTokenAcknowledgement, epochAckTimeout, slotPreempt, slotResume⟩

end Sys2Proof.Machine

/-! Proofs for configuration sets and firmware (22): R461 to R466; functions and resets (14, 19): R314, R315, R401 to R405; and the
counters, dumps and trace (23): R469 to R475. -/

namespace Sys2Proof.Machine

/-! ### Configuration sets and firmware (R461 to R466) -/

@[simp] theorem State.inStaging_take (s : State) (h : Pkt) (a n : Nat) : (s.take h).inStaging a n = s.inStaging a n := rfl

theorem configStage : Says.configStage := by
  intro h addr len s hfree ha hlen
  refine (if_neg ?_).trans (host_next ha ((if_pos rfl).trans (if_neg (Nat.not_lt.2 hlen))))
  rw [hfree]
  exact Bool.false_ne_true

theorem configStageHbm : Says.configStageHbm := by
  intro h addr len s hfree ha hin hlen
  refine (if_neg ?_).trans (host_next ha ((if_neg (by decide)).trans ((if_neg ?_).trans (if_neg (Nat.not_lt.2 hlen)))))
  · rw [hfree]
    exact Bool.false_ne_true
  · rw [hin]
    exact Bool.false_ne_true

/-- What CONFIG_SWAP does once it is accepted. -/
theorem exec_configSwap {h : Pkt} {fenceOk : Bool} {s t : State} (hfree : s.cfgFree = true) (ha : s.accepts h true false true = true)
    (hrest : fenceOk = true → s.xfersAtRest = true)
    (ht : (match s.cfg.shadow with
      | none => (s.take h).cfgReply h .rejected
      | some c =>
        if (s.take h).swapRefused c then (s.take h).cfgReply h .rejected
        else if fenceOk then ((s.take h).pauseXfers.flip c).cfgReply h .ok
        else { s.take h with cfg := { s.cfg with fence := some (h, s.clk.wall) } }) = t) :
    exec (.configSwap h fenceOk) s = .next t := by
  have hgo : (!s.cfgFree || (fenceOk && !s.xfersAtRest)) = false := by
    cases fenceOk
    · rw [hfree]
      rfl
    · rw [hfree, hrest rfl]
      rfl
  exact (if_neg (ne_true_of_eq_false hgo)).trans (host_next ha ht)

theorem configSwap : Says.configSwap := by
  intro h fenceOk s hfree ha hrest
  refine ⟨fun hsh => exec_configSwap hfree ha hrest ?_, fun c hsh href => exec_configSwap hfree ha hrest ?_,
    fun c hsh href => exec_configSwap hfree ha hrest ?_⟩
  · rw [hsh]
  · rw [hsh]
    exact if_pos href
  · rw [hsh]
    exact if_neg (ne_true_of_eq_false href)

theorem configFenceTimeout : Says.configFenceTimeout := by
  intro h t s hf ht
  simp only [exec, execConfigFenceTimeout, hf, ht, if_true]

theorem fwStage : Says.fwStage := by
  intro h pa len s hfree ha hin hlen m hbad
  refine (if_neg ?_).trans (host_next ha ((if_neg ?_).trans ((if_neg (Nat.not_lt.2 hlen)).trans ((if_neg ?_).trans ?_))))
  · rw [hfree]
    exact Bool.false_ne_true
  · rw [hin]
    exact Bool.false_ne_true
  · exact ne_true_of_eq_false hbad
  · show (if (!m.st.imageOk m.bytes) = true then _ else _) = _
    cases m.st.imageOk m.bytes <;> rfl

theorem fwActivate : Says.fwActivate := by
  intro h w s hfree ha hstaged
  refine (if_neg ?_).trans (host_next ha ?_)
  · rw [hfree]
    exact Bool.false_ne_true
  · simp only [State.boot_take, hstaged]
    cases (s.take h).imageOk w.1 <;> rfl

/-- Unsealing changes the sealing key and the records it opens, nothing else of the steward's state. -/
theorem Boot.unseal_eq (b : Boot) (v : Nat) : ∃ key opened, b.unseal v = { b with sealKey := key, opened := opened } := by
  unfold Boot.unseal
  split
  · exact ⟨_, _, rfl⟩
  · exact ⟨_, _, rfl⟩

theorem commandInterpretationResumes : Says.commandInterpretationResumes := by
  intro h img ver sec sup s hrun hp hstaged
  simp only [exec, execCommandInterpretationResumes, hp, hstaged, hrun, Bool.not_true, Bool.false_eq_true, if_false]
  refine ⟨_, rfl, ?_⟩
  generalize hb : Boot.unseal _ sec = b
  obtain ⟨key, opened, hu⟩ := Boot.unseal_eq _ sec
  rw [← hb, hu]
  exact ⟨rfl, rfl, rfl, rfl, rfl, rfl⟩

/-- Settles O13: no swap waits for its fence, so each command goes on to its own checks; what resumes runs the staged image. -/
theorem configurationAndFirmware : Obligations.ConfigurationAndFirmware :=
  ⟨configStage, configStageHbm, configSwap, configFenceTimeout, fwStage, fwActivate, commandInterpretationResumes⟩

/-! ### Functions off and on (R314, R315) -/

@[simp] theorem State.isDisabled_take (s : State) (h : Pkt) (k i : Nat) : (s.take h).isDisabled k i = s.isDisabled k i := rfl

theorem functionDisable : Says.functionDisable := by
  intro h kind mode index s ha hself hon hnone
  refine host_next ha ((if_neg ?_).trans ?_)
  · simp only [Bool.and_eq_true, decide_eq_true_eq, not_and]
    exact hself
  · simp only [State.disabling_take, hnone, State.isDisabled_take, hon, Bool.false_eq_true, if_false, State.disabled_take]

theorem functionEnable : Says.functionEnable := by
  intro h kind index device mem s ha hnone
  refine host_next ha ((if_neg (ne_true_of_eq_false hnone)).trans ?_)
  simp only [State.isDisabled_take, Bool.or_eq_true, decide_eq_true_eq]

/-! ### Resets (R194, R401 to R405) -/

@[simp] theorem State.tileOff_take (s : State) (h : Pkt) (t : Nat) : (s.take h).tileOff t = s.tileOff t := rfl

theorem engineReset : Says.engineReset := by
  intro h t s ha hoff
  exact host_next ha (if_neg (ne_true_of_eq_false hoff))

theorem partitionReset : Says.partitionReset := by
  intro h p s ha hp
  exact host_next ha (if_neg (ne_true_of_eq_false (isNone_of_isSome hp)))

theorem chipResetWrite : Says.chipResetWrite := by
  refine fun s => ⟨fun hlive hmem hr => ?_, fun key hkey => ?_⟩
  · refine if_pos ?_
    rw [hlive, hmem, hr]
    rfl
  · refine if_neg ?_
    have hne : key.toNat ≠ 0xC01D0B74 := fun h => hkey (BitVec.eq_of_toNat_eq h)
    rw [decide_eq_false hne]
    exact Bool.false_ne_true

theorem verifyingPass : Says.verifyingPass := by
  intro p upsets r s hr
  simp only [exec, execVerifyingPass, hr]

theorem resetEscalation : Says.resetEscalation := fun _ => rfl

theorem generations : Says.generations := by
  intro g h1 h255
  unfold nextGen
  split <;> omega

/-- Settles O14: the checks of each command pass, and each reset is asked for, verified or escalated as the model's own steps
say. -/
theorem functionsAndResets : Obligations.FunctionsAndResets :=
  ⟨functionDisable, functionEnable, engineReset, partitionReset, chipResetWrite, verifyingPass, resetEscalation, generations⟩

/-! ### Counters, dumps and trace (R469 to R475) -/

theorem counterSnapshot : Says.counterSnapshot := by
  intro h instant s ha t hlo hhi hnone
  refine host_next ha ((if_neg ?_).trans (if_neg ?_))
  · rw [Bool.or_eq_true, not_or]
    exact ⟨fun hb => Nat.not_lt.2 hlo (of_decide_eq_true hb), fun hb => Nat.not_lt.2 hhi (of_decide_eq_true hb)⟩
  · rw [State.snapPending_take, hnone]
    exact Bool.false_ne_true

theorem counterSnapshotBounds : Says.counterSnapshotBounds := by
  intro h instant s ha hz hout
  refine host_next ha (if_pos ?_)
  simp only [State.clk_take, hz, if_false, Bool.or_eq_true, decide_eq_true_eq]
  exact hout

theorem counterSnapshotLatch : Says.counterSnapshotLatch := by
  intro h t s hp ht
  simp only [exec, execCounterSnapshotLatch, hp, ht, if_true]

theorem dumpRead : Says.dumpRead := by
  intro h handle dst len d s ha hd hin hlen htgt
  refine host_next ha ?_
  simp only [State.dumps_take, hd, hin, Nat.not_lt.2 hlen, htgt, Bool.not_true, Bool.false_eq_true, if_false, State.boot_take]

theorem traceStart : Says.traceStart := by
  intro h source ctx base size s hsrc ha hring hrun
  refine host_next ha ((if_neg ?_).trans ((if_neg (ne_true_of_eq_false hrun)).trans ?_))
  · rw [hring]
    exact Bool.false_ne_true
  · simp only [decide_eq_true_eq, State.trace_take]

theorem traceStop : Says.traceStop := fun _ _ ha => host_next ha rfl

/-- Settles O15: the instant, the dump and the ring pass the checks of their command. -/
theorem countersDumpsAndTrace : Obligations.CountersDumpsAndTrace :=
  ⟨counterSnapshot, counterSnapshotBounds, counterSnapshotLatch, dumpRead, traceStart, traceStop⟩

end Sys2Proof.Machine

/-! Proofs for the host port (14, 17): queue pair registers R285 to R289, the registers of BAR0 R36, R355, R356, R394, configuration
space and the HDM window R351 to R360; attestation R362, R363, R452; and SMBus telemetry (20) R430, R431. -/

namespace Sys2Proof.Machine

/-! ### When the windows act (R354 to R356) -/

theorem State.running_of_live {s : State} (hr : s.boot.inReset = false) (hl : s.live = true) : s.running = true := by
  rw [State.running, hr, hl]
  rfl

/-- The windows act on what is written to them on the occasion the statements name. -/
theorem State.barOn_of_acts {s : State} (ha : Says.barActs s) : s.barOn = true := by
  obtain ⟨hmem, hr, hlive, hdev⟩ := ha
  rw [State.barOn, hmem, State.running_of_live hr hlive, decide_eq_true hdev]
  rfl

theorem State.barReads_of_acts {s : State} (ha : Says.barActs s) : s.barReads = true := by
  obtain ⟨hmem, hr, hlive, -⟩ := ha
  rw [State.barReads, hmem, hr, hlive]
  rfl

theorem State.barOn_of_memDisabled {s : State} (h : s.port.memEnable = false) : s.barOn = false := by
  rw [State.barOn, h]
  rfl

theorem State.barReads_of_memDisabled {s : State} (h : s.port.memEnable = false) : s.barReads = false := by
  rw [State.barReads, h]
  rfl

/-! ### Queue pairs (R285 to R289) -/

/-- What a write of one queue pair leaves: the other pairs and all else. -/
theorem State.modQp_frame (s : State) (n : Nat) (f : Qp → Qp) :
    (∀ m, m ≠ n → (s.modQp n f).qp m = s.qp m) ∧ { s.modQp n f with qps := s.qps } = s :=
  ⟨fun _ hm => State.qp_modQp_ne s _ _ _ hm.symm, rfl⟩

theorem exec_qpEnable {n : BitVec 12} {v : W64} {s : State} (ha : Says.barActs s) (hv : bit v.toNat 0 = true) :
    exec (.qpEnable n v) s = .next (s.qpOn n.toNat v.toNat) := by
  simp only [exec, execQpEnable, State.barOn_of_acts ha, hv, Bool.and_self, if_true]

theorem qpEnable : Says.qpEnable := by
  intro n v s ha hv hen hsq hcq hctx
  refine ⟨s.qpOn n.toNat v.toNat, exec_qpEnable ha hv, ?_, State.modQp_frame s _ _⟩
  have hok : (!bit v.toNat 3 && (s.ctx? (bits v.toNat 8 8)).isNone) = false := by
    obtain h3 | hx := hctx
    · rw [h3]
      rfl
    · rw [isNone_of_isSome hx, Bool.and_false]
  rw [State.qpOn, State.qp_modQp_self]
  simp only [hen, Qp.setCtl, hsq, hcq, hok, Bool.not_true, Bool.or_self, Bool.false_eq_true, if_false]

theorem qpEnableBad : Says.qpEnableBad := by
  intro n v s ha hv hen hbad
  refine ⟨s.qpOn n.toNat v.toNat, exec_qpEnable ha hv, ?_⟩
  have hbad' : (!ringLog (s.qp n.toNat).sqLog || !ringLog (s.qp n.toNat).cqLog ||
      (!bit v.toNat 3 && (s.ctx? (bits v.toNat 8 8)).isNone)) = true := by
    obtain h | h | ⟨h3, hx⟩ := hbad
    · rw [h]
      rfl
    · rw [h, Bool.not_false, Bool.or_true, Bool.true_or]
    · rw [h3, hx, Option.isNone_none, Bool.not_false, Bool.and_self, Bool.or_true]
  rw [State.qpOn, State.qp_modQp_self]
  simp only [hen, Qp.setCtl, hbad', Bool.false_eq_true, if_false, if_true]
  exact ⟨trivial, rfl, trivial, rfl⟩

theorem qpDisable : Says.qpDisable := by
  intro n v s ha hv hen
  refine ⟨s.qpOff n.toNat v.toNat, ?_, ?_, State.modQp_frame s _ _⟩
  · simp only [exec, execQpDisable, State.barOn_of_acts ha, hv, Bool.not_false, Bool.and_self, if_true]
  · rw [State.qpOff, State.qp_modQp_self]
    exact if_pos hen

theorem sqTail : Says.sqTail := by
  intro n i ok s ha hact
  refine ⟨fun hi hok => ?_, fun hi hok => ?_, fun hi => ?_⟩
  · obtain ⟨rfl, hring⟩ := (Bool.and_eq_true _ _).mp hok
    simp only [exec, execSqTail, State.barOn_of_acts ha, hact, Nat.not_le.2 hi, hring, Bool.not_true, Bool.or_self,
      Bool.false_eq_true, if_false]
  · have hbad : (!ok || !s.ringOk (s.qp n.toNat).sqHbm (s.qp n.toNat).sqBase) = true := by
      rw [← Bool.not_and, hok]
      rfl
    simp only [exec, execSqTail, State.barOn_of_acts ha, hact, Nat.not_le.2 hi, hbad, Qp.fail, Bool.not_true, Bool.or_self,
      Bool.false_eq_true, if_false, if_true]
  · simp only [exec, execSqTail, State.barOn_of_acts ha, hact, hi, Qp.fail, Bool.not_true, Bool.or_self, Bool.false_eq_true,
      if_false, if_true]

theorem cqHead : Says.cqHead := by
  intro n i s ha hact
  refine ⟨fun hi => ?_, fun hi => ?_⟩
  · simp only [exec, execCqHead, State.barOn_of_acts ha, hact, Nat.not_le.2 hi, Qp.freed, Bool.not_true, Bool.or_self,
      Bool.false_eq_true, if_false]
  · simp only [exec, execCqHead, State.barOn_of_acts ha, hact, hi, Qp.fail, Bool.not_true, Bool.or_self, Bool.false_eq_true,
      if_false, if_true]

theorem msixCoalesceTimer : Says.msixCoalesceTimer := by
  intro n t s hrun hold ht
  simp only [exec, execMsixCoalesceTimer, hold, hrun, ht, decide_true, Bool.and_self, if_true]

/-- Settles O16: the pair's registers act in their window, and the sizes, the context and the index pick the branch. -/
theorem queuePairRegisters : Obligations.QueuePairRegisters :=
  ⟨qpEnable, qpEnableBad, qpDisable, sqTail, cqHead, msixCoalesceTimer⟩

/-! ### Registers of BAR0 (R36, R354 to R356, R394, R473) -/

theorem commonCountLowRead : Says.commonCountLowRead := by
  intro s ha
  have hdev : s.boot.devState ≠ 3 := ha.2.2.2
  simp only [exec, execCommonCountLowRead, State.barReads_of_acts ha, hdev, Bool.not_true, Bool.false_eq_true, if_false]

theorem headWrites : Says.headWrites := by
  intro e h s ha
  have he : e.toNat % 4096 = e.toNat := Nat.mod_eq_of_lt e.isLt
  have hh : h.toNat % 2 ^ 32 = h.toNat := Nat.mod_eq_of_lt h.isLt
  constructor
  · simp only [exec, execEvtHeadWrite, State.barOn_of_acts ha, State.evtHead, he, if_true]
  · simp only [exec, execTraceHeadWrite, State.barOn_of_acts ha, State.traceHead, hh, if_true]

theorem registerWrite : Says.registerWrite := by
  intro off wide v s ha
  constructor <;> intro ho
  · simp only [exec, execRegisterWrite, State.barOn_of_acts ha, ho, decide_true, Bool.and_self, if_true]
  · simp only [exec, execRegisterWrite, ho, decide_false, Bool.and_false, Bool.false_eq_true, if_false]

theorem barOff : Says.barOff := by
  intro n v i ok e h key off wide b w s hmem c hc
  have hoff := State.barOn_of_memDisabled hmem
  have hreads := State.barReads_of_memDisabled hmem
  simp only [List.mem_cons, List.not_mem_nil, or_false] at hc
  obtain rfl | rfl | rfl | rfl | rfl | rfl | rfl | rfl | rfl | rfl := hc
  case inr.inr.inr.inr.inl =>
    simp only [exec, execChipResetWrite, hmem, Bool.and_false, Bool.false_and, Bool.false_eq_true, if_false]
  all_goals
    simp only [exec, execQpEnable, execQpDisable, execSqTail, execCqHead, execCommonCountLowRead, execEvtHeadWrite,
      execTraceHeadWrite, execRegisterWrite, execHdmDecoderCommit, hoff, hreads, Bool.false_and, Bool.not_false, Bool.true_or,
      Bool.false_eq_true, if_false, if_true]

/-- Settles O17: memory space enabled decides whether a register acts, alignment whether a register write does. -/
theorem registerAccess : Obligations.RegisterAccess := ⟨commonCountLowRead, headWrites, registerWrite, barOff⟩

/-! ### Configuration space and the HDM window (R351 to R360) -/

theorem configRetry : Says.configRetry := by
  intro w r v s hperst hsup hlive hretry
  have hretry' : (s.boot.retry || s.boot.inReset) = true := by rwa [Bool.or_eq_true]
  simp only [exec, execConfigRequest, hperst, hsup, hlive, hretry', Bool.and_self, Bool.true_or, Bool.not_true, Bool.false_eq_true,
    if_false, if_true]

theorem configRequest : Says.configRequest := by
  intro r v s hperst hsup hlive hretry hreset
  constructor <;>
    simp only [exec, execConfigRequest, hperst, hsup, hlive, hretry, hreset, Bool.and_self, Bool.true_or, Bool.or_self,
      Bool.not_true, Bool.false_eq_true, if_false, if_true]

theorem hdmDecoderCommit : Says.hdmDecoderCommit := by
  intro base ways s ha
  constructor
  · exact congrArg Host.Outcome.next ((if_neg (by rw [State.barOn_of_acts ha]; decide)).trans (if_neg (by decide)))
  · intro hw
    have hne : ways.toNat ≠ 1 := fun h => hw (BitVec.eq_of_toNat_eq h)
    simp only [exec, execHdmDecoderCommit, State.barOn_of_acts ha, hne, ne_eq, not_false_eq_true, Bool.not_true, Bool.false_eq_true,
      if_false, if_true]

theorem cxlMemRead : Says.cxlMemRead := by
  intro addr len pa us s hpa
  refine ⟨fun key hkey hav => ?_, fun late hkey => ?_⟩
  · simp only [exec, execCxlMemRead, hpa, hkey, hav, Bool.not_true, Bool.or_self, Bool.false_eq_true, if_false]
  · simp only [exec, execCxlMemRead, hpa, hkey]

/-- Counting what crosses one dale's saddle leaves the stacks. -/
theorem State.stack_countRoute_to (s : State) (b : Option Nat) (n k : Nat) : (s.countRoute none b n).stack k = s.stack k := by
  cases b <;> rfl

theorem cxlMemWrite : Says.cxlMemWrite := by
  intro addr data poison pa us s hpa u
  refine ⟨fun key hkey hav => ?_, fun hkey => ?_⟩
  · simp only [u] at hkey hav ⊢
    simp only [exec, execCxlMemWrite, hpa, hkey, State.stack_countRoute_to, hav, Bool.not_true, Bool.false_eq_true, if_false]
  · simp only [u] at hkey ⊢
    simp only [exec, execCxlMemWrite, hpa, hkey]

theorem hotReset : Says.hotReset := fun _ hrun => congrArg Host.Outcome.next (if_pos hrun)

/-- Settles O18: the port's state and the range's key pick the branch of each request. -/
theorem configurationSpaceAndCxlMemory : Obligations.ConfigurationSpaceAndCxlMemory :=
  ⟨configRetry, configRequest, hdmDecoderCommit, hotReset, cxlMemRead, cxlMemWrite, fun _ _ => rfl⟩

/-! ### Attestation (R362, R363, R452) -/

/-- The mailbox answers with the response outside test mode, and with an error in it. -/
theorem State.spdm_eq {s : State} (hrun : s.running = true) (hretry : s.boot.retry = false) (r : Spdm) :
    s.spdm r = { s with port := { s.port with doe := some (if s.boot.testMode then .error 0x07 else r) } } := by
  rw [State.spdm, hrun, hretry]
  rfl

theorem spdm_of_answers {s : State} (ha : Says.doeAnswers s) (r : Spdm) :
    s.spdm r = { s with port := { s.port with doe := some r } } := by
  obtain ⟨hrun, hretry, htest⟩ := ha
  rw [State.spdm_eq hrun hretry, htest]
  rfl

theorem spdmAnswers : Says.spdmAnswers := by
  intro slot code s ha hslot
  have answer (r : Spdm) : (.next (s.spdm r) : Host.Outcome State Fault Refusal) =
      .next { s with port := { s.port with doe := some r } } := congrArg Host.Outcome.next (spdm_of_answers ha r)
  refine ⟨answer _, answer _, answer _, answer _, ?_, answer _, ?_⟩
  · simp only [exec, execGetCertificate, hslot, if_true]
    exact answer _
  · simp only [exec, execDoeAbort, ha.1, ha.2.1, Bool.not_false, Bool.and_self, if_true]

/-- The measurement block that one index from 1 to 7 asks for. -/
theorem State.blocks_one (s : State) {i : Nat} (h1 : 1 ≤ i) (h7 : i ≤ 7) : s.blocks i = [(i, s.measure i)] := by
  interval_cases i <;> rfl

theorem spdmSigned : Says.spdmSigned := by
  intro slot nonce i s ha hslot h1 h7
  constructor
  · simp only [exec, execChallenge, hslot, if_true, spdm_of_answers ha]
  · simp only [exec, execGetMeasurements, State.blocks_one s h1 h7, List.isEmpty_cons, Bool.false_eq_true, if_false,
      spdm_of_answers ha]

theorem spdmTestMode : Says.spdmTestMode := by
  intro slot nonce i s hrun hretry htest c hc
  have answer (r : Spdm) : (.next (s.spdm r) : Host.Outcome State Fault Refusal) =
      .next { s with port := { s.port with doe := some (.error 0x07) } } := by
    rw [State.spdm_eq hrun hretry, htest]
    rfl
  simp only [List.mem_cons, List.not_mem_nil, or_false] at hc
  obtain rfl | rfl | rfl | rfl | rfl | rfl | rfl := hc <;> exact answer _

/-- Settles O19: every request's answer goes through the mailbox's one rule. -/
theorem spdmMailbox : Obligations.SpdmMailbox := ⟨spdmAnswers, spdmSigned, spdmTestMode⟩

/-! ### SMBus telemetry (R430, R431) -/

theorem smbReads : Says.smbReads := by
  intro col s hsup
  have answer (v : Nat) : (.next (s.smbAnswer v) : Host.Outcome State Fault Refusal) = .next (Says.smbSays s v) :=
    congrArg Host.Outcome.next (if_pos hsup)
  have hquads : s.quadList.map (fun x => x.junction) = (List.range 64).map (fun q => (s.quad q).junction) := by
    rw [State.quadList, List.map_map]
    rfl
  refine ⟨answer _, ?_, answer _, answer _, answer _, answer _⟩
  rw [← hquads]
  exact answer _

theorem smbWrites : Says.smbWrites := by
  intro watts mask s hsup
  refine ⟨fun hw => ?_, fun hw => ?_, ?_⟩
  · simp only [exec, execTrayLimitWWrite, hsup, hw, decide_true, Bool.and_self, if_true]
  · simp only [exec, execTrayLimitWWrite, Nat.not_le.2 hw, decide_false, Bool.and_false, Bool.false_eq_true, if_false]
  · simp only [exec, execAlertMaskWrite, hsup, if_true]

/-- Settles O20: with the supplies applied every SMBus row acts. -/
theorem smbusCommands : Obligations.SmbusCommands := ⟨smbReads, smbWrites⟩

end Sys2Proof.Machine

/-! Proofs for rates, governors, power and temperature (02, 20): R30, R391, R417 to R429; and for the pins, boot and JTAG (17, 21, 22):
R351 to R354, R419, R432, R451 to R456. -/

namespace Sys2Proof.Machine

/-! ### Rate monitors and governors (R30, R420, R424, R427) -/

/-- What a change of one quad leaves: the other quads and all else. -/
theorem State.modQuad_frame (s : State) (n : Nat) (f : Quad → Quad) :
    (∀ m, m ≠ n → (s.modQuad n f).quad m = s.quad m) ∧ { s.modQuad n f with quads := s.quads } = s :=
  ⟨fun _ hm => State.quad_modQuad_ne s _ _ _ hm.symm, rfl⟩

theorem rateMonitorWindow : Says.rateMonitorWindow := by
  intro q rate j v s hrun hw
  refine ⟨_, congrArg Host.Outcome.next (if_neg ?_), State.quad_modQuad_self .., State.modQuad_frame ..⟩
  rw [hrun, decide_eq_false (Nat.not_le.2 hw)]
  decide

theorem governorEvaluation : Says.governorEvaluation := by
  intro p want pol s hpol
  simp only [exec, execGovernorEvaluation, hpol]

theorem efficiencyMeasurement : Says.efficiencyMeasurement := by
  intro q best p pol s hpart hpol hmode hgov
  refine ⟨s.modQuad q.toNat (fun x => { x with gov := pol.clip best.toNat }), ?_, State.quad_modQuad_self ..,
    State.modQuad_frame ..⟩
  simp only [exec, execEfficiencyMeasurement, hpart, Option.bind_some, hpol, Option.map_some, hmode, hgov, decide_true, Bool.and_self,
    if_true]

/-- Settles O21: the window, the policy and the mode pick the branch, and one quad or each governed one changes. -/
theorem ratesAndGovernors : Obligations.RatesAndGovernors :=
  ⟨rateMonitorWindow, governorEvaluation, efficiencyMeasurement, fun _ _ _ _ => rfl⟩

/-! ### Power and thermal limits (R391, R417, R418, R426, R428, R429) -/

theorem powerLimiterStep : Says.powerLimiterStep := by
  intro s hrun
  refine ⟨fun hcap hlow ht => ?_, fun hcap hraise ht => ?_, fun hcap hraise => ?_⟩
  · have hlow' : (s.power.lowering || decide (s.capNow < s.power.w1ms)) = true := by rwa [Bool.or_eq_true, decide_eq_true_iff]
    simp only [exec, execPowerLimiterStep, hrun, hcap, hlow', ht, decide_true, Bool.and_self, Bool.not_true, Bool.false_eq_true,
      if_false, if_true]
  · simp only [exec, execPowerLimiterStep, hrun, Nat.not_lt.2 hcap, hraise, ht, decide_true, decide_false, Bool.false_and,
      Bool.and_self, Bool.not_true, Bool.false_eq_true, if_false, if_true]
  · simp only [exec, execPowerLimiterStep, hrun, Nat.not_lt.2 hcap, Nat.not_le.2 hraise, decide_false, Bool.false_and,
      Bool.not_true, Bool.false_eq_true, if_false]

theorem thermalLimiterStep : Says.thermalLimiterStep := by
  intro q temp s hrun h105 x
  simp only [x]
  refine ⟨fun hhot ht => ?_, fun hcool hceil ht => ?_, fun hlo hhi => ?_⟩
  · simp only [exec, execThermalLimiterStep, hrun, Nat.not_lt.2 h105, hhot, ht, lowerCeil, Bool.not_true, Bool.false_eq_true,
      if_false, if_true]
  · have hhot : ¬ 100 ≤ temp.toNat := by omega
    simp only [exec, execThermalLimiterStep, hrun, Nat.not_lt.2 h105, hhot, hcool, hceil, ht, raiseCeil, decide_true, Bool.and_self,
      Bool.not_true, Bool.false_eq_true, if_false, if_true]
  · simp only [exec, execThermalLimiterStep, hrun, Nat.not_lt.2 h105, Nat.not_le.2 hhi, Nat.not_le.2 hlo, decide_false,
      Bool.false_and, Bool.not_true, Bool.false_eq_true, if_false]

theorem thermalOutOfConditions : Says.thermalOutOfConditions := by
  intro q temp s hrun h105
  have hhot : 100 ≤ temp.toNat := by omega
  simp only [exec, execThermalLimiterStep, hrun, h105, hhot, Bool.not_true, Bool.false_eq_true, if_false, if_true]
  split
  · exact ⟨_, rfl, rfl⟩
  · exact ⟨_, rfl, rfl⟩

/-- Turning off each quad of a list leaves every one of them off, and those that were off before. -/
theorem quadOff_foldl {l : List Nat} {s : State} {q : Nat} (h : q ∈ l ∨ (s.quad q).off = true) :
    ((l.foldl (fun s q => s.modQuad q (fun x => { x with off := true })) s).quad q).off = true := by
  induction l generalizing s with
  | nil => simpa using h
  | cons a l ih =>
    refine ih ?_
    by_cases ha : a = q
    · right
      rw [ha, State.quad_modQuad_self]
    · rw [State.quad_modQuad_ne s _ _ _ ha]
      exact h.imp_left fun hq => (List.mem_cons.1 hq).resolve_left (Ne.symm ha)

/-- With every quad turned off each of the 64 is off. -/
theorem State.off_allQuadsOff (s : State) {q : Nat} (hq : q < 64) : (s.allQuadsOff.quad q).off = true := by
  have h := quadOff_foldl (l := List.range 64) (s := s) (.inl (List.mem_range.2 hq))
  simp only [State.allQuadsOff, State.quad] at h ⊢
  exact h

theorem State.quad_withPins (s : State) (p : Pins) (q : Nat) : ({ s with pins := p } : State).quad q = s.quad q := rfl

theorem thermtrip : Says.thermtrip := by
  intro temp s hsup
  refine ⟨fun hhot => ⟨{ s.allQuadsOff with pins := { s.pins with thermtripN := false } }, ?_, rfl, fun q hq => ?_⟩,
    fun hcool => ?_⟩
  · simp only [exec, execThermtrip, hhot, hsup, decide_true, Bool.and_self, if_true]
  · rw [State.quad_withPins]
    exact s.off_allQuadsOff hq
  · simp only [exec, execThermtrip, Nat.not_le.2 hcool, decide_false, Bool.false_and, Bool.false_eq_true, if_false]

theorem regulatorWindow : Says.regulatorWindow := by
  intro q ret code ns s hrun
  refine ⟨fun hns hoff => ?_, fun hns => ?_⟩
  · refine if_neg ?_
    have hns' : ¬ ns ≤ 10000 := Nat.not_le.2 hns
    cases ho : (s.quad q.toNat).off
    · simp [hns', hrun]
    · obtain ⟨rfl, hret⟩ := hoff ho
      simpa [hns', hrun, ho] using hret
  · simp only [exec, execRegulatorWindow, hns, decide_true, Bool.true_or, if_true]

theorem outOfConditions : Says.outOfConditions := by
  intro rail s hrun
  refine congrArg Host.Outcome.next (if_neg ?_)
  rw [hrun]
  decide

/-- Settles O22: each limiter's bands exclude each other, and every quad is in the 64 that THERMTRIP turns off. -/
theorem powerAndThermalLimits : Obligations.PowerAndThermalLimits :=
  ⟨powerLimiterStep, thermalLimiterStep, thermalOutOfConditions, thermtrip, regulatorWindow, outOfConditions⟩

/-! ### Reset pins and supplies (R352, R419, R432, R453, R454, R486, R500) -/

/-- A low pulse of 10 us or more counts (R352). -/
theorem State.pulse_of_long (s : State) {ns : Nat} (h : 10000 ≤ ns) : s.pulse ns = true := by
  rw [State.pulse, decide_eq_true (show 1000 ≤ ns by omega), decide_eq_true h]
  rfl

/-- A low pulse of less than 1 us counts for nothing (R352). -/
theorem State.pulse_of_short (s : State) {ns : Nat} (h : ns < 1000) : s.pulse ns = false := by
  rw [State.pulse, decide_eq_false (Nat.not_le.2 h)]
  rfl

/-- A pin that resets a package that runs resets it whole. -/
theorem State.pinReset_of_live {s : State} (h : s.live = true) : s.pinReset = s.chipReset .chip := if_pos h

theorem resetPulses : Says.resetPulses := by
  intro ns s hsup hlive
  have long (h : 10000 ≤ ns) : (s.pins.supplies && s.pulse ns) = true := by rw [hsup, s.pulse_of_long h]; rfl
  have short (h : ns < 1000) : (s.pins.supplies && s.pulse ns) = false := by rw [s.pulse_of_short h, Bool.and_false]
  refine ⟨fun h => ?_, fun h htray => ?_, fun h => ?_, fun h => ⟨?_, ?_, ?_⟩⟩
  · exact congrArg Host.Outcome.next ((if_pos (long h)).trans (State.pinReset_of_live hlive))
  · exact congrArg Host.Outcome.next ((if_pos (long h)).trans ((if_pos htray).trans (State.pinReset_of_live hlive)))
  · exact congrArg Host.Outcome.next ((if_pos (long h)).trans (congrArg State.allQuadsOff (State.pinReset_of_live hlive)))
  all_goals exact congrArg Host.Outcome.next (if_neg (ne_true_of_eq_false (short h)))

theorem perstN : Says.perstN := by
  intro ns s hsup
  refine ⟨fun h htray => ?_, congrArg Host.Outcome.next (if_pos hsup)⟩
  refine congrArg Host.Outcome.next ((if_pos ?_).trans (if_neg (ne_true_of_eq_false htray)))
  rw [hsup, s.pulse_of_long h]
  rfl

theorem pwrgoodRise : Says.pwrgoodRise := by
  intro s hsup hpg hlive
  simp only [exec, execPwrgoodRise, hsup, hpg, hlive, Bool.not_false, Bool.and_self, if_true]

theorem supplies : Says.supplies := fun _ _ _ =>
  ⟨rfl, fun hsup => congrArg Host.Outcome.next (if_neg (ne_true_of_eq_false hsup))⟩

/-- Settles O23: the width of the pulse decides whether it counts, the pins which reset it is. -/
theorem resetPinsAndSupplies : Obligations.ResetPinsAndSupplies := ⟨resetPulses, perstN, pwrgoodRise, supplies⟩

/-! ### Boot and JTAG (R354, R451, R452, R455, R456) -/

theorem trayResetNRelease : Says.trayResetNRelease := by
  intro testN b s hreset hsup hpg hlive hjtag htray
  have hlive' : (s.pins.faultN && s.pins.thermtripN) = true := hlive
  simp only [exec, execTrayResetNRelease, State.mayBoot, State.live, hreset, hsup, hpg, hlive', hjtag, htray, ne_eq, not_false_eq_true,
    decide_true, Bool.or_false, Bool.not_true, Bool.and_false, Bool.and_self, Bool.false_eq_true, if_true, if_false]

/-- Events raised at the end of a boot leave the steward's own state. -/
theorem State.boot_bootEvents (s : State) (b : BootInputs) : (s.bootEvents b).boot = s.boot := by
  obtain ⟨log, port, h⟩ := State.raiseAll_eq _ s
  rw [State.bootEvents, h]

/-- A boot that fails: chip reset left, DEV_STATE 3 with the code, FAULT_N asserted (R455, R456). -/
theorem State.bootRuns_of_error {s : State} {b : BootInputs} {e : Nat} (h : bootError b s.boot.testMode = some e) :
    (s.bootRuns b).boot.inReset = false ∧ (s.bootRuns b).boot.devState = 3 ∧ (s.bootRuns b).boot.error = e ∧
      (s.bootRuns b).pins.faultN = false := by
  simp only [State.bootRuns, h]
  exact ⟨rfl, rfl, rfl, rfl⟩

/-- A boot without an error: chip reset left, DEV_STATE 0 with the image's versions, configuration retry until the firmware is
ready (R354, R455). -/
theorem State.bootRuns_of_noError {s : State} {b : BootInputs} (h : bootError b s.boot.testMode = none) :
    (s.bootRuns b).boot.inReset = false ∧ (s.bootRuns b).boot.devState = 0 ∧ (s.bootRuns b).boot.secVer = b.imageSecVer ∧
      (s.bootRuns b).boot.fwVer = b.imageFwVer % 2 ^ 32 ∧ (s.bootRuns b).boot.retry = true ∧ (s.bootRuns b).pins = s.pins := by
  unfold State.bootRuns
  rw [h]
  extract_lets k l s1 old w clk s2 s3
  have hpins : s1.pins = s.pins :=
    (State.enumerate_outer _ b).1.trans ((State.trainHbm_outer _ b).1.trans (State.selfTest_outer s b).1)
  obtain ⟨key, opened, hu⟩ := Boot.unseal_eq w b.imageSecVer
  clear_value s1
  have hboot : s3.boot = { w with sealKey := key, opened := opened } := (s2.boot_bootEvents b).trans hu
  refine ⟨congrArg Boot.inReset hboot, congrArg Boot.devState hboot, congrArg Boot.secVer hboot, congrArg Boot.fwVer hboot,
    congrArg Boot.retry hboot, ?_⟩
  exact (State.bootEvents_outer s2 b).1.trans hpins

theorem bootOutcome : Says.bootOutcome := by
  intro testN b s hreset hsup hpg hlive hjtag htray
  refine ⟨_, trayResetNRelease testN b s hreset hsup hpg hlive hjtag htray, ?_⟩
  generalize hr : ({ s with
    pins := { s.pins with trayResetN := true, qspiHighZ := false }
    boot := { s.boot with testMode := !testN } } : State) = r
  have htest : r.boot.testMode = !testN := by rw [← hr]
  have hfault : r.pins.faultN = s.pins.faultN := by rw [← hr]
  rw [← htest]
  refine ⟨?_, fun e he => (State.bootRuns_of_error he).2, fun hnone => ?_⟩
  · cases he : bootError b r.boot.testMode with
    | none => exact (State.bootRuns_of_noError he).1
    | some e => exact (State.bootRuns_of_error he).1
  · obtain ⟨-, hdev, hsec, hfw, hretry, hpins⟩ := State.bootRuns_of_noError hnone
    exact ⟨hdev, hsec, hfw, hretry, (congrArg Pins.faultN hpins).trans hfault⟩

theorem stewardFirmwareReady : Says.stewardFirmwareReady := by
  intro s hrun hdev
  simp only [exec, execStewardFirmwareReady, hrun, hdev, decide_true, Bool.and_self, if_true]

theorem jtag : Says.jtag := by
  intro code ps pre s hsup
  refine ⟨fun hlive => ?_, congrArg Host.Outcome.next (if_pos hsup), congrArg Host.Outcome.next (if_pos hsup),
    congrArg Host.Outcome.next (if_pos hsup)⟩
  exact congrArg Host.Outcome.next ((if_pos hsup).trans (State.pinReset_of_live hlive))

/-- Settles O24: with nothing else holding reset the release boots, and the boot's error decides its outcome. -/
theorem bootAndJtag : Obligations.BootAndJtag := ⟨trayResetNRelease, bootOutcome, stewardFirmwareReady, jtag⟩

end Sys2Proof.Machine

/-! Proofs for faults, scrubbing and patrol (09, 16, 19): R186 to R195, R333, R334, R398 to R410; for the Ohmist ports, packets and
flows (18): R367 to R382, R406 to R408, R448; and for barriers between packages and the common count (02, 15): R33 to R36, R322,
R323, R387. -/

namespace Sys2Proof.Machine

/-! ### Faults (R333, R392, R398 to R400) -/

theorem lockstepMismatch : Says.lockstepMismatch := by
  refine fun t s => ⟨fun hr => congrArg Host.Outcome.next (if_neg (ne_true_of_eq_false hr)), fun hrun hr => ?_⟩
  simp only [exec, execLockstepMismatch, hrun, hr, decide_false, Bool.or_self, Bool.false_eq_true, if_false]

theorem saddleFailed : Says.saddleFailed := by
  refine fun k s hr => ⟨fun hk => ?_, fun hk hnot => ?_⟩
  · simp only [exec, execSaddleFailed, hr, State.saddleDown, hk, Bool.false_eq_true, if_false, if_true]
  · simp only [exec, execSaddleFailed, hr, State.saddleDown, Nat.not_lt.2 hk, hnot, Bool.false_eq_true, if_false]

theorem hang : Says.hang := by
  intro d unit ns s hrun hns hmay ev
  refine (if_neg ?_).trans ?_
  · rw [hrun, hmay, decide_eq_false (Nat.not_lt.2 hns)]
    decide
  · cases d <;> rfl

/-- Settles O25: the unit that fails picks the branch, the occasion holds. -/
theorem detectedFailures : Obligations.DetectedFailures := ⟨lockstepMismatch, saddleFailed, hang⟩

/-! ### Remote ports, scrubbing, reload and patrol (R186 to R194, R328 to R335, R410) -/

theorem remotePortRequest : Says.remotePortRequest := by
  intro t off data gen us s a u
  simp only [a, u]
  refine ⟨fun hok hscrub => ?_, fun hok hscrub => ?_, fun write st hbad => ?_⟩
  · simp only [exec, execRemotePortRequest, hok, hscrub, Bool.false_eq_true, if_false, if_true]
  · simp only [exec, execRemotePortRequest, hok, hscrub, Bool.false_eq_true, if_false]
  · simp only [exec, execRemotePortRequest, hbad]

theorem scrubAccess : Says.scrubAccess := by
  intro t row us s hoff hon
  constructor <;> intro hrow <;>
    simp only [exec, execScrubAccess, hoff, hon, hrow, Bool.or_self, Bool.false_eq_true, if_false, if_true]

theorem quadReturnScrubPass : Says.quadReturnScrubPass := by
  intro q upsets s hpass hoff
  simp only [exec, execQuadReturnScrubPass, hpass, hoff, Bool.not_true, Bool.or_self, Bool.false_eq_true, if_false] <;>
    generalize List.foldl _ (s.strikeAll _) _ = u <;>
    cases u.partOfGlen (q.toNat / 4) <;>
    rfl

theorem weightReload : Says.weightReload := by
  intro t b m pa key s hmark hoff hscrub hret hgold
  have hwaits : s.reloadWaits t.toNat = false := by
    rw [State.reloadWaits, hoff, hscrub]
    cases hr : (s.tile t.toNat).inReset
    · rfl
    · rw [hret hr]
      rfl
  simp only [exec, execWeightReload, hmark, hwaits, hgold, Bool.not_true, Bool.or_self, Bool.false_eq_true, if_false]
  split <;> rfl

/-- Every unit of a pseudo-channel is a unit of its stack (R328). -/
theorem channelUnit_lt {c u : Nat} (hc : c < 32) (hu : u < stackSize / 64 / 32) : channelUnit c u < stackSize / 64 := by
  unfold channelUnit
  unfold stackSize at *
  omega

theorem hbmPatrol : Says.hbmPatrol := by
  intro k c unit us s hunit hav
  refine if_neg ?_
  rw [hav, decide_eq_false (Nat.not_le.2 (channelUnit_lt c.isLt hunit))]
  decide

theorem hbmStacks : Says.hbmStacks := by
  refine fun k temp s => ⟨fun hav => congrArg Host.Outcome.next (if_neg ?_), rfl⟩
  rw [hav]
  decide

/-- Settles O26: a port that serves, a tile that is on, a stack that is available take the branch that reads and corrects. -/
theorem scrubPatrolAndReload : Obligations.ScrubPatrolAndReload :=
  ⟨remotePortRequest, scrubAccess, quadReturnScrubPass, weightReload, hbmPatrol, hbmStacks⟩

/-! ### Flits of an Ohmist port (R367 to R372) -/

/-- What a valid flit of the kind a row expects does. -/
theorem State.flitAt_good {s : State} {p mended kind : Nat} {bs : List Byte} (h : Says.goodFlit s p bs kind)
    (f : FlitHdr → State → State) : s.flitAt p (some mended) bs kind f = f (flitHdr bs) (Says.received s p mended) := by
  obtain ⟨hup, hlen, hcrc, hkind⟩ := h
  simp only [State.flitAt, hup, hlen, hcrc, hkind, Option.isNone_some, Option.getD_some, ne_eq, not_true_eq_false, decide_false,
    Bool.not_true, Bool.or_self, Bool.false_eq_true, if_false]
  rfl

/-- What a flit that error correction or its CRC finds bad does, whatever row receives it. -/
theorem State.flitAt_bad {s : State} {p kind : Nat} {fec : Option Nat} {bs : List Byte} (hup : (s.ohm p).up = true)
    (hlen : bs.length = 256) (hbad : fec = none ∨ crc32 (bs.take 252) ≠ leAt bs 252 4) (f : FlitHdr → State → State) :
    s.flitAt p fec bs kind f = (s.countPort p 10 (fec.getD 0)).badFlit p fec.isSome bs := by
  have hbad' : (fec.isNone || decide (crc32 (bs.take 252) ≠ leAt bs 252 4)) = true := by
    rwa [Bool.or_eq_true, Option.isNone_iff_eq_none, decide_eq_true_iff]
  refine (if_neg ?_).trans (if_pos hbad')
  rw [hup, decide_eq_false (not_not.2 hlen)]
  decide

theorem dataFlit : Says.dataFlit := fun _ _ _ _ h => congrArg Host.Outcome.next (State.flitAt_good h _)

theorem retryRequest : Says.retryRequest := fun _ _ _ _ h => congrArg Host.Outcome.next (State.flitAt_good h _)

theorem idleFlit : Says.idleFlit := fun _ _ _ _ =>
  ⟨fun h => congrArg Host.Outcome.next (State.flitAt_good h _), fun h => congrArg Host.Outcome.next (State.flitAt_good h _)⟩

theorem badFlits : Says.badFlits := by
  intro p fec bs s hup hlen hbad c hc
  simp only [List.mem_cons, List.not_mem_nil, or_false] at hc
  obtain rfl | rfl | rfl | rfl := hc <;> exact congrArg Host.Outcome.next (State.flitAt_bad hup hlen hbad _)

theorem linkTraining : Says.linkTraining := by
  intro p low high s hr hlive x hcabled hup hdis htry
  simp only [x] at hcabled hup hdis htry ⊢
  have hgo : (s.boot.inReset || !s.live || !(s.ohm p.toNat).cabled || (s.ohm p.toNat).up || (s.ohm p.toNat).disabled ||
      decide (s.clk.wall < (s.ohm p.toNat).nextTry)) = false := by
    rw [hr, hlive, hcabled, hup, hdis, decide_eq_false (Nat.not_lt.2 htry)]
    rfl
  refine ⟨fun hlanes => (if_neg (ne_true_of_eq_false hgo)).trans (if_neg ?_),
    fun hnone => (if_neg (ne_true_of_eq_false hgo)).trans (if_pos ?_)⟩
  · rw [← Bool.not_or, hlanes]
    decide
  · rw [← Bool.not_or, hnone]
    rfl

theorem linkDown : Says.linkDown := by
  refine fun p s => ⟨fun h8 => if_pos h8, fun h8 hold => ?_, fun h8 hnew => ?_⟩
  · exact (if_neg (Nat.not_le.2 h8)).trans (if_pos hold)
  · exact (if_neg (Nat.not_le.2 h8)).trans (if_neg (Nat.not_le.2 hnew))

/-- Settles O27: a flit is valid or bad by one rule for all four rows, and the port's counts decide its loss. -/
theorem linkFlits : Obligations.LinkFlits := ⟨dataFlit, retryRequest, idleFlit, badFlits, linkTraining, linkDown⟩

/-! ### Management packets and transit (R377, R382, R406, R448) -/

theorem notices : Says.notices := by
  intro m p up job part gen s
  constructor <;> intro hm
  · simp only [exec, execLinkStateNotice, hm, Bool.not_true, Bool.false_eq_true, if_false]
  · simp only [exec, execGenerationNotice, hm, Bool.not_true, Bool.false_eq_true, if_false]

/-- A management packet is refused when its tag does not verify. -/
theorem State.mgmtOk_of_badTag (s : State) {m : MgmtHdr} (h : m.tagOk = false) (untagged : Bool) : s.mgmtOk m untagged = false := by
  rw [State.mgmtOk, h]
  rfl

theorem mgmtRefused : Says.mgmtRefused := by
  intro m p up job ident part gen ctx e commit broken count slot a b c s htag i hi
  have refused (untagged : Bool) : (!s.mgmtOk m untagged) = true := by rw [s.mgmtOk_of_badTag htag]; rfl
  simp only [List.mem_cons, List.not_mem_nil, or_false] at hi
  obtain rfl | rfl | rfl | rfl | rfl | rfl | rfl | rfl | rfl := hi <;> exact if_pos (refused _)

theorem packetInject : Says.packetInject := by
  intro t queue n q k p s hq hws hlive hkey f r pk hframe hroom hnode hport htakes
  have hws' : (q.packetPart n.toNat).isEmpty = false := List.isEmpty_eq_false_iff.2 hws
  simp only [r, f] at hport
  simp only [pk, r, f] at htakes
  simp only [f] at hroom
  simp only [exec, execPacketInject, hq, hws', hlive, hkey, Nat.not_le.2 hframe, Nat.not_le.2 hroom, hnode, hport, htakes,
    Bool.not_true, Bool.or_self, Bool.false_eq_true, if_false, if_true]
  rfl

theorem transitForward : Says.transitForward := by
  intro p pk s hdst hup hlive hr next u
  have hgo : (decide (pk.dstNode.toNat = s.links.inst.node) || !(s.ohm p.toNat).up || !s.live || s.boot.inReset) = false := by
    rw [decide_eq_false hdst, hup, hlive, hr]
    rfl
  refine ⟨fun q hq htakes => (if_neg (ne_true_of_eq_false hgo)).trans ?_,
    fun hq => (if_neg (ne_true_of_eq_false hgo)).trans ?_⟩
  · simp only [next] at hq
    simp only [hq, htakes, if_true]
    rfl
  · simp only [next] at hq
    simp only [hq]
    rfl

/-- Settles O28: the tag decides whether a management packet acts; the route and the next port decide where a packet goes. -/
theorem managementAndTransit : Obligations.ManagementAndTransit := ⟨notices, mgmtRefused, packetInject, transitForward⟩

/-! ### Requests and answers of a flow (R378 to R380) -/

/-- What a request that passes the checks 1 to 4 of R380 does: it is taken to its flow, which it opens anew or finds. -/
theorem State.receive_eq {s : State} {p kind c : Nat} {pk : Packet} (h : Says.requestFor s p pk kind c) (hk : kind < 4) :
    s.receive p pk kind =
      (let u := Says.arrived s p pk
       let old := Says.knownFlow u pk
       let seen := (old.map (fun f => f.statuses.any (fun e => e.1 = pk.serial.toNat))).getD false
       if pk.opened && !(pk.resent && seen) then
         if old.isNone && decide (16384 ≤ u.links.flows.length) then u.answerTo pk 6 .ok
         else (u.rxFlow p c pk { node := pk.srcNode.toNat, tile := pk.srcTile.toNat, cls := 0, expected := pk.serial.toNat,
                                 statuses := [], last := u.clk.now }).getD s
       else match old with
         | none => u
         | some f => (u.rxFlow p c pk f).getD s) := by
  obtain ⟨hkind, hdst, hp, hup, hlive, hr, hold, hauth, hctx, hpart⟩ := h
  have hunknown : pk.isUnknown = false := by
    have hlist : ∀ k < 4, (!([0, 1, 2, 3, 4, 5, 6, 8].contains k)) = false := by decide
    rw [Packet.isUnknown, hkind]
    exact hlist kind hk
  rw [Says.arrived] at hold hauth hctx hpart
  simp only [State.receive, hkind, hdst, hp, hup, hlive, hr, hunknown, hold, hauth, hctx, hpart, Says.arrived, Says.knownFlow, ne_eq,
    not_true_eq_false, decide_false, decide_true, Bool.not_true, Bool.and_false, Bool.or_self, Bool.false_eq_true, if_false] <;> rfl

/-- A request that does not open its flow anew is checked and applied in the flow it finds. -/
theorem State.receive_known {s t : State} {p kind c : Nat} {pk : Packet} {f : Flow} (hf : Says.knownFlow (Says.arrived s p pk) pk = some f)
    (hopen : pk.opened = false) (hrx : (Says.arrived s p pk).rxFlow p c pk f = some t) (h : Says.requestFor s p pk kind c)
    (hk : kind < 4) : s.receive p pk kind = t := by
  rw [State.receive_eq h hk]
  simp only [hf, hopen, hrx, Bool.false_and, Bool.false_eq_true, if_false, Option.getD_some]

theorem requests : Says.requests := by
  intro p pk c f s t hf hopen hrx
  refine ⟨fun h => ?_, fun h => ?_, fun h => ?_, fun h => ?_⟩ <;>
    exact congrArg Host.Outcome.next (State.receive_known hf hopen hrx h (by decide))

theorem requestOpens : Says.requestOpens := by
  intro p pk c s hnone hopen h u f
  refine ⟨fun hfull => congrArg Host.Outcome.next ?_, fun t hroom hrx => congrArg Host.Outcome.next ?_⟩ <;>
    rw [State.receive_eq h (by decide)] <;>
    simp only [hnone, hopen, Option.map_none, Option.getD_none, Option.isNone_none, Bool.and_false, Bool.not_false, Bool.and_self,
      Bool.true_and, decide_eq_true_eq, if_true]
  · exact if_pos hfull
  · refine (if_neg (Nat.not_le.2 hroom)).trans ?_
    rw [show (Says.arrived s p.toNat pk).rxFlow p.toNat c pk _ = some t from hrx, Option.getD_some]

theorem flowOrder : Says.flowOrder := by
  intro p c pk f s _ g d
  refine ⟨fun hd st t hcheck => ?_, fun hd e he => ?_, fun hd hlt => ?_⟩
  · refine (if_neg (show ¬ 32768 ≤ d by omega)).trans ((if_neg (not_not.2 hd)).trans ?_)
    rw [hcheck]
  · refine (if_pos hd).trans ?_
    rw [he]
  · exact (if_neg (Nat.not_le.2 hlt)).trans (if_pos hd)

/-- What an answer of the kind a row expects does in its flow. -/
theorem State.answered_eq {s : State} {pk : Packet} {kind : Nat} (h : Says.answerFor s pk kind) (f : SFlow → State → State) :
    s.answered pk kind f = f (s.sflow pk.srcTile.toNat pk.srcNode.toNat) (Says.answerAt s pk) := by
  obtain ⟨hkind, hdst, hlive, hr, hold, hauth, hgen, hmine⟩ := h
  have hlive' : (Says.answerAt s pk).live = true := by
    rw [Says.answerAt, State.freeFlits]
    split <;> exact hlive
  have hr' : (Says.answerAt s pk).boot.inReset = false := by
    rw [Says.answerAt, State.freeFlits]
    split <;> exact hr
  have hnode : (Says.answerAt s pk).links.inst.node = s.links.inst.node := by
    rw [Says.answerAt, State.freeFlits]
    split <;> rfl
  have hauth' : (decide (pk.srcNode ≠ pk.dstNode) && !(Says.answerAt s pk).authentic pk) = false := by
    obtain heq | hok := hauth
    · rw [decide_eq_false (not_not.2 heq), Bool.false_and]
    · rw [hok, Bool.not_true, Bool.and_false]
  have hfirst : (if pk.ptype.toNat = kind && pk.dstNode.toNat = s.links.inst.node && !s.boot.inReset then
      s.freeFlits ((s.sflow pk.srcTile.toNat pk.srcNode.toNat).port.getD 12) 1 pk else s) = Says.answerAt s pk := by
    simp only [hkind, hdst, hr, decide_true, Bool.not_false, Bool.and_self, if_true, Says.answerAt]
  unfold State.answered
  extract_lets fl port u
  have hu : u = Says.answerAt s pk := hfirst
  clear_value u
  subst hu
  simp only [hkind, hdst, hlive', hr', hnode, hold, hauth', hgen, hmine, fl, ne_eq, not_true_eq_false, decide_false, Bool.not_true,
    Bool.or_self, Bool.false_eq_true, if_false, if_true]

theorem answers : Says.answers := by
  intro pk st s f serial
  refine ⟨fun h hst => ?_, fun h hst => ?_, fun h => congrArg Host.Outcome.next (State.answered_eq h _)⟩
  · refine congrArg Host.Outcome.next ((State.answered_eq h _).trans ?_)
    rw [hst, Option.getD_some]
  · refine congrArg Host.Outcome.next ((State.answered_eq h _).trans ?_)
    rw [hst]

theorem resends : Says.resends := by
  intro t node a pk s f r hhead
  simp only [f, r] at hhead ⊢
  refine ⟨fun hlater ha => ?_, fun hport hsent => ?_, fun hport => ?_⟩
  · simp only [exec, execRetryLaterTimer, hhead, hlater, Nat.not_lt.2 ha, if_false]
  · simp only [exec, execResendTimeout, hhead, hport, Nat.not_lt.2 hsent, Bool.false_eq_true, if_false]
  · simp only [exec, execResendTimeout, hhead, hport, if_true]

/-- Settles O29: the receipt's checks pass, the serial's window and the flow's timers pick the branch. -/
theorem flowPackets : Obligations.FlowPackets :=
  ⟨requests, requestOpens, flowOrder, answers, resends, fun _ _ _ _ => ⟨rfl, rfl⟩⟩

/-! ### Barriers between packages (R322, R323) -/

theorem barrierArrivalForward : Says.barrierArrivalForward := by
  intro m job ident gen c s hm hc
  simp only [exec, execBarrierArrivalForward, hm, hc, Bool.not_true, Bool.false_eq_true, if_false]
  cases s.partRefuses c gen.toNat <;> rfl

theorem barrierCompletion : Says.barrierCompletion := by
  intro m job ident c b s hm hc hb hhome hbroken
  constructor <;>
    simp only [exec, execBarrierCompletion, hm, hc, hb, hhome, hbroken, Bool.not_true, Bool.or_self, Bool.false_eq_true, if_false,
      if_true]

theorem barrierTimeout : Says.barrierTimeout := by
  intro ctx ident b a s hb hlast ha
  simp only [exec, execBarrierTimeout, hb, Option.bind_some, hlast, ha, if_true]

/-- Settles O30: the generation, the home and the time since the arrival pick the branch. -/
theorem jobBarriers : Obligations.JobBarriers := ⟨barrierArrivalForward, barrierCompletion, barrierTimeout⟩

/-! ### Time exchanges (R33 to R35, R387) -/

theorem timeExchange : Says.timeExchange := by
  intro s hmaster hr hlive htime
  have hdue : ((s.clk.t1.isSome || decide (s.clk.lastEx ≠ 0)) && decide (s.clk.now < s.clk.t1.getD s.clk.lastEx + 1000000)) = false := by
    obtain ⟨ht1, hlast⟩ | hpast := htime
    · rw [ht1, hlast]
      rfl
    · rw [decide_eq_false (Nat.not_lt.2 hpast), Bool.and_false]
  simp only [exec, execTimeExchange, hmaster, hr, hlive, hdue, Bool.not_true, Bool.or_self, Bool.false_eq_true, if_false,
    Bool.and_eq_true, decide_eq_true_eq]

theorem timeExchangeReply : Says.timeExchangeReply := by
  intro m t1 t2 t3 t4 s hm ht1
  simp only [exec, execTimeExchangeReply, hm, ht1, Bool.not_true, Bool.false_eq_true, if_false]

theorem timeExchangeAtParent : Says.timeExchangeAtParent := by
  intro m t1 t2 s hm hsync
  have hsync' : (s.clk.master || s.clk.synced) = true := by rwa [Bool.or_eq_true]
  simp only [exec, execTimeExchangeAtParent, hm, hsync', Bool.not_true, Bool.false_eq_true, if_false]

theorem timeAheadNotice : Says.timeAheadNotice := by
  intro m n s hm hmaster hn
  simp only [exec, execTimeAheadNotice, hm, hmaster, Nat.not_le.2 hn, decide_false, Bool.not_true, Bool.or_self, Bool.false_eq_true,
    if_false]

theorem checkPeerExchange : Says.checkPeerExchange := by
  refine fun off s => ⟨fun h => if_pos h, fun h h0 => ?_, fun h h0 => ?_⟩
  · exact (if_neg (Nat.not_le.2 h)).trans (if_pos h0)
  · exact (if_neg (Nat.not_le.2 h)).trans (if_neg h0)

/-- Settles O31: the clock's role, the time since the last exchange and the offset pick the branch. -/
theorem timeExchanges : Obligations.TimeExchanges :=
  ⟨timeExchange, timeExchangeReply, timeExchangeAtParent, timeAheadNotice, checkPeerExchange⟩

end Sys2Proof.Machine

/-! Proofs for the scalar rows of the tile core (08): loads and stores R149, compares and transfers of control R147, R168, floating
point R150, hash, random streams and CSRs R141, R151, R152, services, descriptors and tickets R144, R145, R153, R163. -/

namespace Sys2Proof.Machine

/-! ### A scalar row (R157, R166) -/

section
variable {s u : State} {t w : Nat} {f : State → SRes}

/-- The row of an instruction that completes commits it. -/
theorem State.row_of_done (h : s.stands t w = true) {taken : Option Nat} (hf : f s = .done u taken) :
    s.row t w f = u.commit t 4 taken := by
  rw [State.row_stands h, hf]
  rfl

/-- The row of an instruction that raises an exception raises it at the pc. -/
theorem State.row_of_exc (h : s.stands t w = true) {cause detail : Nat} (hf : f s = .exc cause detail) :
    s.row t w f = s.exceptAt t cause detail := by
  rw [State.row_stands h, hf]
  rfl

end

/-- Whether one of several registers is pending. -/
theorem Core.waits_cons (c : Core) (d : Dst) (ds : List Dst) : c.waits (d :: ds) = (c.isPending d || c.waits ds) := rfl

/-- A decision of conditions that all fail. -/
theorem or_decide_false {a : Bool} {p : Prop} [Decidable p] (ha : a = false) (hp : ¬ p) : (a || decide p) = false := by
  rw [ha, decide_eq_false hp]
  rfl

/-! ### Loads and stores (R149, R166, R187, R192) -/

section
variable {s : State} {t a n : Nat}

/-- A load of cells that read without error gives its value. -/
theorem State.loadTo_of_ok (hok : (s.tile t).accessExc a n false = none) (hread : (s.load t a n).2.1 = false) (late : Bool)
    (d : Dst) (f : Nat → Nat) :
    s.loadTo t late a n d f = (s.load t a n).2.2.res t late [] d (f (leVal (s.load t a n).1)) := by
  simp only [State.loadTo, hok, hread, Bool.false_eq_true, if_false]

/-- A load outside what may be accessed raises the exception of the access. -/
theorem State.loadTo_of_exc {e : Nat} (hexc : (s.tile t).accessExc a n false = some e) (late : Bool) (d : Dst) (f : Nat → Nat) :
    s.loadTo t late a n d f = .exc e a := by
  simp only [State.loadTo, hexc]

/-- A load of a cell that does not correct raises UNCORRECTABLE. -/
theorem State.loadTo_of_bad (hok : (s.tile t).accessExc a n false = none) (hread : (s.load t a n).2.1 = true) (late : Bool) (d : Dst)
    (f : Nat → Nat) : s.loadTo t late a n d f = .exc 8 a := by
  simp only [State.loadTo, hok, hread, if_true]

/-- A store of a core that is not ahead of a branch, where it may be accessed, is made at once. -/
theorem State.storeFrom_of_ok (hok : (s.tile t).accessExc a n true = none) (hahead : (s.tile t).core.ahead = false) (v : Nat) :
    s.storeFrom t a n v = .done (s.storeNow t a n v) none := by
  simp only [State.storeFrom, hok, hahead, Bool.false_and, Bool.false_eq_true, if_false, State.store]

theorem Tile.accessExc_of_misaligned {x : Tile} {store : Bool} (h : a % n ≠ 0) : x.accessExc a n store = some 6 := if_pos h

theorem Tile.accessExc_load_of_outside {x : Tile} (h : a % n = 0) (hout : inSp a n = false) : x.accessExc a n false = some 7 := by
  simp only [Tile.accessExc, h, hout, ne_eq, not_true_eq_false, Bool.not_false, Bool.true_or, if_false, if_true]

theorem Tile.accessExc_load_of_inside {x : Tile} (h : a % n = 0) (hin : inSp a n = true) : x.accessExc a n false = none := by
  simp only [Tile.accessExc, h, hin, ne_eq, not_true_eq_false, Bool.not_true, Bool.false_and, Bool.or_self, Bool.false_eq_true,
    if_false]

/-- LD with a listed size and its source ready loads. -/
theorem sLd_of_ready {ra sz : Nat} (hsz : sz < 7) (hr : (s.tile t).core.waits [.g ra] = false) (late : Bool) (rd imm w : Nat) :
    sLd t late rd ra imm sz w s = s.loadTo t late (effAddr (s.tile t).core ra imm) ([1, 2, 4, 8, 1, 2, 4].getD sz 1) (.g rd)
      (fun v => if sz ≥ 4 then wrap 64 (sgn ([8, 16, 32].getD (sz - 4) 8) v) else v) :=
  (if_neg (by omega)).trans (if_neg (ne_true_of_eq_false hr))

/-- LDF with a listed size and its source ready loads. -/
theorem sLdf_of_ready {rd ra sz : Nat} (hsz : sz ≤ 1) (hrd : rd < 16) (hr : (s.tile t).core.waits [.g ra] = false) (late : Bool)
    (imm w : Nat) :
    sLdf t late rd ra imm sz w s = s.loadTo t late (effAddr (s.tile t).core ra imm) (if sz = 0 then 4 else 2) (.f rd)
      (fun v => if sz = 0 then v else if isNan (bfTo32 v) then nan32 else bfTo32 v) := by
  have hlegal : (decide (sz > 1) || decide (rd ≥ 16)) = false :=
    or_decide_false (decide_eq_false (Nat.not_lt.2 hsz)) (Nat.not_le.2 hrd)
  exact (if_neg (ne_true_of_eq_false hlegal)).trans (if_neg (ne_true_of_eq_false hr))

end

theorem loads : Says.loads := by
  intro t late rd ra imm sz us s u c a hr
  refine ⟨fun n hn hst hsz hok hread => congrArg Host.Outcome.next ?_, fun hst hsz hrd hok hread => congrArg Host.Outcome.next ?_,
    fun hst hsz hrd hok hread => congrArg Host.Outcome.next ?_⟩
  · subst hn
    exact State.row_of_done hst ((sLd_of_ready hsz hr late _ _ _).trans (State.loadTo_of_ok hok hread late _ _))
  · refine State.row_of_done hst ((sLdf_of_ready (by omega) hrd hr late _ _).trans ?_)
    rw [hsz]
    exact State.loadTo_of_ok hok hread late _ _
  · refine State.row_of_done hst ((sLdf_of_ready (by omega) hrd hr late _ _).trans ?_)
    rw [hsz]
    exact State.loadTo_of_ok hok hread late _ _

theorem loadFaults : Says.loadFaults := by
  intro t late rd ra imm sz us s u c a n hst hsz hr
  refine ⟨fun hmis => congrArg Host.Outcome.next ?_, fun hal hout => congrArg Host.Outcome.next ?_,
    fun hal hin hbad => congrArg Host.Outcome.next ?_⟩ <;>
    refine State.row_of_exc hst ((sLd_of_ready hsz hr late _ _ _).trans ?_)
  · exact State.loadTo_of_exc (Tile.accessExc_of_misaligned hmis) late _ _
  · exact State.loadTo_of_exc (Tile.accessExc_load_of_outside hal hout) late _ _
  · exact State.loadTo_of_bad (Tile.accessExc_load_of_inside hal hin) hbad late _ _

/-- STF with a listed size and its sources ready stores. -/
theorem sStf_of_ready {s : State} {t rd ra sz : Nat} (hsz : sz ≤ 1) (hrd : rd < 16)
    (hr : (s.tile t).core.waits [.g ra, .f rd] = false) (hahead : (s.tile t).core.ahead = false) {imm n v : Nat}
    (hn : (if sz = 0 then 4 else 2) = n)
    (hv : (if sz = 0 then (s.tile t).core.rf rd else (toBf16 ((s.tile t).core.rf rd) .nearest noRnd).1) = v)
    (hok : (s.tile t).accessExc (effAddr (s.tile t).core ra imm) n true = none) (w : Nat) :
    sStf t rd ra imm sz w s = .done (if sz = 0 then s.storeNow t (effAddr (s.tile t).core ra imm) n v
      else (s.storeNow t (effAddr (s.tile t).core ra imm) n v).stick t
        (toBf16 ((s.tile t).core.rf rd) .nearest noRnd).2.1) none := by
  have hlegal : (decide (sz > 1) || decide (rd ≥ 16)) = false :=
    or_decide_false (decide_eq_false (Nat.not_lt.2 hsz)) (Nat.not_le.2 hrd)
  simp only [sStf, hlegal, hr, hn, hv, State.storeFrom_of_ok hok hahead, Bool.false_eq_true, if_false]

theorem stores : Says.stores := by
  intro t rd ra imm sz us s u c a hahead
  refine ⟨fun hst hsz hr hok => congrArg Host.Outcome.next ?_, fun hst hsz hrd hr hok => congrArg Host.Outcome.next ?_,
    fun hst hsz hrd hr hok => congrArg Host.Outcome.next ?_⟩
  · refine State.row_of_done hst ((if_neg (by omega)).trans ((if_neg (ne_true_of_eq_false hr)).trans ?_))
    exact State.storeFrom_of_ok hok hahead _
  · refine State.row_of_done hst ((sStf_of_ready (by omega) hrd hr hahead (if_pos hsz) (if_pos hsz) hok _).trans ?_)
    rw [if_pos hsz]
  · have hsz0 : ¬ sz.toNat = 0 := by omega
    refine State.row_of_done hst ((sStf_of_ready (by omega) hrd hr hahead (if_neg hsz0) (if_neg hsz0) hok _).trans ?_)
    rw [if_neg hsz0]

/-- Settles O33: with its sources ready each row is one access, and the access' checks stand in their order. -/
theorem loadsAndStores : Obligations.LoadsAndStores := ⟨loads, loadFaults, stores⟩

/-! ### Compares and transfers of control (R146, R147, R168) -/

/-- The register field 0 as a number. -/
theorem toNat_zero5 : (0 : BitVec 5).toNat = 0 := rfl

theorem compares : Says.compares := by
  intro t late rd ra rb rc fn imm s c pred
  refine ⟨fun hst hfn hrd hrc => congrArg Host.Outcome.next (State.row_of_done hst (if_neg ?_)),
    fun hst => congrArg Host.Outcome.next (State.row_of_done hst rfl),
    fun hst hfn hrd hra hrb hrc h4 => congrArg Host.Outcome.next (State.row_of_done hst (if_neg ?_))⟩
  · subst hrc
    simp only [Bool.or_eq_true, decide_eq_true_eq, toNat_zero5]
    omega
  · subst hrc
    have h4' : fn.toNat = 4 → rb.toNat = 0 := fun h => by rw [h4 (BitVec.eq_of_toNat_eq h)]; rfl
    simp only [Bool.or_eq_true, Bool.and_eq_true, decide_eq_true_eq, toNat_zero5]
    omega

/-- A branch whose predicate is there and holds is taken; CALL also writes the address after it. -/
theorem sBranch_of_taken {s : State} {t pred disp len : Nat} {neg : Bool} (hp : (s.tile t).core.isPending (.p pred) = false)
    (hc : (s.tile t).core.rp pred = !neg) (call hint : Bool) :
    sBranch t call pred neg hint disp len s =
      .done (s.modCore t (fun c => if call then c.result false [] (.g 31) ((s.tile t).core.pc + len) else c))
        (some (wrap 32 (((s.tile t).core.pc : Int) + 4 * sgn 20 disp))) := by
  have htaken : ((s.tile t).core.rp pred != neg) = true := by rw [hc]; cases neg <;> rfl
  simp only [sBranch, hp, htaken, Bool.not_false, if_true]

/-- A branch whose predicate is there and does not hold goes on. -/
theorem sBranch_of_notTaken {s : State} {t pred disp len : Nat} {neg : Bool} (hp : (s.tile t).core.isPending (.p pred) = false)
    (hc : (s.tile t).core.rp pred = neg) (call hint : Bool) : sBranch t call pred neg hint disp len s = .done s none := by
  simp only [sBranch, hp, hc, bne_self_eq_false, Bool.not_false, Bool.false_eq_true, if_true, if_false]

/-- A commit writes the core whole, so writing it as it stands before makes no difference. -/
theorem State.commit_modCore_id (s : State) (t len : Nat) (taken : Option Nat) :
    (s.modCore t (fun c => c)).commit t len taken = s.commit t len taken := by
  simp only [State.commit, State.modCore_modCore, State.tile_modCore_self]

/-- JR with its register there goes to its value, unless that is not a multiple of 4. -/
theorem sJr_of_ready {s : State} {t ra : Nat} (hr : (s.tile t).core.waits [.g ra] = false) (w : Nat) :
    sJr t 0 ra 0 0 0 w s = if (s.tile t).core.rg ra % 4 ≠ 0 then .exc 1 ((s.tile t).core.rg ra)
      else .done s (some ((s.tile t).core.rg ra % 2 ^ 32)) := by
  simp only [sJr, hr, ne_eq, not_true_eq_false, decide_false, Bool.or_self, Bool.false_eq_true, if_false]

theorem branches : Says.branches := by
  intro t pred neg hint disp s c target hp
  refine ⟨fun hst hc => congrArg Host.Outcome.next ?_,
    fun hst hc => congrArg Host.Outcome.next (State.row_of_done hst (sBranch_of_notTaken hp hc _ _)),
    fun hst hc => congrArg Host.Outcome.next (State.row_of_done hst (sBranch_of_taken hp hc _ _)),
    fun hst hc => congrArg Host.Outcome.next (State.row_of_done hst (sBranch_of_notTaken hp hc _ _))⟩
  refine (State.row_of_done hst (sBranch_of_taken hp hc _ _)).trans ?_
  simp only [Bool.false_eq_true, if_false]
  exact State.commit_modCore_id ..

theorem jr : Says.jr := by
  intro t ra s hst c hr
  refine ⟨fun hal => congrArg Host.Outcome.next (State.row_of_done hst ?_),
    fun hmis => congrArg Host.Outcome.next (State.row_of_exc hst ?_)⟩
  · exact (sJr_of_ready hr _).trans (if_neg (not_not.2 hal))
  · exact (sJr_of_ready hr _).trans (if_pos hmis)

/-- A register field that is not zero is not zero as a number. -/
theorem toNat_ne_zero {n : Nat} {x : BitVec n} (h : x ≠ 0) : x.toNat ≠ 0 := fun e => h (BitVec.eq_of_toNat_eq (by simpa using e))

theorem illegalOperands : Says.illegalOperands := by
  intro t late rd ra rb rc fn s n
  have nz := @toNat_ne_zero 5
  refine ⟨fun hst hrc hfn => ?_, fun hst hbad => ?_, fun hst hbad => ?_, fun hst hbad => ?_, fun hst hfn => ?_, fun hst hbad => ?_⟩ <;>
    refine congrArg Host.Outcome.next (State.row_of_illegal hst (if_pos ?_))
  · have hfn' : fn.toNat ≠ 18 := fun e => hfn (BitVec.eq_of_toNat_eq e)
    have := nz hrc
    simp only [Bool.or_eq_true, Bool.and_eq_true, decide_eq_true_eq]
    omega
  · have := hbad.imp_right (Or.imp_right nz)
    simp only [Bool.or_eq_true, decide_eq_true_eq]
    omega
  · have := hbad.imp nz (Or.imp nz (Or.imp nz nz))
    simp only [Bool.or_eq_true, decide_eq_true_eq]
    omega
  · have := hbad.imp_right (Or.imp_right (Or.imp_right (Or.imp_right nz)))
    simp only [Bool.or_eq_true, decide_eq_true_eq]
    omega
  · exact nz hfn
  · have := hbad.imp nz (Or.imp nz (Or.imp nz (Or.imp nz nz)))
    simp only [Bool.or_eq_true, decide_eq_true_eq]
    omega

/-- Settles O34: each row is `State.row` of an operation whose operands are listed, with its predicate there, or of one whose
operands are not. -/
theorem comparesAndBranches : Obligations.ComparesAndBranches := ⟨compares, branches, jr, illegalOperands⟩

/-! ### Floating point (R57, R124, R147, R150) -/

theorem fop : Says.fop := by
  intro t late rd ra rb fn s c hst hfn hrd hra hrb h6 hr
  refine congrArg Host.Outcome.next (State.row_of_done hst ((if_neg ?_).trans (if_neg (ne_true_of_eq_false hr))))
  have h6' : 6 ≤ fn.toNat → rb.toNat = 0 := fun h => by rw [h6 h]; rfl
  simp only [Bool.or_eq_true, Bool.and_eq_true, decide_eq_true_eq, toNat_zero5]
  omega

theorem fcmp : Says.fcmp := by
  intro t late rd ra rb fn s c a b hst hfn hrd hra hrb
  refine congrArg Host.Outcome.next (State.row_of_done hst (if_neg ?_))
  simp only [Bool.or_eq_true, decide_eq_true_eq, toNat_zero5]
  omega

/-- FMV into an f register, with its source ready. -/
theorem sFmv_to_f {s : State} {t rd ra fn : Nat} (hfn : fn = 0 ∨ fn = 2 ∨ fn = 5) (hrd : rd < 16)
    (hr : (s.tile t).core.waits [.g ra] = false) (late : Bool) (w : Nat) :
    ∀ v, (let g := (s.tile t).core.rg ra
      if fn = 0 then (g % 2 ^ 32, 0) else if fn = 2 then rneInt (sgn 64 g) 1
      else (if isNan (bfTo32 g) then nan32 else bfTo32 g, 0)) = v →
    sFmv t late rd ra 0 0 fn w s = (s.stick t v.2).res t late [] (.f rd) v.1 := by
  rintro _ rfl
  have hrd' : ¬ rd ≥ 16 := Nat.not_le.2 hrd
  obtain rfl | rfl | rfl := hfn <;> simp [sFmv, hrd', hr]

/-- FMV into a g register, with its source ready. -/
theorem sFmv_to_g {s : State} {t rd ra fn : Nat} (hfn : fn = 1 ∨ fn = 3 ∨ fn = 4) (hra : ra < 16)
    (hr : (s.tile t).core.waits [.f ra] = false) (late : Bool) (w : Nat) :
    ∀ v, (let f := (s.tile t).core.rf ra
      if fn = 1 then (f, 0) else if fn = 3 then toInt64 f
      else ((toBf16 f .nearest noRnd).1, (toBf16 f .nearest noRnd).2.1)) = v →
    sFmv t late rd ra 0 0 fn w s = (s.stick t v.2).res t late [] (.g rd) v.1 := by
  rintro _ rfl
  have hra' : ¬ ra ≥ 16 := Nat.not_le.2 hra
  obtain rfl | rfl | rfl := hfn <;> simp [sFmv, hra', hr]

theorem fmv : Says.fmv := by
  intro t late rd ra s c g f toF toG
  refine ⟨fun hst hrd hr => ?_, fun hst hra hr => ?_, fun hst hrd hr => ?_, fun hst hra hr => ?_, fun hst hra hr => ?_,
    fun hst hrd hr => ?_⟩ <;> refine congrArg Host.Outcome.next (State.row_of_done hst ?_)
  · exact sFmv_to_f (.inl rfl) hrd hr late _ _ rfl
  · exact sFmv_to_g (.inl rfl) hra hr late _ _ rfl
  · exact sFmv_to_f (.inr (.inl rfl)) hrd hr late _ _ rfl
  · exact sFmv_to_g (.inr (.inl rfl)) hra hr late _ _ rfl
  · exact sFmv_to_g (.inr (.inr rfl)) hra hr late _ _ rfl
  · exact sFmv_to_f (.inr (.inr rfl)) hrd hr late _ _ rfl

/-- Settles O35: with listed operands and its sources ready each row gives its value and its flags. -/
theorem scalarFloatingPoint : Obligations.ScalarFloatingPoint := ⟨fop, fcmp, fmv⟩

end Sys2Proof.Machine

/-! Proofs for the scalar rows of the tile core (08), continued: hash, random streams and CSRs R35, R60, R141, R151, R152; services,
HALT, descriptors and tickets R144, R145, R153, R154, R163, R164. -/

namespace Sys2Proof.Machine

/-! ### Hash, random streams, CSRs (R35, R60, R141, R151, R152) -/

theorem hash : Says.hash := by
  intro t late rd ra rb rc s hst c hr
  refine congrArg Host.Outcome.next (State.row_of_res hst ?_)
  simp only [sHash, toNat_zero5, ne_eq, not_true_eq_false, if_false]
  exact if_neg (ne_true_of_eq_false hr)

/-- A stream that no branch, register or operation holds may be used (R60, R152). -/
theorem rngReady_of {s : State} {t ra : Nat} {more : List Dst} (hahead : (s.tile t).core.ahead = false)
    (hr : (s.tile t).core.waits (.g ra :: more) = false) (hbusy : (s.tile t).streamBusy ((s.tile t).core.rg ra % 64) = false) :
    rngReady s t ra more = true := by
  simp only [rngReady, hahead, hr, hbusy, Bool.not_false, Bool.and_self]

theorem randoms : Says.randoms := by
  intro t late rd ra rb s c sid n seed hahead hr hbusy
  have ready : (!rngReady s t.toNat ra.toNat []) = false := by rw [rngReady_of hahead hr hbusy]; rfl
  refine ⟨fun hst => ?_, fun hst => ?_, fun hst hrb => ?_⟩ <;> refine congrArg Host.Outcome.next (State.row_of_done hst ?_)
  · simp only [sRdraw, toNat_zero5, ready, ne_eq, not_true_eq_false, decide_false, Bool.or_self, Bool.false_eq_true, if_false]
    rfl
  · simp only [sRctr, toNat_zero5, ready, ne_eq, not_true_eq_false, decide_false, Bool.or_self, Bool.false_eq_true, if_false]
    rfl
  · have hr2 : (s.tile t.toNat).core.waits [.g ra.toNat, .g rb.toNat] = false := by
      simp only [Core.waits_cons, Bool.or_eq_false_iff] at hr hrb ⊢
      exact ⟨hr.1, hrb⟩
    have ready2 : (!rngReady s t.toNat ra.toNat [.g rb.toNat]) = false := by rw [rngReady_of hahead hr2 hbusy]; rfl
    simp only [sRctw, toNat_zero5, ready2, ne_eq, not_true_eq_false, decide_false, Bool.or_self, Bool.false_eq_true, if_false]
    rfl

/-- CSRW of RUNAHEAD_CTL (4) or STICKY_STATUS (3), with its register there. -/
theorem sCsrw_of_ready {s : State} {t ra imm : Nat} (himm : imm = 3 ∨ imm = 4) (hahead : (s.tile t).core.ahead = false)
    (hr : (s.tile t).core.waits [.g ra] = false) (w : Nat) :
    sCsrw t 0 ra imm w s = .done (s.modCore t (fun c =>
      if imm = 3 then { c with sticky := clearFlags c.sticky (c.rg ra) } else { c with runahead := bit (c.rg ra) 0 })) none := by
  obtain rfl | rfl := himm <;> simp [sCsrw, hahead, hr]

theorem csrs : Says.csrs := by
  intro t late rd ra imm s c
  refine ⟨fun hst => ⟨fun v hv => ?_, fun hv => ?_⟩, fun hst hahead hr => ?_, fun hst hahead hr => ?_, fun hst h3 h4 => ?_,
    fun hst hahead => ?_⟩
  · refine congrArg Host.Outcome.next (State.row_of_res hst ?_)
    simp only [sCsrr, toNat_zero5, hv, ne_eq, not_true_eq_false, if_false]
  · refine congrArg Host.Outcome.next (State.row_of_illegal hst ?_)
    simp only [sCsrr, toNat_zero5, hv, ne_eq, not_true_eq_false, if_false]
  · exact congrArg Host.Outcome.next (State.row_of_done hst (sCsrw_of_ready (imm := 4) (.inr rfl) hahead hr _))
  · exact congrArg Host.Outcome.next (State.row_of_done hst (sCsrw_of_ready (imm := 3) (.inl rfl) hahead hr _))
  · refine congrArg Host.Outcome.next (State.row_of_illegal hst (if_pos ?_))
    simp only [h3, h4, ne_eq, not_false_eq_true, decide_true, Bool.and_self, Bool.or_true]
  · refine congrArg Host.Outcome.next (State.row_of_res hst ?_)
    simp only [sCntr, toNat_zero5, ne_eq, not_true_eq_false, decide_false, Bool.or_self, Bool.false_eq_true, if_false]
    exact if_neg (ne_true_of_eq_false hahead)

/-- Settles O36: the operands are listed and there, the stream is free, the CSR's number decides. -/
theorem hashRandomsAndCsrs : Obligations.HashRandomsAndCsrs := ⟨hash, randoms, csrs⟩

/-! ### Services and HALT (R144, R145) -/

/-- A service call of a plain core: the core stops with the number, its pc and its count moved on. -/
theorem State.row_sSvc {s : State} {t num w : Nat} (hst : s.stands t w = true) (hp : s.plain t = true)
    (hr : (s.tile t).core.waits ((List.range' 2 7).map Dst.g) = false) :
    s.row t w (sSvc t 0 0 num w) = s.modCore t (fun c => { c with run := .svc num, pc := c.pc + 4, commits := c.commits + 1 }) := by
  have hahead : (s.tile t).core.ahead = false := by
    simp only [State.plain, Bool.and_eq_true] at hp
    obtain ⟨⟨hck, -⟩, -⟩ := hp
    rw [Core.ahead, hck]
    rfl
  have hdone : sSvc t 0 0 num w s = .done (s.modCore t (fun c => { c with run := .svc num })) none := by
    simp only [sSvc, hahead, hr, ne_eq, not_true_eq_false, decide_false, Bool.or_self, Bool.false_eq_true, if_false]
  rw [State.row_of_done hst hdone, State.commit_plain, State.modCore_modCore]
  · rfl
  · rwa [State.plain_modCore rfl]
  · rw [State.tile_modCore_self]

/-- The steward answers a service call in g1, and the core goes on (R145). -/
theorem State.svcRow_eq {s : State} {t num w : Nat} {f : State → Nat × State} (hst : s.stands t w = true) (hp : s.plain t = true)
    (hr : (s.tile t).core.waits ((List.range' 2 7).map Dst.g) = false) (hdev : s.boot.devState ≠ 2) :
    s.svcRow t 0 0 num w f =
      (let r := f (s.modCore t (fun c => { c with run := .svc num, pc := c.pc + 4, commits := c.commits + 1 }))
       r.2.modCore t (fun c => { c.result false [] (.g 1) r.1 with run := .running })) := by
  rw [State.svcRow, State.row_sSvc hst hp hr, State.answer, State.tile_modCore_self]
  exact if_pos ⟨rfl, hdev⟩

theorem services : Says.services := by
  intro t num s hp hr hdev gone on
  refine ⟨fun hst => ?_, fun hst hnone => ?_, fun hst n w i hitem => ?_, fun hst hroom => ?_, fun hst hnum => ?_⟩
  · exact congrArg Host.Outcome.next (State.svcRow_eq hst hp hr hdev)
  · refine congrArg Host.Outcome.next ((State.svcRow_eq hst hp hr hdev).trans ?_)
    simp only [gone] at hnone
    simp only [hnone]
    rfl
  · refine congrArg Host.Outcome.next ((State.svcRow_eq hst hp hr hdev).trans ?_)
    simp only [gone] at hitem
    simp only [hitem]
    rfl
  · refine congrArg Host.Outcome.next ((State.svcRow_eq hst hp hr hdev).trans ?_)
    dsimp only
    rw [if_neg (Nat.not_le.2 hroom)]
  · exact (if_neg (Nat.not_lt.2 hnum)).trans (congrArg Host.Outcome.next (State.svcRow_eq hst hp hr hdev))

theorem halt : Says.halt := by
  intro t s hst hahead hr
  refine congrArg Host.Outcome.next (State.row_of_done hst ?_)
  simp only [sHalt, toNat_zero5, hahead, hr, ne_eq, not_true_eq_false, decide_false, Bool.or_self, Bool.false_eq_true, if_false]

/-! ### Descriptors and tickets (R153, R154, R163, R164) -/

theorem descw : Says.descw := by
  intro t rd ra rb fn s hfn h3 hst hahead hr c i v
  have h3' : fn.toNat = 3 → rb.toNat = 0 := fun h => by rw [h3 (BitVec.eq_of_toNat_eq h)]; rfl
  have hlegal : ¬ (decide ((0 : BitVec 5).toNat ≠ 0) || decide (fn.toNat > 5) || (decide (fn.toNat = 3) && decide (rb.toNat ≠ 0))) =
      true := by
    simp only [Bool.or_eq_true, Bool.and_eq_true, decide_eq_true_eq, toNat_zero5]
    omega
  have hthere : ¬ (c.ahead || c.waits [.g rd.toNat, .g ra.toNat, .g rb.toNat]) = true := by
    rw [hahead, hr]
    decide
  refine ⟨fun hi hv hfree => congrArg Host.Outcome.next (State.row_of_done hst ?_),
    fun hbad => congrArg Host.Outcome.next (State.row_of_illegal hst ?_)⟩ <;>
    refine (if_neg hlegal).trans ((if_neg hthere).trans ?_)
  · refine (if_neg ?_).trans (if_neg (ne_true_of_eq_false hfree))
    rw [Bool.or_eq_true, decide_eq_true_iff, decide_eq_true_iff, not_or]
    exact ⟨Nat.not_le.2 hi, not_not.2 hv⟩
  · refine if_pos ?_
    rw [Bool.or_eq_true, decide_eq_true_iff, decide_eq_true_iff]
    exact hbad

theorem tkstat : Says.tkstat := by
  intro t late rd ra fn s hfn hst hahead hr x n
  have hlegal : ¬ (decide ((0 : BitVec 5).toNat ≠ 0) || decide ((0 : BitVec 5).toNat ≠ 0) || decide (fn.toNat > 2)) = true := by
    simp only [Bool.or_eq_true, decide_eq_true_eq, toNat_zero5]
    omega
  have hthere : ¬ (x.core.ahead || x.core.waits [.g ra.toNat]) = true := by
    rw [hahead, hr]
    decide
  exact ⟨fun hn => congrArg Host.Outcome.next (State.row_of_done hst
      ((if_neg hlegal).trans ((if_neg hthere).trans (if_neg (Nat.not_lt.2 hn))))),
    fun hn => congrArg Host.Outcome.next (State.row_of_exc hst
      ((if_neg hlegal).trans ((if_neg hthere).trans (if_pos hn))))⟩

/-- Settles O37: a service call commits and is answered; the other rows have their operands listed and there. -/
theorem servicesDescriptorsTickets : Obligations.ServicesDescriptorsTickets := ⟨services, halt, descw, tkstat⟩

end Sys2Proof.Machine

/-! Proofs for bundles and run-ahead of the tile core (08, 10): R155 to R171, R218, R320. -/

namespace Sys2Proof.Machine

/-! ### Bundles (R155 to R158, R161, R166) -/

theorem commits : Says.commits := by
  intro s t len taken hp hrun
  exact State.commit_plain hp len taken (by rw [hrun])

/-- A core that issues waits in no bundle. -/
theorem State.waitsIn_of_running {s : State} {t : Nat} (h : (s.tile t).core.run = .running) : s.waitsIn t = none := by
  rw [State.waitsIn, h]

theorem State.running_of_issues {s : State} {t : Nat} (h : s.issues t = true) : (s.tile t).core.run = .running := by
  simp only [State.issues, Bool.and_eq_true, decide_eq_true_eq] at h
  obtain ⟨⟨⟨⟨hrun, -⟩, -⟩, -⟩, -⟩ := h
  exact hrun

theorem bundle : Says.bundle := by
  intro t late value us s c v hf hv hpc hmem
  simp only [State.fetches, Bool.and_eq_true, Bool.not_eq_true', decide_eq_true_eq] at hf
  obtain ⟨⟨⟨hissues, hlib⟩, hin⟩, hclean⟩ := hf
  have hfetch := s.fetch_clean t.toNat _ 32 hclean
  have hwhole : (decide (value.toNat % 2 ^ 32 % 128 = 0x7F) && decide ((s.tile t.toNat).core.pc % 32 = 0)) = true := by
    rw [Nat.mod_mod_of_dvd _ (by decide), decide_eq_true hv, decide_eq_true hpc]
    rfl
  have hin' : ¬ (s.tile t.toNat).core.pc ≥ 0x20000 := Nat.not_le.2 hin
  simp only [exec, execBundle, State.waitsIn_of_running (State.running_of_issues hissues), hissues, hlib, hin', hwhole, hfetch,
    Bool.not_true, Bool.or_self, Bool.false_eq_true, if_false, if_true]
  exact if_pos hmem

/-- A bundle whose registers are there, of a core that no barrier of its own holds back, goes on to its checks. -/
theorem State.bundleAt_of_ready {s : State} {t v : Nat} (hr : (s.tile t).core.waits (bnReads v) = false)
    (hahead : ((s.tile t).core.ahead && hasSync v) = false) (late : Bool) :
    (∀ e, s.bundleCheck t v = some e → hasScalar v = false → s.bundleAt t v late = s.exceptAt t e.1 e.2) ∧
    (∀ e cause detail, s.bundleCheck t v = some e → hasScalar v = true → scalarOp t late 32 (bnScalar v) s = .exc cause detail →
      s.bundleAt t v late = if cause < e.1 then s.exceptAt t cause detail else s.exceptAt t e.1 e.2) ∧
    (s.bundleCheck t v = none → s.bundleAt t v late = s.bundleGo t v late) := by
  refine ⟨fun e he hno => ?_, fun e cause detail he hsc hop => ?_, fun hnone => ?_⟩
  · simp only [State.bundleAt, hr, hahead, he, hno, Bool.or_self, Bool.false_eq_true, if_false]
  · simp only [State.bundleAt, hr, hahead, he, hsc, hop, Bool.or_self, Bool.false_eq_true, if_false, if_true]
  · simp only [State.bundleAt, hr, hahead, hnone, Bool.or_self, Bool.false_eq_true, if_false]

theorem bundleIllegal : Says.bundleIllegal := by
  intro t v late s hbad hr hahead
  have hcheck : s.bundleCheck t v = some (3, bnHeader v) := by
    simp only [State.bundleCheck, hbad, if_true]
  have hahead' : ((s.tile t).core.ahead && hasSync v) = false := by rw [hahead, Bool.false_and]
  obtain ⟨noScalar, scalar, -⟩ := State.bundleAt_of_ready hr hahead' late
  exact ⟨noScalar (3, bnHeader v) hcheck, fun cause detail => scalar (3, bnHeader v) cause detail hcheck⟩

/-- A bundle of a core that runs, without a sync slot, goes on to its slots. -/
theorem State.bundleGo_of_noSync {s : State} {t v : Nat} (hrun : (s.tile t).core.run = .running) (hs : hasSync v = false)
    (late : Bool) : s.bundleGo t v late = s.bundleRest t v late 1 := by
  simp only [State.bundleGo, hrun, hs, Bool.not_false, if_true]

/-- A bundle of a scalar slot only that completes commits with it. -/
theorem State.bundleRest_of_scalar {s u : State} {t v pd : Nat} {late : Bool} {taken : Option Nat} (hsc : hasScalar v = true)
    (ha : hasArray v = false) (hv : hasVector v = false) (hd : hasDma v = false) (hs : hasSync v = false)
    (hop : scalarOp t late 32 (bnScalar v) (s.modCore t (fun c => { c with run := .running })) = .done u taken) :
    s.bundleRest t v late pd = (u.modTile t (fun z => z.issueAll v (s.tile t).core)).commit t 32 taken := by
  have hroom : (u.tile t).room v = true := by
    rw [Tile.room, ha, hv, hd]
    rfl
  have hissue : u.bundleIssue t v (s.tile t).core = some (u.modTile t (fun z => z.issueAll v (s.tile t).core)) := by
    simp only [State.bundleIssue, hroom, hs, Bool.not_true, Bool.not_false, Bool.false_eq_true, if_false, if_true]
  simp only [State.bundleRest, hsc, hs, Bool.false_and, Bool.false_eq_true, if_false, if_true, hop, hissue]

theorem bundleScalar : Says.bundleScalar := by
  intro t v late u s taken hhead hsc ha hv hd hs hrun hop
  have hreads : bnReads v = [] := by
    simp only [bnReads, hd, hs, Bool.false_eq_true, if_false, List.append_nil]
  have hr : (s.tile t).core.waits (bnReads v) = false := by
    rw [hreads]
    rfl
  have hcheck : s.bundleCheck t v = none := by
    simp only [State.bundleCheck, hhead, ha, hv, hd, hs, Bool.false_and, Bool.false_eq_true, if_false]
  have hahead : ((s.tile t).core.ahead && hasSync v) = false := by rw [hs, Bool.and_false]
  obtain ⟨-, -, go⟩ := State.bundleAt_of_ready hr hahead late
  rw [go hcheck, State.bundleGo_of_noSync hrun hs, State.bundleRest_of_scalar hsc ha hv hd hs hop]

theorem waitExpiry : Says.waitExpiry := by
  intro t v since phase s hrun hlim htime hover
  simp only [exec, execSyncWaitExpiry, hrun, hlim, htime, hover, ne_eq, not_false_eq_true, decide_true, Option.isNone_none,
    Bool.and_self, if_true]

/-! ### Branches that resolve (R168, R171) -/

/-- A result in a g register changes the g registers and the pending results only. -/
theorem Core.result_g_eq (c : Core) (late : Bool) (deps : List Dst) (i v : Nat) :
    ∃ g pend, c.result late deps (.g i) v = { c with g := g, pend := pend } := by
  simp only [Core.result, Core.wr]
  split
  · exact ⟨_, _, rfl⟩
  · split
    · exact ⟨_, _, rfl⟩
    · split <;> exact ⟨_, _, rfl⟩

/-- The registers that a wrong guess takes back, and the path it goes on with. -/
theorem Core.wrongGuess_eq (c : Core) (k : Ckpt) (taken : Bool) : ∃ g pend,
    (let d : Core := { c with g := k.g, f := k.f, p := k.p, pend := k.pend, pc := k.otherPc, ckpts := [], prov := [] }
     if k.callee && taken then d.result false [] (.g 31) k.link else d) =
    { c with g := g, f := k.f, p := k.p, pend := pend, pc := k.otherPc, ckpts := [], prov := [] } := by
  dsimp only
  split
  · obtain ⟨g, pend, h⟩ := Core.result_g_eq
      { c with g := k.g, f := k.f, p := k.p, pend := k.pend, pc := k.otherPc, ckpts := [], prov := [] } false [] 31 k.link
    exact ⟨g, pend, h⟩
  · exact ⟨_, _, rfl⟩

/-- A commit of a core that is not traced counts it and does nothing else. -/
theorem State.traceCommit_untraced {s : State} {t : Nat} (h : s.traced t = false) (taken : Option Nat) :
    s.traceCommit t taken = s.modCore t (fun c => { c with commits := c.commits + 1 }) := by
  simp only [State.traceCommit, State.traced_modCore, h, Bool.not_false, if_true]

/-- A wrong guess of a core that is not traced changes that core alone: it drops what is provisional, takes back the registers
and goes on with the other path. -/
theorem State.resolveBranch_wrong {s : State} {t : Nat} {k : Ckpt} {rest : List Ckpt}
    (hwrong : ((k.pred = 0 || bit k.p k.pred) != k.neg) ≠ k.predicted) (htrace : s.traced t = false) :
    ∃ g pend, s.resolveBranch t k rest = s.modCore t (fun c =>
      { c with g := g, f := k.f, p := k.p, pend := pend, pc := k.otherPc, ckpts := [], prov := [], commits := c.commits + 1 }) := by
  obtain ⟨g, pend, hcore⟩ := Core.wrongGuess_eq (s.tile t).core k ((k.pred = 0 || bit k.p k.pred) != k.neg)
  refine ⟨g, pend, ?_⟩
  simp only [State.resolveBranch, hwrong, if_false]
  rw [State.traceCommit_untraced (by rw [State.traced_modCore]; exact htrace), State.modCore_modCore]
  simp only [State.modCore, State.modTile]
  dsimp only at hcore
  rw [hcore]

theorem branchResolve : Says.branchResolve := by
  intro t k rest s hck hpend hfrozen
  have hstep : exec (.branchResolve t) s = .next (s.resolveBranch t.toNat k rest) := by
    simp only [exec, execBranchResolve, hck, hpend, hfrozen, Bool.or_self, Bool.false_eq_true, if_false]
  refine ⟨hstep, fun hwrong htrace => ⟨_, hstep, ?_⟩⟩
  obtain ⟨g, pend, h⟩ := State.resolveBranch_wrong (rest := rest) hwrong htrace
  rw [h, State.tile_modCore_self]
  exact ⟨rfl, rfl, rfl, rfl, rfl, rfl, rfl⟩

theorem coreStop : Says.coreStop := by
  intro t c s hc
  constructor <;> simp only [exec, execCoreStop, hc, Bool.false_eq_true, if_false, if_true]

/-- Settles O38: the bundle's slots and checks pick the branch, a wrong guess writes one core. -/
theorem bundlesAndRunAhead : Obligations.BundlesAndRunAhead :=
  ⟨commits, bundle, bundleIllegal, bundleScalar, waitExpiry, fun _ _ _ => rfl, branchResolve, coreStop⟩

end Sys2Proof.Machine

/-! Proofs for the steps of the array and the loads of the lane weight store (04, 05, 11): R65 to R103, R223 to R236. -/

namespace Sys2Proof.Machine

/-! ### Steps of the array (R65 to R103, R223) -/

theorem stepBegin : Says.stepBegin := by
  intro t o s ho x w u
  simp only [x, w, u]
  refine ⟨fun hdis => ?_, fun hdis hfail => ?_, fun hdis hok hmode => ?_, fun hdis hok hmode hzero => ?_⟩
  · simp only [exec, execStepOperationBegin, ho, hdis, if_true]
  · simp only [exec, execStepOperationBegin, ho, hdis, hfail, Bool.false_eq_true, if_false, if_true]
  · have hskip : (decide (stMode o.i.word = 0) && ((s.tile t.toNat).slot (stSlot o.i.word)).zero) = false := by
      obtain h1 | hz := hmode
      · rw [h1]
        rfl
      · rw [hz, Bool.and_false]
    simp only [exec, execStepOperationBegin, ho, hdis, hok, hskip, Bool.false_eq_true, if_false]
  · simp only [exec, execStepOperationBegin, ho, hdis, hok, hmode, hzero, decide_true, Bool.and_self, Bool.false_eq_true, if_false,
      if_true]

theorem tritStep : Says.tritStep := by
  intro t le us o s u vs bad ho hmode hsub w a4 e gs hread hcode
  simp only [w, a4, e, gs] at hread hcode ⊢
  simp only [exec, execTritStep, ho, hmode, hsub, hread, hcode, Nat.zero_ne_one, ne_eq, not_true_eq_false, decide_false, Bool.or_self,
    Bool.false_eq_true, if_false]

theorem tritStepFails : Says.tritStepFails := by
  intro t le us o s ho hmode hsub w a4 u r
  simp only [w, a4, u, r]
  refine ⟨fun hread => ?_, fun vs bad v hread hcode => ?_⟩
  · simp only [exec, execTritStep, ho, hmode, hsub, hread, Nat.zero_ne_one, ne_eq, not_true_eq_false, decide_false, Bool.or_self,
      Bool.false_eq_true, if_false]
  · simp only [exec, execTritStep, ho, hmode, hsub, hread, hcode, Nat.zero_ne_one, ne_eq, not_true_eq_false, decide_false,
      Bool.or_self, Bool.false_eq_true, if_false, if_true]

theorem outlierDigitStep : Says.outlierDigitStep := by
  intro t le us o s ho hmode hsub w n base u r bs val hin hrange
  simp only [w, n, base, u, r, bs, val] at hin hrange ⊢
  have hin' : (decide (adOcount o.i.d0 ≠ 0) &&
      !inSp (adObase o.i.d0 + o.next * adOstride o.i.d0) (2 * adOcount o.i.d0)) = false := by
    by_cases h0 : adOcount o.i.d0 = 0
    · rw [h0]
      rfl
    · rw [hin h0, Bool.not_true, Bool.and_false]
  simp only [exec, execOutlierDigitStep, ho, hmode, hsub, hin', hrange, Nat.zero_ne_one, decide_false, Bool.or_self,
    Bool.false_eq_true, if_false]

theorem planeToken : Says.planeToken := by
  intro t le us o s u vs bad ho hmode w gs b e hread
  simp only [w, gs, b, e] at hread ⊢
  simp only [exec, execPlaneToken, ho, hmode, hread, ne_eq, not_true_eq_false, if_false] <;> rfl

theorem checkComparison : Says.checkComparison := by
  intro t c r s hc x
  simp only [x]
  constructor <;> intro hkl <;>
    simp only [exec, execCheckComparison, hc, hkl, Bool.false_eq_true, if_false, if_true]

/-- Settles O39: the operation at the front is the one named, and its mode and what its reads give pick the branch. -/
theorem arraySteps : Obligations.ArraySteps :=
  ⟨stepBegin, tritStep, tritStepFails, outlierDigitStep, planeToken, checkComparison⟩

/-! ### Loads of the lane weight store (R70, R77, R84 to R86, R224 to R236) -/

theorem blockLoad : Says.blockLoad := by
  intro t us o s ho hmode hpatch hdis hheld w u
  simp only [w, u]
  refine ⟨fun hform => ?_, fun hform => ?_, fun hform => ?_⟩
  · simp only [exec, execBlockLoad, ho, hmode, hpatch, hdis, hheld, hform, Nat.zero_ne_one, decide_false, Bool.or_self,
      Bool.false_eq_true, if_false]
  · simp only [exec, execBlockLoad, ho, hmode, hpatch, hdis, hheld, hform, Nat.zero_ne_one, decide_false, Bool.or_self,
      Bool.false_eq_true, if_false]
    generalize State.transposed _ _ _ _ = r
    obtain ⟨_ | b, v⟩ := r <;> rfl
  · obtain hform | hform := hform <;>
    · simp only [exec, execBlockLoad, ho, hmode, hpatch, hdis, hheld, hform, Nat.zero_ne_one, decide_false, Bool.or_self,
        Bool.false_eq_true, if_false]
      generalize State.imageBlock _ _ _ _ = r
      obtain ⟨_ | b, v⟩ := r <;> rfl

theorem slotCopyLoad : Says.slotCopyLoad := by
  intro t us o s ho hmode hpatch hsrc hdis hheld v
  simp only [v]
  refine ⟨fun hform hplane => ?_, fun hbad => ?_⟩
  · simp only [exec, execSlotCopyLoad, ho, hmode, hpatch, hsrc, hdis, hheld, hform, hplane, Nat.zero_ne_one, ne_eq,
      not_true_eq_false, decide_false, Option.isSome_none, Bool.and_self, Bool.not_true, Bool.or_self, Bool.false_eq_true, if_false]
  · have hbad' : (decide (ldForm o.i.word ≠ 0) || ((s.tile t.toNat).slot (pdSrc o.i.d0)).plane.isSome) = true := by
      rwa [Bool.or_eq_true, decide_eq_true_iff, Option.isSome_iff_ne_none]
    simp only [exec, execSlotCopyLoad, ho, hmode, hpatch, hsrc, hdis, hheld, hbad', Nat.zero_ne_one, decide_false, Bool.and_self,
      Bool.not_true, Bool.or_self, Bool.false_eq_true, if_false, if_true]

theorem planeBlockLoad : Says.planeBlockLoad := by
  intro t us o s ho hmode hdis hheld w b first blks ea er good ex hexp
  have hread : (decide (ldForm w = 1) && (List.range 1024).any (fun l => !er.2.1.contains ((ea + l) / 8) &&
      (decide (ex l = 0) || decide (ex l = 255) || decide (ex l > ldEref w)))) = false := by
    by_cases hform : ldForm w = 1
    · rw [decide_eq_true hform, Bool.true_and, List.any_eq_false]
      intro l hl hbad
      obtain ⟨hgood, hill⟩ := (Bool.and_eq_true _ _).mp hbad
      obtain ⟨h0, h255, hle⟩ := hexp l (List.mem_range.1 hl) (by
        simp only [good]
        rw [hgood, decide_eq_true hform]
        rfl)
      rw [decide_eq_false h0, decide_eq_false h255, decide_eq_false (Nat.not_lt.2 hle)] at hill
      cases hill
    · rw [decide_eq_false hform, Bool.false_and]
  simp only [exec, execPlaneBlockLoad, ho]
  refine (if_neg (not_not.2 hmode)).trans ((if_neg (ne_true_of_eq_false hdis)).trans ((if_neg (ne_true_of_eq_false hheld)).trans ?_))
  exact if_neg (ne_true_of_eq_false hread)

/-- Settles O40: nothing holds the load, and its form and what its reads give pick the branch. -/
theorem laneWeightLoads : Obligations.LaneWeightLoads := ⟨blockLoad, slotCopyLoad, planeBlockLoad⟩

end Sys2Proof.Machine

/-! Proofs for DMA transfers (10, 13, 16): R196 to R221, R267 to R269, R279, R331, R339, R360; and for memory-side adds R115, R346 to
R350, R389. -/

namespace Sys2Proof.Machine

/-! ### Issue (R197 to R210, R267 to R269, R279) -/

/-- A descriptor read leaves the transfer's ticket. -/
theorem Xfer.ticket_load (q : Xfer) (bs : List Byte) (sparse : Nat → Nat) : (q.load bs sparse).ticket = q.ticket := rfl

/-- What TRANSFER_BEGIN does with the transfer at the head of its queue, by what its descriptor read gives and loads. -/
theorem exec_transferBegin {t : Byte} {queue : BitVec 2} {us : List Upset} {q l : Xfer} {r : List Byte × List Nat × State} {s : State}
    (hq : (s.tile t.toNat).headX queue.toNat = some q) (hst : q.st = .queued) (hrun : s.mayRun t.toNat = true)
    (hr : (s.modTile t.toNat (fun x => x.strike us)).spRead t.toNat (dmaDaddr q.i.word) 64 = r)
    (hl : q.load r.1 (fun i => NMap.get 0 (r.2.2.tile t.toNat).sparse i) = l) :
    exec (.transferBegin t queue us) s =
      if !r.2.1.isEmpty then .next (r.2.2.endX t.toNat q 0 .poisoned 0 false)
      else if ({ l with st := .running } : Xfer).bad then
        .next (r.2.2.endX t.toNat { l with st := .running } 0 .badCommand 0 false)
      else .next (r.2.2.modTile t.toNat (fun x => x.modX l.ticket (fun _ => { l with st := .running }))) := by
  have hgo : (decide (q.st ≠ .queued) || !s.mayRun t.toNat) = false := by
    rw [hst, hrun]
    rfl
  simp only [exec, execTransferBegin, hq, hr, hl]
  exact if_neg (ne_true_of_eq_false hgo)

theorem transferBegin : Says.transferBegin := by
  intro t queue us q s hq hst hrun r p
  have hp : p = { q.load r.1 (fun i => NMap.get 0 (r.2.2.tile t.toNat).sparse i) with st := .running } := rfl
  generalize hl : q.load r.1 (fun i => NMap.get 0 (r.2.2.tile t.toNat).sparse i) = l at hp
  have hticket : q.ticket = l.ticket := by
    rw [← hl, Xfer.ticket_load]
  have hexec := exec_transferBegin (us := us) (r := r) hq hst hrun rfl hl
  clear_value p r
  subst hp
  refine ⟨fun hbad => ?_, fun hok hbad => ?_, fun hok hgood => ?_⟩
  · simp only [hexec, hbad, Bool.not_false, if_true]
  · simp only [hexec, hok, hbad, Bool.not_true, Bool.false_eq_true, if_false, if_true]
  · simp only [hexec, hok, hgood, hticket, Bool.not_true, Bool.false_eq_true, if_false]

theorem elementBatch : Says.elementBatch := by
  intro t queue n us q s hq hturn u
  simp only [u]
  refine ⟨fun hper => ?_, fun hper => ?_, ?_⟩
  · simp only [exec, execElementBatch, hq, hturn, hper, Bool.not_true, Bool.false_eq_true, if_false, if_true]
  · simp only [exec, execElementBatch, hq, hturn, hper, Bool.not_true, Bool.false_eq_true, if_false]
  · simp only [exec, execElementBatch, hq, hturn, State.datapath, Bool.not_true, Bool.false_eq_true, if_false, if_true]

theorem unitIssued : Says.unitIssued := by
  intro t q bs out poison ps s hop hout hps
  have hblock : (decide (q.op = 3) && decide (q.nextIssue < q.elems / 1024)) = false := by
    rw [decide_eq_false hop, Bool.false_and]
  refine ⟨ps.map (fun p => s.outW q q.nextIssue p.1 p.2.1 p.2.2.2
    ((out.drop (p.1 - (ps.head?.map (·.1)).getD 0)).take p.2.2.1) poison), ?_, ?_⟩
  · rw [List.map_map]
    rfl
  · simp only [State.issueUnit, Option.bind_some, hout, hps, hblock, Bool.false_and, Bool.false_eq_true, if_false]

theorem translationWalk : Says.translationWalk := by
  intro t queue us q u va write s hq hmiss hkv c w
  simp only [w, c]
  refine ⟨fun pa size pte hw => ?_, fun hu => ⟨fun hw => ?_, fun hw => ?_, fun hrun => ⟨fun hw => ?_, fun hw => ?_⟩⟩⟩
  · simp only [exec, execTranslationWalk, hq, hmiss, hkv, hw, Bool.false_eq_true, if_false]
  · simp only [exec, execTranslationWalk, hq, hmiss, hkv, hw, hu, decide_true, Bool.false_eq_true, if_false, if_true]
  · simp only [exec, execTranslationWalk, hq, hmiss, hkv, hw, hu, decide_true, Bool.false_eq_true, if_false, if_true]
  · simp only [exec, execTranslationWalk, hq, hmiss, hkv, hw, hu, hrun, decide_true, Bool.and_self, Bool.false_eq_true, if_false,
      if_true]
  · simp only [exec, execTranslationWalk, hq, hmiss, hkv, hw, hu, hrun, decide_true, Bool.and_self, Bool.false_eq_true, if_false,
      if_true]

theorem kvWalk : Says.kvWalk := by
  intro t queue us q u va write s hq hmiss hkv c v
  simp only [v, c]
  refine ⟨fun a r pa off hrun => ⟨fun hgood => ?_, fun hbad hu hst => ?_⟩, fun st hfail hu hst => ?_⟩
  · simp only [exec, execTranslationWalk, hq, hmiss, hkv, hrun, hgood, Bool.false_eq_true, if_false, if_true]
  · simp only [exec, execTranslationWalk, hq, hmiss, hkv, hrun, hbad, hu, hst, decide_true, Bool.and_self, Bool.false_eq_true,
      if_false, if_true]
  · simp only [exec, execTranslationWalk, hq, hmiss, hkv, hfail, hu, hst, decide_true, Bool.and_self, Bool.false_eq_true, if_false,
      if_true]

/-! ### Data (R211 to R218, R279, R331, R339, R360) -/

theorem sourceReadReturn : Says.sourceReadReturn := by
  intro t queue data poison us q u ps s hq hsrc
  simp only [exec, execSourceReadReturn, hq, hsrc, State.stage]

/-- A read that never completes stages free bytes, poisoned, for its unit and raises its event (R339, R360). -/
theorem State.readTimeout_eq {s : State} {t queue u : Nat} {q : Xfer} {ps : List (Nat × Nat × Nat × Nat)} {p : Nat × Nat × Nat × Nat}
    {hit : Zone → Bool} (hq : s.runningX t queue = some q) (hsrc : s.nextSource t q = some (u, ps))
    (hp : ps.find? (fun p => hit (s.zone p.2.1)) = some p) (ev : Nat → State → Ev) :
    s.readTimeout t queue hit ev =
      (let n := (ps.map (fun p => p.2.2.1)).sum
       let bs := (List.range n).map (fun i => BitVec.ofNat 8 (s.fv i))
       ((s.used n).modTile t (fun x => x.modX q.ticket (fun r =>
         { r with staged := NMap.put r.staged u (some bs, true) }))).raise (ev p.2.1 s)) := by
  simp only [State.readTimeout, hq, hsrc, hp, State.stage, Bool.or_self, Bool.false_eq_true, if_false]

theorem readTimeouts : Says.readTimeouts := by
  intro t queue q u ps p s hq hsrc n v
  exact ⟨fun hp => congrArg Host.Outcome.next (State.readTimeout_eq hq hsrc hp _),
    fun hp => congrArg Host.Outcome.next (State.readTimeout_eq hq hsrc hp _)⟩

theorem writeAcknowledged : Says.writeAcknowledged := by
  intro t queue q w s hq hw
  refine ⟨fun hack => ⟨fun hk => ?_, fun hk => ?_⟩, fun hack hk hst hu => ?_⟩
  · simp only [exec, execWriteAcknowledged, hq, hw, hack, hk, if_true]
  · simp only [exec, execWriteAcknowledged, hq, hw, hack, hk, if_true, if_false]
  · simp only [exec, execWriteAcknowledged, hq, hw, hack, hk, hst, hu, decide_true, Bool.and_self, Bool.false_eq_true, if_false,
      if_true]

theorem plainWrite : Says.plainWrite := by
  intro t q w s hk halone
  refine ⟨fun hok => ?_, fun st haway => ?_⟩
  · simp only [State.ackElem, halone, List.findSome?_cons, hok, List.findSome?_nil, List.foldl_cons, List.foldl_nil]
    rw [if_neg (by rw [hk]; decide)]
  · simp only [State.ackElem, halone, List.findSome?_cons, haway]

theorem pageSwapIn : Says.pageSwapIn := by
  intro ctx va ok s u
  refine ⟨fun e hkv hsw hin => ?_, fun a hkv ha hctx hcheck hin => ?_⟩
  · simp only [exec, execPageSwapIn, hkv, hsw, hin, Bool.false_eq_true, if_false]
  · simp only [exec, execPageSwapIn, hkv, ha, hctx, hcheck, hin, decide_true, Bool.and_self, if_true]

theorem farWriteFailure : Says.farWriteFailure := by
  intro p e addr s hpres hok
  refine if_neg ?_
  rw [hpres, hok]
  decide

/-- Settles O43: the write or the read named is the next one, and its kind, its target and its zone pick the branch. -/
theorem dmaData : Obligations.DmaData :=
  ⟨sourceReadReturn, readTimeouts, writeAcknowledged, plainWrite, pageSwapIn, farWriteFailure⟩

/-! ### Memory-side adds (R115, R346 to R350, R389) -/

theorem intAddOperand : Says.intAddOperand := by
  intro t queue f q w s hop
  refine ⟨fun hok => ?_, fun st haway => ?_⟩
  · simp only [exec, execIntAddOperand, hop, hok, State.applyAdd]
  · simp only [exec, execIntAddOperand, hop, haway]

/-- What an fp32 operand that no target turns away does, in the row its order belongs to. -/
theorem State.fp32Row_eq {s : State} {t queue : Nat} {unordered f : Bool} {q : Xfer} {w : OutW}
    (hop : s.operandOf t queue 2 = some (q, w)) (hok : s.turnedAway t w.pa = none)
    (hrow : decide (bits q.opx 0 32 = 0xFFFFFFFF) = unordered) :
    let v := if f then s.raise (evAdder w.pa) else s
    let r := v.fp32Operand (((v.tile t).ctx).getD 0) w.pa q.opx w.data w.key (w.poison || f)
    (∀ u fl, r = .ok (u, fl) → s.fp32Row t queue unordered f =
      (let u := (u.modCore t (fun c => { c with sticky := c.sticky ||| fl })).countWrite t w.pa 4
       let u := if u.treeOpen (((u.tile t).ctx).getD 0) w.pa q.opx then u else u.noteMarks t w.pa 4
       (u.dropOut t q.ticket (fun v => v.idx = w.idx)).afterAck t q.ticket)) ∧
    (∀ st, r = .error st → s.fp32Row t queue unordered f = v.failOut t q w st) := by
  intro v r
  simp only [r, v]
  refine ⟨fun u fl hr => ?_, fun st hr => ?_⟩ <;>
    simp only [State.fp32Row, hop, hok, hrow, hr, bne_self_eq_false, Bool.false_eq_true, if_false]

theorem fp32Operands : Says.fp32Operands := by
  intro t queue f q w s hop hok v r done
  refine ⟨fun hbits => ?_, fun hbits => ?_⟩
  · obtain ⟨ok, error⟩ := State.fp32Row_eq (f := f) hop hok (decide_eq_false hbits)
    exact ⟨fun u fl hr => congrArg Host.Outcome.next (ok u fl hr), fun st hr => congrArg Host.Outcome.next (error st hr)⟩
  · obtain ⟨ok, error⟩ := State.fp32Row_eq (f := f) hop hok (decide_eq_true hbits)
    exact ⟨fun u fl hr => congrArg Host.Outcome.next (ok u fl hr), fun st hr => congrArg Host.Outcome.next (error st hr)⟩

theorem treeOperand : Says.treeOperand := by
  intro c pa opx key data poison s i n hord
  simp only [i, n]
  refine ⟨fun hbad => ?_, fun hcount hi r hr hleaf hlen => ?_⟩
  · have hbad' : (decide (0xFFFF < bits opx 0 32) || decide (bits opx 0 32 + 1 ≤ bits opx 32 32)) = true := by
      rwa [Bool.or_eq_true, decide_eq_true_iff, decide_eq_true_iff]
    simp only [State.fp32Operand, hord, hbad', if_false, if_true]
  · have hgood : (decide (0xFFFF < bits opx 0 32) || decide (bits opx 0 32 + 1 ≤ bits opx 32 32)) = false :=
      or_decide_false (decide_eq_false (Nat.not_lt.2 hcount)) (Nat.not_le.2 hi)
    simp only [State.fp32Operand, hord, hgood, hr, Option.bind_some, hleaf, Option.isSome_none, Option.isNone_some, Bool.false_and,
      Option.getD_some, hlen, Bool.false_eq_true, if_false, if_true]

/-- Settles O44: the operand named is the next one, and its kind, its target and its tree pick the branch. -/
theorem memorySideAdds : Obligations.MemorySideAdds := ⟨intAddOperand, fp32Operands, treeOperand⟩

end Sys2Proof.Machine

namespace Sys2Proof

/-- Settles O42: the transfer named is the one at its turn, and what it reads or looks up picks the branch. (The model has a
`Machine.dmaIssue` of its own.) -/
theorem dmaIssue : Obligations.DmaIssue :=
  ⟨Machine.transferBegin, Machine.elementBatch, Machine.unitIssued, Machine.translationWalk, Machine.kvWalk⟩

end Sys2Proof


/-! ### The library entries: routing, combining, KV appends and return windows -/

namespace Sys2Proof.Machine

/-! #### ROUTE -/

/-- R245, R248: what one call of ROUTE asks of each of its callers. -/
theorem oneCall_caller {s : State} {ts : List Nat} (h : s.oneCall ts = true) {t : Nat} (ht : t ∈ ts) :
    ∃ i < ts.length, bits ((s.tile t).core.rg 7) 0 8 = i ∧ bits ((s.tile t).core.rg 7) 8 8 = ts.length := by
  obtain ⟨i, hi, rfl⟩ := List.mem_iff_getElem.mp ht
  have hmem : (ts[i], i) ∈ ts.zipIdx := List.mem_zipIdx_iff_getElem?.mpr (List.getElem?_eq_getElem hi)
  have hcaller := List.all_eq_true.mp h _ hmem
  simp only [Bool.and_eq_true, decide_eq_true_eq] at hcaller
  obtain ⟨⟨⟨_, hrank⟩, hcount⟩, _⟩ := hcaller
  exact ⟨i, hi, hrank, hcount⟩

/-- R248: no caller of one call has a count or a rank out of range. -/
theorem oneCall_not_badCaller {s : State} {ts : List Nat} (hlen : ts.length ≤ 16) (h : s.oneCall ts = true) :
    ts.any s.badCaller = false := by
  refine List.any_eq_false.mpr fun t ht => ?_
  obtain ⟨i, hi, hrank, hcount⟩ := oneCall_caller h ht
  simp only [State.badCaller, hrank, hcount, Bool.and_eq_true, Bool.or_eq_true, decide_eq_true_eq, not_and]
  omega

theorem route : Says.route := by
  intro callers t s
  refine ⟨fun hne hlen hone => ?_, fun hat hbad => ?_⟩
  · have hgood := oneCall_not_badCaller (by simpa using hlen) hone
    have hsome : (callers.map (fun (t : Byte) => t.toNat)).isEmpty = false := by simpa using hne
    simp only [exec, execRoute, hgood, hone, hsome, Bool.not_false, Bool.and_self, Bool.false_eq_true, if_false, if_true]
  · have hcaller : s.badCaller t.toNat = true := by
      simp only [State.badCaller, hat, Bool.true_and, Bool.or_eq_true, decide_eq_true_eq]
      exact or_assoc.mpr hbad
    simp only [exec, execRoute, List.map_cons, List.map_nil, List.any_cons, List.any_nil, hcaller, Bool.or_false, if_true,
      List.filter_cons, List.filter_nil, List.foldl_cons, List.foldl_nil, State.libStatus]

/-! #### COMBINE -/

theorem combine : Says.combine := by
  intro t s hat g u m
  have hexec : exec (.combine t) s = execCombine t s := rfl
  refine ⟨fun hready => ?_, fun st hother hfails => ?_, fun hout => ?_, fun hin hbad => ?_, fun hin hgood hrec => ?_⟩
  · rw [hexec, execCombine, hat]
    by_cases hown : u = t.toNat
    · exact (if_neg (by decide)).trans (if_pos hown)
    · obtain ⟨htarget, hscrub⟩ := hready.resolve_left hown
      refine (if_neg (by decide)).trans ((if_neg hown).trans ?_)
      simp only [u, g] at htarget hscrub
      simp only [htarget, hscrub, Bool.false_eq_true, if_false]
  · rw [hexec, execCombine, hat]
    refine (if_neg (by decide)).trans ((if_neg hother).trans ?_)
    simp only [u, g] at hfails
    simp only [hfails, State.libStatus]
  · exact if_pos (by simp only [g] at hout; simp only [hout, Bool.not_false])
  · refine (if_neg ?_).trans (if_pos ?_)
    · simp only [g] at hin; simp only [hin, Bool.not_true, Bool.false_eq_true, not_false_eq_true]
    · simp only [m, g, u] at hbad; simp only [hbad, Bool.not_false]
  · refine (if_neg ?_).trans ((if_neg ?_).trans ?_)
    · simp only [g] at hin; simp only [hin, Bool.not_true, Bool.false_eq_true, not_false_eq_true]
    · simp only [m, g, u] at hgood; simp only [hgood, Bool.not_true, Bool.false_eq_true, not_false_eq_true]
    · simp only [m, g, u] at hrec ⊢
      simp only [hrec, State.libStatus]

/-! #### ABANDON and the KV entries -/

theorem abandon : Says.abandon := by
  intro t s hat x code hit
  have hexec : exec (.abandon t) s = execAbandon t s := rfl
  rw [hexec, execAbandon, hat]
  exact if_neg (by decide)

theorem kvAppend : Says.kvAppend := by
  intro t s hat x g bad
  have hexec : exec (.kvAppend t) s = .next (s.appendCall t.toNat) := if_pos hat
  have hcond : (g 5 = 0 || decide (64 < g 5) || decide (1024 ≤ g 2) ||
      !(s.carriers t.toNat (g 2)).any (fun e => decide (e.2.1 ≤ g 4) && decide (g 4 + g 5 ≤ e.2.2))) = true ↔ bad := by
    simp only [bad, Bool.or_eq_true, decide_eq_true_eq, or_assoc, Bool.not_eq_true', ← Bool.not_eq_true, List.any_eq_true,
      Bool.and_eq_true]
  refine ⟨fun hbad => ?_, fun hgood a hattn hk hv => ?_⟩
  · exact hexec.trans (congrArg Host.Outcome.next (if_pos (hcond.mpr hbad)))
  · refine hexec.trans (congrArg Host.Outcome.next ((if_neg (mt hcond.mp hgood)).trans ?_))
    simp only [g, x] at hattn hk hv
    simp only [hattn, hk, hv, Bool.not_true, Bool.or_self, Bool.false_eq_true, if_false]
    rfl

theorem kvRecvOpen : Says.kvRecvOpen := by
  intro t s hat x c g bad
  have hexec : exec (.kvRecvOpen t) s = .next (s.recvOpen t.toNat) := if_pos hat
  have hcond : (g 2 = 0 || decide (65536 ≤ g 2) || decide (16384 ≤ g 6) || g 7 = 0 || decide (65535 < g 7) ||
      !x.freeArea (g 3) (g 4)) = true ↔ bad := by
    simp only [bad, Bool.or_eq_true, decide_eq_true_eq, or_assoc, Bool.not_eq_true']
  refine ⟨fun hbad => ?_, fun hgood hno => ?_, fun hgood hfree hroom => ?_⟩
  · exact hexec.trans (congrArg Host.Outcome.next (if_pos (hcond.mpr hbad)))
  · refine hexec.trans (congrArg Host.Outcome.next ((if_neg (mt hcond.mp hgood)).trans (if_pos ?_)))
    simpa only [Bool.or_eq_true, Bool.not_eq_true'] using hno
  · refine hexec.trans (congrArg Host.Outcome.next ((if_neg (mt hcond.mp hgood)).trans (if_neg ?_)))
    simp only [c, g, x] at hfree hroom
    simp only [hfree, hroom, Bool.not_true, Bool.or_self, Bool.false_eq_true, not_false_eq_true]

/-! #### Return windows -/

theorem windowDeadline : Says.windowDeadline := by
  intro ctx tag s
  rfl

/-- R257: what a closing window does once its tile is out of any scrub pass. -/
theorem exec_windowCloseComplete {ctx : Byte} {tag : W16} {w : Window} {s : State}
    (hw : s.windows.find? (fun w => w.ctx = ctx.toNat && w.tag = tag.toNat && w.closing.isSome) = some w)
    (hscrub : (w.status.isSome && (s.quad (quadOf w.tile)).scrubPass) = false) :
    exec (.windowCloseComplete ctx tag) s =
      .next ((((State.writeStatus { s with windows := s.windows.filter (fun v => !(v.ctx = w.ctx && v.tag = w.tag)) } w).retireTag
        w.ctx w.tag)).signalAdd w.ctx w.sig 1) := by
  simp only [exec, execWindowCloseComplete, hw, hscrub, Bool.false_eq_true, if_false]

theorem windowClose : Says.windowClose := by
  intro ctx tag w s hw u done
  refine ⟨fun hnone => ?_, fun a hsome hscrub => ⟨fun hno => ?_, fun hyes => ?_⟩⟩
  · refine (exec_windowCloseComplete hw (by rw [hnone]; rfl)).trans ?_
    simp only [State.writeStatus, hnone]
    rfl
  · refine (exec_windowCloseComplete hw (by rw [hsome, hscrub]; rfl)).trans ?_
    simp only [u] at hno
    simp only [State.writeStatus, hsome, hno, if_true]
    rfl
  · refine (exec_windowCloseComplete hw (by rw [hsome, hscrub]; rfl)).trans ?_
    simp only [u] at hyes
    simp only [State.writeStatus, hsome, hyes, Bool.false_eq_true, if_false]
    rfl

/-- Settles O45: each library entry by the branch of its call that its arguments choose. One call of ROUTE has no caller out of
range, since its callers carry the ranks below its length as their own. -/
theorem libraryEntries : Obligations.LibraryEntries :=
  ⟨route, combine, abandon, kvAppend, kvRecvOpen, windowDeadline, windowClose⟩

end Sys2Proof.Machine
